-- ==== Sys2Proof/Word.lean ====
section
/-! DEFINITION. The word types of the CZ-9036 and the type of a sparse table.
Registers, encoded fields and wrapping arithmetic are bit vectors; indices, counts and addresses used as
keys are natural numbers. -/
namespace Sys2Proof

/-- One byte. -/
abbrev Byte := BitVec 8
/-- A 32-bit register of the register space (00_scope.md). -/
abbrev W32 := BitVec 32
/-- A 64-bit scalar or per-thread vector register (R67, R68). -/
abbrev W64 := BitVec 64
/-- A mask over the 32 threads of a group, or over the 32 logical cores. -/
abbrev Mask := BitVec 32

/-- A sparse table: keys strictly rising, no entry equal to the table's default (see `twf`). -/
abbrev Tbl (α : Type) := List (Nat × α)

end Sys2Proof
end

