-- ==== Sys2Proof/Syntax.lean ====
section
/-! DEFINITION. The commands of the CZ-9036: one constructor of `Instr` for each row of spec/opcode_table.json,
with the row's operands, and the records those operands are made of.

A row that is an instruction of the cores takes the physical core, the group slot that the issue logic grants,
and the fields of the fetched word (Table 05-1). A row that is an event takes the unit it happens to, and what
the outside world or a hardware fault brings with it (a packet, a reading, the verdict of a detector). -/
namespace Sys2Proof

/-- What the ECC of a core reports while an instruction issues: nothing; a multi-bit error in a register it reads
(Table 03-4, cause 0x06); a single-bit or a multi-bit error in a near-cache line it reads (R89). -/
inductive Flaw where
  | clean
  | register
  | nearSingle
  | nearMulti
deriving DecidableEq, Repr

/-- The fields of a fetched instruction word below its opcode (Table 05-1, R145), and what the core's ECC reports as it
issues. -/
structure InsnWord where
  pred : BitVec 3 := 0
  neg : Bool := false
  d : BitVec 7 := 0
  a : BitVec 7 := 0
  b : BitVec 7 := 0
  c : BitVec 7 := 0
  md : BitVec 24 := 0
  flaw : Flaw := .clean
deriving DecidableEq, Repr

/-- A path to the register space (Table 19-2): the Hub, the register half of the physical function's BAR0,
the view page of a function's BAR0, and JTAG. -/
inductive Path where
  | hub
  | pf
  | view (fn : Nat)
  | jtag
deriving DecidableEq, Repr

/-- A fault of the matrix hardware: `delta` is added to the block sum of block `blk`, element (`row`, `col`),
in units of 2^-300 for floating formats and of 1 for integer formats (R129, R131). -/
structure MatFault where
  blk : Nat
  row : Nat
  col : Nat
  delta : Int
  /-- the traversal in which it happens (R60, R129) -/
  pass : Nat := 0
deriving DecidableEq, Repr

/-- What the hardware brings to a checksum comparison: a fault or none, and whether the comparator under an
injected test wrongly reports agreement (R129, R136). -/
structure CheckInput where
  fault : Option MatFault := none
  stuck : Bool := false
deriving DecidableEq, Repr

/-- An error that the local-store patrol finds in the row it reads: the bank, and one bit or several (R197, R198). -/
structure EccHit where
  bank : Nat
  multi : Bool
deriving DecidableEq, Repr

/-- What the two ECC layers of HBM report for a line (R228). -/
inductive EccError where
  | clean
  | single
  | multi
  | stack
deriving DecidableEq, Repr

/-- One budget window of a channel: for each pseudo-channel, the lines served to its owner, the lines asked for,
and the access class of Table 08-1 (0 streamed, 1 scattered, 2 other). -/
structure WindowInput where
  served0 : Nat
  served1 : Nat
  demand0 : Nat
  demand1 : Nat
  class0 : Nat
  class1 : Nat
deriving DecidableEq, Repr

/-- What the ECC of a slice reports in a lookup (R244). -/
inductive SliceError where
  | clean
  | single
  | dataMulti
  | tagMulti
deriving DecidableEq, Repr

/-- A lookup's kind: a write or a read, whether it covers the whole line, the no-allocate attribute of R241,
an atomic, and what the slice's ECC reports. -/
structure LookupInput where
  write : Bool := false
  whole : Bool := false
  na : Bool := false
  atomic : Bool := false
  err : SliceError := .clean
deriving DecidableEq, Repr

/-- A Spoke packet (R412) with the sender's outbound window that R266 compares. -/
structure RemotePacket where
  op : Nat
  vc : Nat := 0
  src : Nat := 0
  dst : Nat := 0
  win : Nat := 0
  srcWin : Nat := 0
  offset : Nat := 0
  len : Nat := 0
  tag : Nat := 0
  aop : Nat := 0
  reserved : Bool := false
  /-- the cause that an error response gives the requester -/
  cause : Nat := 0
  data : List Byte := []
deriving DecidableEq, Repr

/-- The status of a PCIe completion (R264). -/
inductive HostStatus where
  | ok
  | unsupported
  | abort
  | poisoned
deriving DecidableEq, Repr

/-- A message of R292 and R293: a signal that reaches the home device, a change that reaches a proxy, the home's reply to a
signal that a proxy sent, with the status of R188, and a device that imports an exported slot or drops its proxy. -/
inductive FenceMsg where
  | signal (slot : Nat) (value : W64) (gen : BitVec 16)
  | update (slot : Nat) (value : W64) (state : BitVec 2)
  | reply (slot : Nat) (value : W64) (status : Nat)
  | attach (dev slot : Nat) (gen : BitVec 16)
  | detach (dev slot : Nat)
deriving DecidableEq, Repr

/-- One fragment that the raster unit gathers: its pixel and its primitive (R354, R355). -/
structure Fragment where
  x : Nat
  y : Nat
  prim : Nat
deriving DecidableEq, Repr

/-- An ST 2110-20 packet: where it is addressed, its RTP fields, and its sample rows (line, offset, bytes) (R369). -/
structure VideoPacket where
  port : Nat
  dst : W32
  udp : BitVec 16
  pt : BitVec 7
  stamp : W32
  marker : Bool := false
  fieldBit : Bool := false
  formatOk : Bool := true
  rows : List (Nat × Nat × List Byte)
deriving DecidableEq, Repr

/-- What the header ECC of a CSI-2 packet reports (R370). -/
inductive HeaderError where
  | clean
  | corrected
  | uncorrectable
deriving DecidableEq, Repr

/-- An AES67 or ST 2110-40 packet: where it is addressed, its RTP fields and its payload (R372, R373). -/
structure AudioPacket where
  port : Nat
  dst : W32
  udp : BitVec 16
  pt : BitVec 7
  stamp : W32
  marker : Bool := false
  formatOk : Bool := true
  payload : List Byte
deriving DecidableEq, Repr

/-- A received flit: its control fields (Table 15-1), and whether the FEC and the GCM tag accept it (R415). -/
structure Flit where
  kind : Nat
  seq : Nat
  ack : Nat
  retReq : Nat := 0
  retRsp : Nat := 0
  retCtl : Nat := 0
  fecOk : Bool := true
  tagOk : Bool := true
deriving DecidableEq, Repr

/-- What a peer presents in an admission exchange (R419, R420). -/
structure AdmissionOffer where
  id : Nat
  keyHash : BitVec 384
  signatureOk : Bool
  members : List (Nat × BitVec 384)
deriving DecidableEq, Repr

/-- The findings of a self-test: the failing local-store rows, the code of another failing unit (Table 17-12, 0 for
none), the number of its failing words, and the bank and bit of the first failing row (R457, R458). -/
structure SelfTest where
  rows : List Nat := []
  unit : Nat := 0
  words : Nat := 0
  bank : Nat := 0
  bit : Nat := 0
deriving DecidableEq, Repr

/-- One measurement period: the power of the four classes and the device total in mW, and READ_VOUT in mV (R442). -/
structure PowerReading where
  compute : Nat
  graphics : Nat
  hub : Nat
  io : Nat
  total : Nat
  vout : Nat
deriving DecidableEq, Repr

/-- An upset of one copy of a voted register (R450). -/
structure Upset where
  page : Nat
  off : Nat
  copy : Nat
  flip : W32
deriving DecidableEq, Repr

/-- A journal record to be written: its source page, kind, severity and the source's data (R466). -/
structure JournalInput where
  page : Nat
  kind : Nat
  severity : Nat
  info : List Byte := []
deriving DecidableEq, Repr

/-- What a start finds in the hardware: the boot test and the random generator's start-up test (R480, R487), the fuse errors that the
ROM corrects and the 64-bit groups of fuses that it cannot (R475), and whether the start comes through to UP (R481). -/
structure BootInput where
  testOk : Bool := true
  rngOk : Bool := true
  fixes : Nat := 0
  lost : List Nat := []
  reachesUp : Bool := true
deriving DecidableEq, Repr

/-- The commands of the CZ-9036, one constructor per row of spec/opcode_table.json, in the table's order. -/
inductive Instr where
  /-- NOP (R148): Issues with no effect beyond the field check of R147. -/
  | nop (p g : Nat) (w : InsnWord)
  /-- BRA (R154): Moves the threads whose condition holds to PC + 8 × OFF24 and the other threads to PC + 8. -/
  | bra (p g : Nat) (w : InsnWord)
  /-- BRR (R154): Moves the threads whose condition holds to s[a]; a misaligned target raises cause 0x02 and moves no thread. -/
  | brr (p g : Nat) (w : InsnWord)
  /-- CALL (R154): Branches as BRA does and writes PC + 8 into s[d] once. -/
  | call (p g : Nat) (w : InsnWord)
  /-- EXIT (R79): Participating threads exit and leave cb0–cb3; the group ends when its last thread exits. -/
  | exit (p g : Nat) (w : InsnWord)
  /-- TRAP (R100): Halts the group with cause 0x08 and kills the job's other groups. -/
  | trap (p g : Nat) (w : InsnWord)
  /-- CVG_SET (R79): Writes the issuing issue set's mask into cbN. -/
  | cvgSet (p g : Nat) (w : InsnWord)
  /-- CVG_WAIT (R79): Stops the thread until every thread named in cbN has arrived or exited, then resumes them together as one issue set. -/
  | cvgWait (p g : Nat) (w : InsnWord)
  /-- SADD (R78): Scalar addition modulo 2^64, executed once for the group. -/
  | sadd (p g : Nat) (w : InsnWord)
  /-- SSUB (R78): Scalar subtraction modulo 2^64. -/
  | ssub (p g : Nat) (w : InsnWord)
  /-- SMUL (R78): Low 64 bits of a scalar product. -/
  | smul (p g : Nat) (w : InsnWord)
  /-- SMULHS (R78): High 64 bits of the signed 128-bit product. -/
  | smulhs (p g : Nat) (w : InsnWord)
  /-- SMULHU (R78): High 64 bits of the unsigned 128-bit product. -/
  | smulhu (p g : Nat) (w : InsnWord)
  /-- SDIVS (R78): Signed scalar quotient on the scalar divider, with the stated results for b = 0 and overflow. -/
  | sdivs (p g : Nat) (w : InsnWord)
  /-- SDIVU (R78): Unsigned scalar quotient on the scalar divider. -/
  | sdivu (p g : Nat) (w : InsnWord)
  /-- SREMS (R78): Signed scalar remainder with the sign of a. -/
  | srems (p g : Nat) (w : InsnWord)
  /-- SREMU (R78): Unsigned scalar remainder. -/
  | sremu (p g : Nat) (w : InsnWord)
  /-- SAND (R78): Scalar bitwise AND. -/
  | sand (p g : Nat) (w : InsnWord)
  /-- SOR (R78): Scalar bitwise OR. -/
  | sor (p g : Nat) (w : InsnWord)
  /-- SXOR (R78): Scalar bitwise XOR. -/
  | sxor (p g : Nat) (w : InsnWord)
  /-- SSHL (R78): Scalar shift left by b mod 64. -/
  | sshl (p g : Nat) (w : InsnWord)
  /-- SSHR (R78): Scalar logical shift right by b mod 64. -/
  | sshr (p g : Nat) (w : InsnWord)
  /-- SSRA (R78): Scalar arithmetic shift right by b mod 64. -/
  | ssra (p g : Nat) (w : InsnWord)
  /-- SMINS (R78): Signed scalar minimum. -/
  | smins (p g : Nat) (w : InsnWord)
  /-- SMAXS (R78): Signed scalar maximum. -/
  | smaxs (p g : Nat) (w : InsnWord)
  /-- SMINU (R78): Unsigned scalar minimum. -/
  | sminu (p g : Nat) (w : InsnWord)
  /-- SMAXU (R78): Unsigned scalar maximum. -/
  | smaxu (p g : Nat) (w : InsnWord)
  /-- SPOPC (R78): Counts the one bits of a scalar. -/
  | spopc (p g : Nat) (w : InsnWord)
  /-- SCLZ (R78): Counts the leading zeros of a scalar; SCLZ of 0 is 64. -/
  | sclz (p g : Nat) (w : InsnWord)
  /-- SCMP (R156): Compares scalars by COND and writes one result into p[d] of every participating thread. -/
  | scmp (p g : Nat) (w : InsnWord)
  /-- SMOVI (R78): Writes the sign-extended IMM24 into s[d]. -/
  | smovi (p g : Nat) (w : InsnWord)
  /-- SCATI (R78): Writes (s[a] << 24) OR IMM24 into s[d]. -/
  | scati (p g : Nat) (w : InsnWord)
  /-- SRD (R157): Reads a selector value, such as FRM, a clock count, the timestamp, the core index, the slot or the age, into s[d]. -/
  | srd (p g : Nat) (w : InsnWord)
  /-- SFRM (R42): Sets FRM for the instructions that follow; an invalid code leaves FRM unchanged and sets INV. -/
  | sfrm (p g : Nat) (w : InsnWord)
  /-- SBALLOT (R78): Writes a mask of the participating threads whose p[a] is true into s[d]. -/
  | sballot (p g : Nat) (w : InsnWord)
  /-- PAND (R156): Predicate AND for each participating thread. -/
  | pand (p g : Nat) (w : InsnWord)
  /-- POR (R156): Predicate OR for each participating thread. -/
  | por (p g : Nat) (w : InsnWord)
  /-- PXOR (R156): Predicate XOR for each participating thread. -/
  | pxor (p g : Nat) (w : InsnWord)
  /-- PNOT (R156): Predicate NOT for each participating thread. -/
  | pnot (p g : Nat) (w : InsnWord)
  /-- PMOVS (R156): Writes bit t of s[a] into p[d] of thread t. -/
  | pmovs (p g : Nat) (w : InsnWord)
  /-- VADD (R150): Vector integer addition, wrapping or saturating under SAT. -/
  | vadd (p g : Nat) (w : InsnWord)
  /-- VSUB (R150): Vector integer subtraction, wrapping or saturating under SAT. -/
  | vsub (p g : Nat) (w : InsnWord)
  /-- VMUL (R150): Low half of the vector integer product, with optional saturation. -/
  | vmul (p g : Nat) (w : InsnWord)
  /-- VMULH (R150): High half of the double-width vector integer product. -/
  | vmulh (p g : Nat) (w : InsnWord)
  /-- VAND (R150): Vector bitwise AND. -/
  | vand (p g : Nat) (w : InsnWord)
  /-- VOR (R150): Vector bitwise OR. -/
  | vor (p g : Nat) (w : InsnWord)
  /-- VXOR (R150): Vector bitwise XOR. -/
  | vxor (p g : Nat) (w : InsnWord)
  /-- VSHL (R150): Vector shift left by b mod w. -/
  | vshl (p g : Nat) (w : InsnWord)
  /-- VSHR (R150): Vector logical shift right by b mod w. -/
  | vshr (p g : Nat) (w : InsnWord)
  /-- VSRA (R150): Vector arithmetic shift right by b mod w. -/
  | vsra (p g : Nat) (w : InsnWord)
  /-- VMIN (R150): Vector integer minimum, signed or unsigned by SUB. -/
  | vmin (p g : Nat) (w : InsnWord)
  /-- VMAX (R150): Vector integer maximum, signed or unsigned by SUB. -/
  | vmax (p g : Nat) (w : InsnWord)
  /-- VABS (R150): Vector integer absolute value, with optional saturation. -/
  | vabs (p g : Nat) (w : InsnWord)
  /-- VCMP (R158): Vector integer comparison into a vector mask or a predicate. -/
  | vcmp (p g : Nat) (w : InsnWord)
  /-- VSEL (R150): Selects each element from a or b by the element of c. -/
  | vsel (p g : Nat) (w : InsnWord)
  /-- VMOV (R150): Copies a vector register or broadcasts a scalar. -/
  | vmov (p g : Nat) (w : InsnWord)
  /-- VSHFL (R159): Reads register a of the lane that element 0 of b names. -/
  | vshfl (p g : Nat) (w : InsnWord)
  /-- VEXT (R159): Reads register a of lane s[b] into s[d], once. -/
  | vext (p g : Nat) (w : InsnWord)
  /-- VFLG (R160): Reads the thread's six sticky flags after earlier flag-setting instructions complete. -/
  | vflg (p g : Nat) (w : InsnWord)
  /-- VFLGC (R160): Clears the participating threads' flags named in the mask. -/
  | vflgc (p g : Nat) (w : InsnWord)
  /-- VFADD (R40): IEEE addition in binary32 or binary16 with the selected rounding. -/
  | vfadd (p g : Nat) (w : InsnWord)
  /-- VFSUB (R40): IEEE subtraction. -/
  | vfsub (p g : Nat) (w : InsnWord)
  /-- VFMUL (R40): IEEE multiplication. -/
  | vfmul (p g : Nat) (w : InsnWord)
  /-- VFDIV (R40): IEEE division on the shared divide unit. -/
  | vfdiv (p g : Nat) (w : InsnWord)
  /-- VFMA (R162): fusedMultiplyAdd(a, b, c) with one rounding. -/
  | vfma (p g : Nat) (w : InsnWord)
  /-- VFMS (R162): fusedMultiplyAdd(a, b, -c). -/
  | vfms (p g : Nat) (w : InsnWord)
  /-- VFNMA (R162): fusedMultiplyAdd(-a, b, c). -/
  | vfnma (p g : Nat) (w : InsnWord)
  /-- VFSQRT (R40): IEEE square root. -/
  | vfsqrt (p g : Nat) (w : InsnWord)
  /-- VFREM (R40): Exact IEEE remainder. -/
  | vfrem (p g : Nat) (w : InsnWord)
  /-- VFMIN (R46): IEEE minimum. -/
  | vfmin (p g : Nat) (w : InsnWord)
  /-- VFMAX (R46): IEEE maximum. -/
  | vfmax (p g : Nat) (w : InsnWord)
  /-- VFRINT (R40): Rounds to integral by RM, or rounds to integral exactly. -/
  | vfrint (p g : Nat) (w : InsnWord)
  /-- VFABS (R161): Clears the sign bit only. -/
  | vfabs (p g : Nat) (w : InsnWord)
  /-- VFNEG (R161): Inverts the sign bit only. -/
  | vfneg (p g : Nat) (w : InsnWord)
  /-- VFCPYS (R161): Copies the sign of b onto a. -/
  | vfcpys (p g : Nat) (w : InsnWord)
  /-- VFCLASS (R40): Writes the class bits of Table 05-16 for each element. -/
  | vfclass (p g : Nat) (w : InsnWord)
  /-- VFCMP (R158): Quiet or signalling floating-point comparison into a vector mask or a predicate. -/
  | vfcmp (p g : Nat) (w : InsnWord)
  /-- VCVT (R163): Converts elements between formats at position POS, under R47 and R49. -/
  | vcvt (p g : Nat) (w : InsnWord)
  /-- VPK4 (R164): Encodes one blocked SF4 block from 64 lane values. -/
  | vpk4 (p g : Nat) (w : InsnWord)
  /-- VUPK4 (R164): Decodes one SF4 block into two elements per thread. -/
  | vupk4 (p g : Nat) (w : InsnWord)
  /-- VRCP (R165): Special-function reciprocal. -/
  | vrcp (p g : Nat) (w : InsnWord)
  /-- VRSQ (R165): Special-function reciprocal square root. -/
  | vrsq (p g : Nat) (w : InsnWord)
  /-- VEXP2 (R165): Special-function 2^a. -/
  | vexp2 (p g : Nat) (w : InsnWord)
  /-- VLOG2 (R165): Special-function log2(a). -/
  | vlog2 (p g : Nat) (w : InsnWord)
  /-- VSINPI (R165): Special-function sin(πa). -/
  | vsinpi (p g : Nat) (w : InsnWord)
  /-- VCOSPI (R165): Special-function cos(πa). -/
  | vcospi (p g : Nat) (w : InsnWord)
  /-- VTANH (R165): Special-function tanh(a). -/
  | vtanh (p g : Nat) (w : InsnWord)
  /-- VLD (R166): Per-thread load from device or local-store memory, checked and translated before any thread's access. -/
  | vld (p g : Nat) (w : InsnWord)
  /-- VST (R166): Per-thread store into the merging buffer or the local store. -/
  | vst (p g : Nat) (w : InsnWord)
  /-- VATOM (R168): Per-thread atomic read-modify-write in the system cache, the local store or through a window. -/
  | vatom (p g : Nat) (w : InsnWord)
  /-- SLD (R166): Scalar load, once for the group. -/
  | sld (p g : Nat) (w : InsnWord)
  /-- SST (R166): Scalar store, once for the group. -/
  | sst (p g : Nat) (w : InsnWord)
  /-- FENCE (R93): Memory fence, acquire or release at the given scope. -/
  | fence (p g : Nat) (w : InsnWord)
  /-- MLDB (R175): Loads the first B tile into the shadow buffer through the matrix queue. -/
  | mldb (p g : Nat) (w : InsnWord)
  /-- MMA (R116): Streams A through the array and accumulates into, or overwrites, an accumulator. -/
  | mma (p g : Nat) (w : InsnWord)
  /-- MMV (R126): Matrix-vector product on the matrix-vector path. -/
  | mmv (p g : Nat) (w : InsnWord)
  /-- MEW (R124): Element-wise scale, bias, minimum, maximum or product on an accumulator region. -/
  | mew (p g : Nat) (w : InsnWord)
  /-- MDRN (R174): Converts an accumulator region and writes it to the local store. -/
  | mdrn (p g : Nat) (w : InsnWord)
  /-- MFLG (R176): Reads, and optionally clears, an accumulator's flags after earlier instructions that name it. -/
  | mflg (p g : Nat) (w : InsnWord)
  /-- MATRIX_START (R119): A queued matrix instruction takes a holding set and begins once the array and a set are free. -/
  | matrixStart (p k : Nat)
  /-- MATRIX_COMMIT (R138): A matrix-slot instruction commits once the earlier instructions of its group are past their exception points. -/
  | matrixCommit (p k : Nat)
  /-- MATRIX_CHECK (R129): The row and column checksum comparisons of an instruction are made as its rows leave. -/
  | matrixCheck (p k : Nat) (v : CheckInput)
  /-- MATRIX_COMPLETE (R116): The instruction writes its accumulator and sets its flags after every check has agreed. -/
  | matrixComplete (p k : Nat)
  /-- STRQ (R179): Checks and copies a stream descriptor onto an engine queue and returns a ticket. -/
  | strq (p g : Nat) (w : InsnWord)
  /-- STRW (R180): Waits for a transfer by its ticket and returns its status, raising its fault if it faulted. -/
  | strw (p g : Nat) (w : InsnWord)
  /-- STRS (R178): Reads an engine's last completed sequence number and its free queue entries. -/
  | strs (p g : Nat) (w : InsnWord)
  /-- CWAIT (R182): Waits until a Cadence source reaches a position. -/
  | cwait (p g : Nat) (w : InsnWord)
  /-- BAR (R183): Arrives at a core barrier, and releases every arrived group when the count is reached. -/
  | bar (p g : Nat) (w : InsnWord)
  /-- SEMA (R184): Acquires a hardware semaphore, blocking while another group holds it. -/
  | sema (p g : Nat) (w : InsnWord)
  /-- SEMR (R185): Releases a hardware semaphore and grants the next waiter. -/
  | semr (p g : Nat) (w : InsnWord)
  /-- FSIG (R188): Signals a fence slot with a value. -/
  | fsig (p g : Nat) (w : InsnWord)
  /-- FWAIT (R187): Waits until a fence reaches a value. -/
  | fwait (p g : Nat) (w : InsnWord)
  /-- WAIT_TIME_OUT (R190): A blocked STRW, CWAIT, SEMA or FWAIT reaches its time-out and returns its time-out status. -/
  | waitTimeOut (p g : Nat)
  /-- SEMA_SHORT_EXPIRY (R186): A short-attribute hold reaches 20 µs, loses the attribute and is journalled. -/
  | semaShortExpiry (n : Nat)
  /-- GROUP_LAUNCH (R64): The next group of a job launches in ascending index once a slot and its granules are free. -/
  | groupLaunch (p : Nat)
  /-- AGE_BOOST (R74): A ready group passed over for the boost threshold is boosted ahead of unboosted groups. -/
  | ageBoost (p g cls : Nat)
  /-- FORWARD_PROGRESS_GRANT (R77): When the issue count reaches its threshold, the longest-waiting issue set is granted. -/
  | forwardProgressGrant (p g : Nat)
  /-- ICACHE_FILL (R152): An instruction-cache line arrives and unblocks the group that missed. -/
  | icacheFill (p g : Nat)
  /-- NEAR_CACHE_FILL (R84): A missed line arrives, is installed by R549 and releases the waiting groups. -/
  | nearCacheFill (p line : Nat)
  /-- MERGE_BUFFER_DRAIN (R85): The oldest merging-buffer entry drains to the system cache. -/
  | mergeBufferDrain (p : Nat) (err : Bool)
  /-- MERGE_BUFFER_ACK (R93): The system cache acknowledges a drained entry, which frees its tag and can complete a release wait. -/
  | mergeBufferAck (p : Nat)
  /-- PAGE_WALK (R262): A TLB miss walks the page tables and installs a merged leaf entry, or faults. -/
  | pageWalk (p g : Nat)
  /-- TILE_START (R210): An engine begins a tile after translating and checking every page it touches. -/
  | tileStart (p e : Nat)
  /-- TILE_LANDED (R202): A tile's bytes are written, or performed at DEVICE scope; the last tile completes the transfer. -/
  | tileLanded (p e : Nat)
  /-- TRANSLATION_PREFETCH (R209): An engine translates the pages of its next four tiles ahead of use. -/
  | translationPrefetch (p e : Nat)
  /-- LS_SCRUB (R198): The patrol scrubber reads one local-store row each interval. -/
  | lsScrub (p : Nat) (hits : List EccHit)
  /-- MEM_WINDOW (R231): A 1 µs budget window ends and a new one begins. -/
  | memWindow (c : Nat) (v : WindowInput)
  /-- MEM_PATROL (R230): The controller reads its next patrol line. -/
  | memPatrol (c pc : Nat) (err : EccError)
  /-- HBM_READ (R228): A line returns from HBM, is checked, corrected or poisoned, and decrypted. -/
  | hbmRead (line rq : Nat) (err : EccError)
  /-- SLICE_LOOKUP (R239): A slice performs one granted lookup and allocates under the way mask. -/
  | sliceLookup (line part : Nat) (v : LookupInput)
  /-- EVICTION_DRAIN (R242): An eviction-buffer entry drains a dirty line to HBM. -/
  | evictionDrain (s k : Nat)
  /-- SLICE_IDLE (R431): A slice enters Idle after 256 mesh clocks without a lookup. -/
  | sliceIdle (s : Nat)
  /-- FLUSH (R243): SYC_FLUSH.GO walks the slice, writing back and invalidating the selected ways. -/
  | flush (s : Nat) (ways : BitVec 16)
  /-- FLUSH_END (R243): The flush walk and its write-backs have drained; FLUSHED is set. -/
  | flushEnd (s : Nat)
  /-- CTX_TABLE_WRITE (R252): XLT_CTX_CMD with RD = 0 writes D0–D3 into a context table entry. -/
  | ctxTableWrite (tag : BitVec 12)
  /-- CTX_TABLE_READ (R276): XLT_CTX_CMD with RD = 1 reads a context table entry into the mailbox. -/
  | ctxTableRead (tag : BitVec 12)
  /-- TAG_INVALIDATION (R268): XLT_INV.GO queues an invalidation of a tag, broadcast in order. -/
  | tagInvalidation (tag : BitVec 12)
  /-- INVALIDATION_COMPLETE (R269): Every unit has acknowledged; DONE_TAG, XLT_INV_SEQ and INV_DONE are updated. -/
  | invalidationComplete
  /-- RANGE_CACHE_FILL (R258): A range-cache miss reads the tag's range table and installs the covering entry. -/
  | rangeCacheFill (unit : Nat) (tag : BitVec 12) (va : W64)
  /-- INBOUND_ACCESS (R266): An arriving Spoke access is checked against the inbound window table and performed or refused. -/
  | inboundAccess (a : RemotePacket)
  /-- HOST_COMPLETION (R264): A PCIe completion for a host-window access returns data, an error or poison. -/
  | hostCompletion (vi addr : Nat) (status : HostStatus) (data : List Byte)
  /-- QUE_TAIL_WRITE (R281): A doorbell write advances QUE_TAIL, or is refused and counted. -/
  | queTailWrite (fn q : Nat) (v : W32)
  /-- PACKET_FETCH (R283): The queue front end fetches and checks the next packet. -/
  | packetFetch (q : Nat)
  /-- MARKER (R282): A MARKER job only waits and signals. -/
  | marker (j : Nat)
  /-- KERNEL (R282): A KERNEL job launches its groups on the named logical cores. -/
  | kernel (j : Nat)
  /-- DRAW (R341): A DRAW job reads its render pass and draw records and runs a batch. -/
  | draw (j : Nat)
  /-- TRANSFER (R553): A TRANSFER job copies bytes in 64 KiB tiles on one core's stream engines. -/
  | transfer (j : Nat)
  /-- GRAPH (R305): A GRAPH job starts a service graph stage. -/
  | graph (j : Nat)
  /-- PREFETCH (R271): A PREFETCH job migrates the pages of a range between host memory and HBM. -/
  | prefetch (j : Nat)
  /-- JOB_START (R325): The partition dispatcher starts the highest-priority ready job on the cores of its mask. -/
  | jobStart (part : Nat)
  /-- JOB_COMPLETE (R286): A job ends: its record is written, QUE_DONE is updated, the fence outcome is applied and the event is raised. -/
  | jobComplete (j : Nat)
  /-- CTX_CREATE (R251): Creates a context with a tag, a partition and a root page. -/
  | ctxCreate (vi : Nat)
  /-- CTX_DESTROY (R298): Destroys a context through the kill sequence. -/
  | ctxDestroy (vi : Nat)
  /-- QUEUE_CREATE (R280): Creates a queue ring with a priority and a vector. -/
  | queueCreate (vi : Nat)
  /-- QUEUE_DESTROY (R551): Stops and destroys an idle queue, discarding its fetched packets. -/
  | queueDestroy (vi : Nat)
  /-- GRANT (R279): Binds a run of HBM pages to an instance. -/
  | grant (vi : Nat)
  /-- REVOKE (R279): Unbinds a page run after removing its range entries and invalidating. -/
  | revoke (vi : Nat)
  /-- MAP_RANGE (R257): Writes a checked range entry into the tag's range table. -/
  | mapRange (vi : Nat)
  /-- UNMAP_RANGE (R258): Removes a range entry and invalidates the tag. -/
  | unmapRange (vi : Nat)
  /-- INVALIDATE (R263): Invalidates a context's tag after a page-table change. -/
  | invalidate (vi : Nat)
  /-- FENCE_ALLOC (R289): Allocates the lowest free fence slot at an initial value. -/
  | fenceAlloc (vi : Nat)
  /-- FENCE_FREE (R292): Drops a grant, or frees or abandons the owner's slot. -/
  | fenceFree (vi : Nat)
  /-- FENCE_EXPORT (R292): Returns a handle granting a slot to an instance or a Tandem device. -/
  | fenceExport (vi : Nat)
  /-- FENCE_IMPORT (R292): Grants an exported slot to a context, through a proxy for a peer. -/
  | fenceImport (vi : Nat)
  /-- FENCE_RESET (R290): Returns a slot to VALUE at a value not below its current one. -/
  | fenceReset (vi : Nat)
  /-- EVENT_ARM (R295): Arms a one-shot event on a fence value or state. -/
  | eventArm (vi : Nat)
  /-- SEMA_ALLOC (R184): Allocates a hardware semaphore to a context. -/
  | semaAlloc (vi : Nat)
  /-- SEMA_FREE (R304): Frees a semaphore that is not held. -/
  | semaFree (vi : Nat)
  /-- ADVISE (R272): Sets or clears migration advice on a range. -/
  | advise (vi : Nat)
  /-- WINDOW_OPEN (R267): Opens an outbound and a peer inbound Spoke window. -/
  | windowOpen (vi : Nat)
  /-- WINDOW_CLOSE (R267): Closes a Spoke window in the stated order. -/
  | windowClose (vi : Nat)
  /-- KILL (R298): Kills up to 12 contexts: stops their queues, jobs and engines, abandons their fences and frees their tags. -/
  | kill (vi : Nat)
  /-- VI_CONFIG (R555): Sets an instance's permitted partitions, vectors and drain timer. -/
  | viConfig (vi : Nat)
  /-- VI_DISABLE (R300): Drains, then kills, every context of a virtual function. -/
  | viDisable (vi : Nat)
  /-- VI_RESET (R301): Resets an instance at once, without draining. -/
  | viReset (vi : Nat)
  /-- VI_DRAIN_EXPIRY (R300): The drain timer ends and the instance's running jobs are killed with status 0x04. -/
  | viDrainExpiry (vi : Nat)
  /-- VI_RESET_ACK (R301): The reset completes and an unsolicited reply is sent on the physical function's queue. -/
  | viResetAck (vi : Nat)
  /-- FUNCTION_LEVEL_RESET (R301): A PCIe Function Level Reset resets its instance. -/
  | functionLevelReset (vi : Nat)
  /-- VF_ENABLE_CLEAR (R300): Clearing VF Enable disables the virtual functions. -/
  | vfEnableClear
  /-- GRAPH_LOAD (R305): Checks and loads a service graph image. -/
  | graphLoad (vi : Nat)
  /-- GRAPH_START (R305): Starts a loaded graph and arms its triggers. -/
  | graphStart (vi : Nat)
  /-- GRAPH_STOP (R305): Stops a graph's stages at job boundaries and destroys their contexts. -/
  | graphStop (vi : Nat)
  /-- FENCE_UPDATE (R293): A fence change or signal from a Tandem peer is applied at the home or at a proxy. -/
  | fenceUpdate (u : FenceMsg)
  /-- SOURCE_BIND (R311): A CAD_SRC_CFG write unbinds a source and binds it to an input at position 0. -/
  | sourceBind (path : Path) (v : W32)
  /-- SOFT_POSITION_SET (R311): CAD_SRC_SEL.SET loads a soft source's position. -/
  | softPositionSet (path : Path) (v : W32)
  /-- TRIGGER_ARM (R316): CAD_TRG_CTL.ARM = 1 arms or re-arms a trigger slot. -/
  | triggerArm (path : Path) (v : W32)
  /-- TRIGGER_DISARM (R337): CAD_TRG_CTL.ARM = 0 disarms a trigger slot. -/
  | triggerDisarm (path : Path) (v : W32)
  /-- LAUNCH (R318): Writes the template packet into a queue ring and advances its tail. -/
  | launch (t : Nat)
  /-- RELEASE (R318): Adds 1 to a soft source's position. -/
  | release (t : Nat)
  /-- EVENT (R318): Raises an interrupt vector, or informs Fragan. -/
  | event (t : Nat)
  /-- DEADLINE (R320): Captures the LINK trigger's SEQ and schedules a check. -/
  | deadline (t : Nat)
  /-- DEADLINE_CHECK (R320): A scheduled check tests whether the captured job has completed. -/
  | deadlineCheck (k : Nat)
  /-- WATCHDOG (R322): A job that has run for WDOG_MS is ended as a miss. -/
  | watchdog (j : Nat)
  /-- SOURCE_STOPPED (R313): A source with no line, sample or lock for STOP_TMO enters STOPPED. -/
  | sourceStopped (src : Nat)
  /-- PREEMPTION_REQUEST (R326): A strictly higher-priority ready job requests pre-emption of a running job. -/
  | preemptionRequest (part : Nat)
  /-- PREEMPTION_SWITCH (R327): At the boundary the live state is saved and the new job is restored. -/
  | preemptionSwitch (j : Nat)
  /-- JOB_RESTORE (R326): A saved job is restored onto its logical core's current physical core. -/
  | jobRestore (j : Nat)
  /-- PLANNED_MOVE (R334): At a job end the map is written and the logical core moves to the prepared spare. -/
  | plannedMove (L spare : Nat)
  /-- UNPLANNED_SUBSTITUTION (R453): After a retirement a spare is woken and mapped to the logical core. -/
  | unplannedSubstitution (L : Nat)
  /-- DRAW_SETUP (R345): After a draw's vertex groups exit, its triangles are set up, culled and binned. -/
  | drawSetup (j : Nat)
  /-- POOL_POLL (R349): A stalled batch rereads LIMIT every poll interval and resumes if it has risen. -/
  | poolPoll (j : Nat)
  /-- BIN_PHASE_START (R350): Once every triangle is binned, each core begins its bins. -/
  | binPhaseStart (j : Nat)
  /-- BIN_START (R351): A bin's attachments are initialised by clear, load or don't-care. -/
  | binStart (p : Nat)
  /-- FRAGMENT_GROUP (R355): Up to 32 fragments launch as a fragment group with their record. -/
  | fragmentGroup (p : Nat) (frags : List Fragment)
  /-- FRAGMENT_RETIRE (R356): A fragment group's outputs are depth-tested and blended in primitive order. -/
  | fragmentRetire (p : Nat)
  /-- BIN_STORE (R352): A finished bin is stored, or its fast-clear flag is set. -/
  | binStore (p : Nat)
  /-- CHANNEL_ENABLE (R365): VIO_CH_CTL.EN = 1 reads and checks the channel descriptor and starts or refuses the channel. -/
  | channelEnable (path : Path) (page : Nat) (v : W32)
  /-- CHANNEL_STOP (R388): VIO_CH_CTL.EN = 0 stops a channel, ending a frame short. -/
  | channelStop (path : Path) (page : Nat)
  /-- ST2110_PACKET (R369): A video packet is placed, lands lines and advances the source. -/
  | st2110Packet (m : VideoPacket)
  /-- CSI2_FRAME_START (R370): A CSI-2 frame-start packet starts a frame on the channel. -/
  | csi2FrameStart (rx vc frame : Nat)
  /-- CSI2_LONG_PACKET (R370): A long packet of the channel's data type lands as the next line. -/
  | csi2LongPacket (rx vc dt : Nat) (hdr : HeaderError) (crcBad : Bool) (data : List Byte)
  /-- CSI2_FRAME_END (R370): A frame-end packet ends the frame. -/
  | csi2FrameEnd (rx vc : Nat)
  /-- AES67_PACKET (R372): An audio packet writes sample frames, filling gaps with zeros. -/
  | aes67Packet (m : AudioPacket)
  /-- TDM_FRAME_SYNC (R372): A TDM frame sync lands or sends one sample frame. -/
  | tdmFrameSync (port : Nat) (samples : List W32)
  /-- ANCILLARY_PACKET (R373): An ancillary packet's payload is written into the next entry. -/
  | ancillaryPacket (m : AudioPacket)
  /-- VIDEO_OUT_FRAME (R374): At each frame time, reads the ready word and sends the slot. -/
  | videoOutFrame (page ch : Nat)
  /-- AUDIO_OUT_SEND (R375): Reads and sends sample frame n at its send time. -/
  | audioOutSend (page ch : Nat)
  /-- ANCILLARY_OUT_SEND (R373): Sends each non-empty entry of the ready slot once per frame. -/
  | ancillaryOutSend (page ch : Nat)
  /-- PTP_SYNC (R376): A sync message updates the servo, which may lock, re-lock, step or slew the timestamp. -/
  | ptpSync (offset delay : Int)
  /-- PTP_SYNC_TIMEOUT (R376): After 3 s without a sync the servo loses lock. -/
  | ptpSyncTimeout
  /-- PIPE_ENABLE (R377): CMP_CFG.EN = 1 checks the timing and starts the pipe. -/
  | pipeEnable (path : Path) (n : Nat) (v : W32)
  /-- PIPE_DISABLE (R388): CMP_CFG.EN = 0 stops the pipe. -/
  | pipeDisable (path : Path) (n : Nat)
  /-- DP_LINK_TRAINING (R377): Fragan trains the DisplayPort link and reads the EDID. -/
  | dpLinkTraining (n rate lanes : Nat)
  /-- HOT_PLUG_LOSS (R377): Loss of HPD turns the main link off. -/
  | hotPlugLoss (n : Nat)
  /-- DESCRIPTOR_FETCH (R379): At scan line VACT the pipe reads the pointer slot and the frame descriptor. -/
  | descriptorFetch (n : Nat)
  /-- FRAME_DESCRIPTOR_APPLY (R379): At scan line 0 an accepted descriptor takes effect, or the previous one stays in force. -/
  | frameDescriptorApply (n : Nat)
  /-- WRITEBACK_READY (R384): When a written-back frame is performed, WBREADY is written. -/
  | writebackReady (n : Nat)
  /-- CPR_RING_ENABLE (R393): CPR_RING_CTL.EN binds a ring to a tag, or stops it. -/
  | cprRingEnable (path : Path) (e : Nat) (v : W32)
  /-- CPR_POLL (R394): The engine reads a ring's TAIL every POLL_US while idle and accepts or faults it. -/
  | cprPoll (e : Nat)
  /-- COMPRESS_STREAM (R399): Compresses byte data into the chunked stream format. -/
  | compressStream (e : Nat)
  /-- DECOMPRESS_STREAM (R405): Decodes a stream and checks its CRC. -/
  | decompressStream (e : Nat)
  /-- COMPRESS_SURFACE (R401): Compresses a 2D image into the block-header surface format. -/
  | compressSurface (e : Nat)
  /-- DECOMPRESS_SURFACE (R401): Decodes a surface into a linear image. -/
  | decompressSurface (e : Nat)
  /-- CPR_COMPLETE (R403): Writes the descriptor's completion record, applies the fence and advances HEAD. -/
  | cprComplete (e : Nat)
  /-- FLIT_RECEIVE (R415): A flit is corrected, authenticated and sequence-checked, then accepted or NAKed. -/
  | flitReceive (link : Nat) (f : Flit)
  /-- FLIT_NAK (R415): A received NAK resends every flit from the refused one. -/
  | flitNak (link seq : Nat)
  /-- LINK_RETRAIN (R416): Repeated replays or lane loss retrain the link, possibly on fewer lanes. -/
  | linkRetrain (link : Nat) (good : BitVec 4)
  /-- LINK_DOWN (R417): 500 µs without a valid flit takes the link DOWN, timing out accesses and clearing credits. -/
  | linkDown (link : Nat)
  /-- ADMISSION (R419): The signed exchange on a trained link admits or refuses the peer and derives keys. -/
  | admission (link : Nat) (x : AdmissionOffer)
  /-- ADMISSION_RETRY (R419): A refused peer's admission is retried every 1 s. -/
  | admissionRetry (link : Nat)
  /-- MEMBER_TABLE (R420): A received member table is merged and forwarded, or a conflict takes the link to TRAINED. -/
  | memberTable (link : Nat) (entries : List (Nat × BitVec 384))
  /-- MEMBER_EXPIRY (R420): An entry unreachable for 1 s is removed from the member table. -/
  | memberExpiry (id : Nat)
  /-- REMOTE_REQUEST (R422): A REQ packet is forwarded, or checked and performed, and answered. -/
  | remoteRequest (link : Nat) (a : RemotePacket)
  /-- REMOTE_RESPONSE (R423): A response or acknowledgement completes a remote access, or is discarded if late. -/
  | remoteResponse (link : Nat) (a : RemotePacket)
  /-- REMOTE_TIMEOUT (R423): An unanswered remote access ends after RTO as a source data error. -/
  | remoteTimeout (tag : Nat)
  /-- WAKE_PATTERN_SEND (R425): SPK_CFG.WAKE sends the wake pattern on lane 0. -/
  | wakePatternSend (link : Nat)
  /-- WAKE_PATTERN_DETECT (R425): The always-on detector recognises the wake pattern. -/
  | wakePatternDetect (link : Nat)
  /-- DOMAIN_RUN (R433): PWR_DOM_CTL.GO with TARGET Run wakes the domain, or changes its operating point. -/
  | domainRun (v : W32) (answers : List (Nat × Nat))
  /-- DOMAIN_IDLE (R433): GO with TARGET Idle gates the domain clock. -/
  | domainIdle (v : W32) (answers : List (Nat × Nat))
  /-- DOMAIN_SLEEP (R433): GO with TARGET Sleep stops clocks and lowers the supply. -/
  | domainSleep (v : W32) (answers : List (Nat × Nat))
  /-- DOMAIN_DEEP_SLEEP (R433): GO with TARGET Deep sleep power-gates the domain, with self-test if TEST = 1. -/
  | domainDeepSleep (v : W32) (answers : List (Nat × Nat)) (test : SelfTest)
  /-- ENTRY_COMPLETE (R435): An entry reaches its state and replays any latched wake. -/
  | entryComplete (d : Nat)
  /-- ENTRY_ABORT (R434): An entry not complete within 100 µs, or failing, is aborted. -/
  | entryAbort (d reason : Nat)
  /-- DOMAIN_WAKE (R436): A wake source brings a domain to Run, or is latched during an entry. -/
  | domainWake (d : Nat)
  /-- WAKE_N (R436): WAKE_N held low for 1 µs wakes the device. -/
  | wakeN
  /-- TIMER_WAKE (R436): PWR_TIMER expiry wakes the device from Off. -/
  | timerWake
  /-- PCIE_L1_EXIT (R436): A PCIe L1 substate exit wakes the host interface. -/
  | pcieL1Exit
  /-- DEVICE_OFF (R437): PWR_DEV_CTL.OFF stops the graphs, destroys the keys and runs the power-down order. -/
  | deviceOff
  /-- OP_CHANGE (R439): An operating-point change raises the rail first or lowers the clock first. -/
  | opChange (d op : Nat)
  /-- RAIL_COMMAND (R440): A PMBus transaction completes or, after three retries, faults the rail. -/
  | railCommand (acked : Bool)
  /-- RAIL_SETTLED (R439): READ_VOUT within 10 mV of the target lets a pending raise proceed. -/
  | railSettled (level : Nat)
  /-- POWER_MEASURE (R442): Each measurement period the rails are read and the classes and profile enforced. -/
  | powerMeasure (m : PowerReading)
  /-- PROFILE_CHANGE (R444): A PWR_CFG.PROFILE write lowers domains to fit, or is refused. -/
  | profileChange (path : Path) (v : W32)
  /-- POWER_FAIL (R469): PWR_FAIL_N falling commits the waiting health store records and suspends changes. -/
  | powerFail
  /-- POWER_RESTORE (R542): PWR_FAIL_N high for 10 ms resumes the suspended activities. -/
  | powerRestore
  /-- THERMAL_SAMPLE (R545): Each 1 ms sample applies the warning and limit actions. -/
  | thermalSample (sensor : Nat) (max aon : Int)
  /-- THERMAL_RESTART (R546): After 1 s below the restart temperature the device powers up again. -/
  | thermalRestart
  /-- TMR_SCRUB (R450): The voted-field scrubber corrects every RWT field each 100 µs. -/
  | tmrScrub (upsets : List Upset)
  /-- STRIKE_EXPIRY (R455): A strike older than 30 days is cleared. -/
  | strikeExpiry (p : Nat)
  /-- ROTATION_STEP (R459): Each rotation interval moves the oldest-tested core onto a spare and tests it. -/
  | rotationStep
  /-- PAIR_MISMATCH (R460): A domestique comparator mismatch stops the pair and hands its work over. -/
  | pairMismatch (pair : Nat)
  /-- PAIR_INJECTION (R461): Each INJ_MS a known difference tests each pair's comparator. -/
  | pairInjection (pair : Nat) (agreed : Bool)
  /-- PAIR_TEST_END (R462): A stopped pair's 5 ms logic test returns it to service or retires it. -/
  | pairTestEnd (pair : Nat) (passed : Bool)
  /-- JOURNAL_RECORD (R466): A journal record is written to the HBM ring and, by severity, committed to the health store. -/
  | journalRecord (r : JournalInput)
  /-- HEALTH_STORE_COMMIT (R466): A health store record write completes. -/
  | healthStoreCommit
  /-- JOURNAL_TOKEN (R468): The bucket gains one token every 8 s. -/
  | journalToken
  /-- STATE_COPY_REWRITE (R467): Fragan rewrites the older state copy with a higher generation. -/
  | stateCopyRewrite
  /-- BOOT_START (R479): On reset release the ROM senses fuses, tests, reads the directory and loads a slot or minimal mode. -/
  | bootStart (b : BootInput)
  /-- BOOT_WATCHDOG (R481): UP not set within 2 s resets the device. -/
  | bootWatchdog
  /-- FAILS_CLEAR (R479): After 60 s up, Fragan sets FAILS to 0. -/
  | failsClear
  /-- FW_STAGE (R484): Verifies an image and writes it to the slot that is not running. -/
  | fwStage (vi : Nat)
  /-- FW_ACTIVATE (R485): Rolls the staged image through the pairs one at a time. -/
  | fwActivate (vi : Nat)
  /-- ROLL_FAILURE (R486): A pair not in service within 10 ms rolls every pair back. -/
  | rollFailure
  /-- FW_COMMIT (R484): Raises FW_SVN to the running SVN. -/
  | fwCommit (vi : Nat)
  /-- DEV_RESET (R484): Resets the device with BOOT_CAUSE 0x07. -/
  | devReset (vi : Nat)
  /-- GR_COMMIT (R484): Raises GR_SVN to the given value. -/
  | grCommit (vi : Nat)
  /-- DEBUG_REQUEST (R489): SEC_DBG_CTL.REQ issues a 256-bit challenge. -/
  | debugRequest (path : Path) (v : W32)
  /-- DEBUG_CHECK (R489): SEC_DBG_CTL.CHK checks the response and grants the level or sets a lock-out. -/
  | debugCheck (path : Path) (v : W32)
  /-- DEBUG_END (R489): Writing LEVEL 0 ends the debug level. -/
  | debugEnd (path : Path) (v : W32)
  /-- GLITCH_TRIP (R490): A supply, clock or temperature detector trips and resets the device. -/
  | glitchTrip (detector : Nat)
  /-- RNG_FAIL (R487): A failed health test of the random generator refuses key making until a reset. -/
  | rngFail
  /-- MAILBOX_CAPTURE (R509): MBX_CTL.REQ captures a selection in one clock. -/
  | mailboxCapture (path : Path) (page : Nat) (v : W32)
  /-- MAILBOX_READ (R510): A data-word read returns the capture, or zeros with EARLY; the last word clears VALID or consumes a reply. -/
  | mailboxRead (path : Path) (page word : Nat)
  /-- RC_READ (R506): A read of an RC register returns its value and clears its RC fields. -/
  | rcRead (path : Path) (page off : Nat)
  /-- REGISTER_WRITE (R7): A write to a register with no row of its own, checked for encodings, combinations and rights. -/
  | registerWrite (path : Path) (page off : Nat) (whole : Bool) (v : W32)
  /-- PMC_SNAPSHOT (R524): PMC_CFG.SNAP copies every counter into the shadow bank. -/
  | pmcSnapshot (path : Path) (v : W32)
  /-- PMC_FREEZE (R523): Writing PMC_CFG.FREEZE stops or resumes all counting. -/
  | pmcFreeze (path : Path) (v : W32)
  /-- PMC_PRESET (R530): PMC_CMD.PRESET loads the selected counter. -/
  | pmcPreset (path : Path) (v : W32)
  /-- PMC_CLEAR_ALL (R530): PMC_CMD.CLR_ALL zeros every counter and overflow bit. -/
  | pmcClearAll (path : Path) (v : W32)
  /-- PMC_SET (R527): Hub command that programs a counter with an event selection and a preset. -/
  | pmcSet (vi : Nat)
  /-- PMC_READ (R527): Hub command that takes a snapshot and returns core slot counts or a counter. -/
  | pmcRead (vi : Nat)
  /-- POWER_UP (R538): With VDD_AON and the reference up for 1 ms, the rails are enabled in order and reset is released. -/
  | powerUp
  /-- POWER_UP_FAIL (R539): A missing or falling power-good stops the order and drops the enables. -/
  | powerUpFail (step : Nat)
  /-- POWER_UP_RETRY (R539): 1 s after a failed attempt the order is tried again, up to three times. -/
  | powerUpRetry
  /-- RESET_N (R541): RESET_N low for 10 µs causes a device reset. -/
  | resetN (lowNs : Nat)
  /-- PERST_N (R541): PERST_N resets the host interface and every instance. -/
  | perstN (lowNs : Nat)
  /-- SCAN_LINE (R378): A display pipe advances to its next scan line: its video-out position and frame counter advance, layers are read and blended, written back, and checked for underrun. -/
  | scanLine (n : Nat) (late : BitVec 8)
  /-- PTP_POSITION_REACHED (R317): The device timestamp reaches a position of a PTP source, firing armed triggers and releasing CWAITs and tile waits on it. -/
  | ptpPositionReached (src : Nat)
  /-- VIO_LINK_CHANGE (R389): An Ethernet link comes up or goes down, CSI-2 lanes gain or lose sync, or a TDM bit clock appears or vanishes, changing VIO_STAT.UP and setting IRQ_STAT.LINK. -/
  | vioLinkChange (page : Nat) (up : Bool)
  /-- HIF_LINK_CHANGE (R516): The PCIe link comes up, goes down or changes speed or width, updating HIF_LINK_STAT and setting IRQ_STAT.LINK. -/
  | hifLinkChange (v : W32)
  /-- HOT_PLUG_DETECT (R377): HPD rises on a DisplayPort port and the sink becomes present, so that link training can follow. -/
  | hotPlugDetect (n : Nat)
  /-- DOMAIN_EXIT_COMPLETE (R431): A domain leaving Idle, Sleep or Deep sleep reaches Run when its exit time has passed, for example 182.6 µs after a core's exit from Deep sleep begins. -/
  | domainExitComplete (d : Nat)
  /-- DEBUG_LOCKOUT_EXPIRY (R489): The 2^n-second lock-out that follows a failed debug check runs out and checks are accepted again. -/
  | debugLockoutExpiry
  /-- POWER_LOSS (R470): Input power is lost and the rails fall, so every volatile state is lost and at most the health store record being written is lost. -/
  | powerLoss
  /-- VF_ENABLE_SET (R502): The host sets VF Enable or NumVFs in the SR-IOV capability, and the virtual functions come into existence with their BAR0 views. -/
  | vfEnableSet (num : Nat)
  /-- SIGNED_VENDOR_REQUEST (R476): A signed vendor request moves the lifecycle to RETURNED, and DUS is destroyed by blowing every one of its bits. -/
  | signedVendorRequest (signed : Bool)
deriving DecidableEq, Repr

end Sys2Proof
end

