-- ==== Sys2Proof/Machine/Ops.lean ====
section
/-! DEFINITION. The named operations on sparse tables, bytes and bit fields that every meaning is written with. -/
namespace Sys2Proof.Machine

/-- The entry of key `n`, if the table lists one. -/
def tfind {α : Type} : Tbl α → Nat → Option α
  | [], _ => none
  | (k, v) :: t, n => if n = k then some v else tfind t n

/-- What key `n` reads as in a table of default `d`. -/
def tget {α : Type} (d : α) (t : Tbl α) (n : Nat) : α := (tfind t n).getD d

/-- The table with the entry (`n`, `x`), keys still rising. -/
def tput {α : Type} : Tbl α → Nat → α → Tbl α
  | [], n, x => [(n, x)]
  | (k, v) :: t, n, x =>
    if n < k then (n, x) :: (k, v) :: t
    else if n = k then (n, x) :: t
    else (k, v) :: tput t n x

/-- The table without an entry of key `n`. -/
def tdel {α : Type} (t : Tbl α) (n : Nat) : Tbl α := t.filter fun e => e.1 != n

/-- The table of default `d` in which key `n` reads as `x`. -/
def tset {α : Type} [DecidableEq α] (d : α) (t : Tbl α) (n : Nat) (x : α) : Tbl α :=
  if x = d then tdel t n else tput t n x

/-- Keys of `t` rise strictly from `lo` up. -/
def risesFrom {α : Type} : Nat → Tbl α → Bool
  | _, [] => true
  | lo, (k, _) :: t => decide (lo ≤ k) && risesFrom (k + 1) t

/-- The canonical form of a table of default `d`: keys strictly rising and no entry equal to `d`. -/
def twf {α : Type} [DecidableEq α] (d : α) (t : Tbl α) : Bool :=
  risesFrom 0 t && t.all fun e => !decide (e.2 = d)

/-- The canonical form of memory: addresses strictly rising, no byte listed that reads as an unlisted byte does (0, log 3). -/
def Memory.wf (m : Tbl Byte) : Bool := twf 0 m

/-- The `n` entries from key `a` up. -/
def treads {α : Type} (d : α) (t : Tbl α) (a n : Nat) : List α := (List.range n).map fun i => tget d t (a + i)

/-- The table with `xs` at key `a` and the following keys. -/
def twrites {α : Type} [DecidableEq α] (d : α) : Tbl α → Nat → List α → Tbl α
  | t, _, [] => t
  | t, a, x :: xs => twrites d (tset d t a x) (a + 1) xs

/-- Little-endian value of bytes (R158, R245). -/
def leNat : List Byte → Nat
  | [] => 0
  | b :: bs => b.toNat + 256 * leNat bs

/-- The `n` low bytes of `v`, the lowest first. -/
def natLe : Nat → Nat → List Byte
  | 0, _ => []
  | n + 1, v => BitVec.ofNat 8 v :: natLe n (v / 256)

/-- Bits [hi:lo] of a number. -/
def nbits (x hi lo : Nat) : Nat := (x >>> lo) % 2 ^ (hi + 1 - lo)

/-- Bits [hi:lo] of a word. -/
def bits {n : Nat} (w : BitVec n) (hi lo : Nat) : Nat := nbits w.toNat hi lo

/-- Bit `i` of a word. -/
def bit {n : Nat} (w : BitVec n) (i : Nat) : Bool := w.getLsbD i

/-- The word with `v` in bits [hi:lo]. -/
def putBits {n : Nat} (w : BitVec n) (hi lo v : Nat) : BitVec n :=
  let m := ((2 ^ (hi + 1 - lo) - 1) <<< lo)
  (w &&& ~~~ BitVec.ofNat n m) ||| (BitVec.ofNat n ((v % 2 ^ (hi + 1 - lo)) <<< lo))

/-- The bits of a mask that are set, lowest first, below `n`. -/
def setBits {w : Nat} (m : BitVec w) (n : Nat) : List Nat := (List.range n).filter fun i => m.getLsbD i

/-- The mask over 32 of the indices that satisfy `f`. -/
def maskOf (f : Nat → Bool) : Mask :=
  (List.range 32).foldl (fun m i => if f i then m ||| (1#32 <<< i) else m) 0

/-- The mask with bit `i` set, or cleared. -/
def setBit {w : Nat} (m : BitVec w) (i : Nat) : BitVec w := m ||| (BitVec.ofNat w (2 ^ i))
def clrBit {w : Nat} (m : BitVec w) (i : Nat) : BitVec w := m &&& ~~~ (BitVec.ofNat w (2 ^ i))

/-- Number of set bits of a number below 2^n. -/
def popCount : Nat → Nat → Nat
  | 0, _ => 0
  | n + 1, x => x % 2 + popCount n (x / 2)

/-- Saturating addition at `top`. -/
def satAdd (top x y : Nat) : Nat := if x + y < top then x + y else top

/-- Ceiling division. -/
def ceilDiv (a b : Nat) : Nat := (a + b - 1) / b

/-- A list with its element `i` replaced by `f` of it. -/
def modifyAt {α : Type} : List α → Nat → (α → α) → List α
  | [], _, _ => []
  | x :: xs, 0, f => f x :: xs
  | x :: xs, i + 1, f => x :: modifyAt xs i f

/-- A list without its element `i`. -/
def removeAt {α : Type} : List α → Nat → List α
  | [], _ => []
  | _ :: xs, 0 => xs
  | x :: xs, i + 1 => x :: removeAt xs i

/-- A list without the first element that satisfies `f`. -/
def removeFirst {α : Type} (f : α → Bool) : List α → List α
  | [] => []
  | x :: xs => if f x then xs else x :: removeFirst f xs

/-- Insertion into a list kept in rising order of a key; equal keys keep their order of arrival. -/
def insertBy {α : Type} (key : α → Nat) (x : α) : List α → List α
  | [] => [x]
  | y :: ys => if key x < key y then x :: y :: ys else y :: insertBy key x ys

end Sys2Proof.Machine
end

