-- ==== Sys2Proof/Machine/Numbers.lean ====
section
/-! DEFINITION. Number formats, rounding and the arithmetic of 02_number_formats.md: exact values as sign, magnitude
and power of two; one rounding (R40, R44); NaN propagation (R46); conversions (R47, R49-R51); and the exact block
sum of the matrix paths (R52-R57). -/
namespace Sys2Proof.Machine

/-- A floating format: exponent and fraction widths, and whether its special values follow Table 02-3 (SF8a). -/
structure Fmt where
  eb : Nat
  fb : Nat
  sf8a : Bool := false
deriving DecidableEq, Repr

/-- The formats of Table 02-2. -/
def binary32 : Fmt := { eb := 8, fb := 23 }
def binary16 : Fmt := { eb := 5, fb := 10 }
def sf16 : Fmt := { eb := 8, fb := 7 }
def sf8a : Fmt := { eb := 4, fb := 3, sf8a := true }
def sf8b : Fmt := { eb := 5, fb := 2 }

/-- Width in bits, exponent bias, and the weight of the last place of a subnormal as a power of two (R34). -/
def Fmt.width (f : Fmt) : Nat := 1 + f.eb + f.fb
def Fmt.bias (f : Fmt) : Int := 2 ^ (f.eb - 1) - 1
def Fmt.emin (f : Fmt) : Int := 1 - f.bias - f.fb

/-- A decoded number: a NaN (sign, signalling, payload), an infinity, or (-1)^s m 2^e. -/
inductive Num where
  | nan (s : Bool) (signalling : Bool) (payload : Nat)
  | inf (s : Bool)
  | fin (s : Bool) (m : Nat) (e : Int)
deriving DecidableEq, Repr

/-- Status flags in the bit order of VFLG (Table 05-13): INV, DZ, OVF, UNF, INX, SAT. -/
abbrev Flags := BitVec 6
def fINV : Flags := 0b000001
def fDZ : Flags := 0b000010
def fOVF : Flags := 0b000100
def fUNF : Flags := 0b001000
def fINX : Flags := 0b010000
def fSAT : Flags := 0b100000

/-- Rounding-direction attributes (Table 02-6). -/
inductive Rm where
  | even | away | up | down | zero
deriving DecidableEq, Repr

/-- The attribute of a code of RM or FRM, none for an illegal code; 0b000 takes FRM (R41). -/
def rmOf (frm : BitVec 3) (code : Nat) : Option Rm :=
  let named (c : Nat) : Option Rm :=
    match c with | 1 => some .even | 2 => some .away | 3 => some .up | 4 => some .down | 5 => some .zero | _ => none
  if code = 0 then named frm.toNat else named code

/-- Whether RM holds a legal encoding (R42). -/
def rmLegal (code : Nat) : Bool := code ≤ 5

/-- The value of an encoding (R34-R36). SF8a has no signalling NaN and no payload (DEDUCED, notes/assumptions/6.md). -/
def decodeF (f : Fmt) (x : Nat) : Num :=
  let s := x.testBit (f.eb + f.fb)
  let E := nbits x (f.eb + f.fb - 1) f.fb
  let F := x % 2 ^ f.fb
  if E = 2 ^ f.eb - 1 then
    if F = 0 then .inf s
    else if f.sf8a then .nan s false 0
    else .nan s (!F.testBit (f.fb - 1)) (F % 2 ^ (f.fb - 1))
  else if E = 0 then .fin s F f.emin
  else .fin s (2 ^ f.fb + F) (f.emin + (E - 1))

/-- Sign bit of a format. -/
def signBit (f : Fmt) (s : Bool) : Nat := if s then 2 ^ (f.eb + f.fb) else 0

/-- Encodings of infinity, of the largest finite value, of a quiet NaN, and the default NaN (R35, R36, R46). -/
def encInf (f : Fmt) (s : Bool) : Nat := signBit f s + (2 ^ f.eb - 1) * 2 ^ f.fb
def encMax (f : Fmt) (s : Bool) : Nat := encInf f s - 1
def encNan (f : Fmt) (s : Bool) (payload : Nat) : Nat :=
  if f.sf8a then signBit f s + 0x7F else encInf f s + 2 ^ (f.fb - 1) + payload % 2 ^ (f.fb - 1)
def defaultNan (f : Fmt) : Nat := encNan f false 0

/-- A magnitude m 2^e, plus something below one unit of m when `sticky`, cut at weight 2^q: the integer part and the
place of the rest: 0 none, 1 below half, 2 half, 3 above half. -/
def cutAt (m : Nat) (e : Int) (sticky : Bool) (q : Int) : Nat × Nat :=
  if q ≤ e then (m <<< (e - q).toNat, if sticky then 1 else 0)
  else
    let k := (q - e).toNat
    let r := m % 2 ^ k
    let h := 2 ^ (k - 1)
    (m >>> k, if r = 0 && !sticky then 0 else if r < h then 1 else if r = h && !sticky then 2 else 3)

/-- Whether the attribute carries the integer part `n` of a magnitude away from zero. -/
def carries (rm : Rm) (s : Bool) (n g : Nat) : Bool :=
  match rm with
  | .even => g == 3 || (g == 2 && n % 2 == 1)
  | .away => g ≥ 2
  | .up => g != 0 && !s
  | .down => g != 0 && s
  | .zero => false

/-- The integer part after rounding, and whether the rounding was inexact. -/
def roundCut (rm : Rm) (s : Bool) (c : Nat × Nat) : Nat × Bool :=
  (if carries rm s c.1 c.2 then c.1 + 1 else c.1, c.2 != 0)

/-- The result of finite overflow (Table 02-7): by IEEE rule for the attribute, or the largest finite value under SAT. -/
def overflowF (f : Fmt) (rm : Rm) (sat s : Bool) : Nat :=
  let toInf := match rm with | .even => true | .away => true | .up => !s | .down => s | .zero => false
  if toInf && !sat then encInf f s else encMax f s

/-- One rounding of (-1)^s m 2^e to format `f` (R40, R44, R49): the encoding and the flags. -/
def roundF (f : Fmt) (rm : Rm) (sat : Bool) (s : Bool) (m : Nat) (e : Int) (sticky : Bool) : Nat × Flags :=
  if m = 0 && !sticky then (signBit f s, 0)
  else
    let p : Int := f.fb + 1
    let L : Int := if m = 0 then 0 else Nat.log2 m + 1
    let q0 := e + L - p
    let q := if q0 < f.emin then f.emin else q0
    let (n, inexact) := roundCut rm s (cutAt m e sticky q)
    let (n, q) := if n = 2 ^ (f.fb + 1) then (2 ^ f.fb, q + 1) else (n, q)
    let E : Int := if n < 2 ^ f.fb then 0 else q - f.emin + 1
    if E ≥ 2 ^ f.eb - 1 then (overflowF f rm sat s, fOVF ||| fINX)
    else
      let n0 := (roundCut rm s (cutAt m e sticky q0)).1
      let top := if n0 = 2 ^ (f.fb + 1) then q0 + 1 else q0
      let tiny := decide (top < f.emin)
      let enc := signBit f s + (if n < 2 ^ f.fb then n else E.toNat * 2 ^ f.fb + (n - 2 ^ f.fb))
      (enc, (if inexact then fINX else 0) ||| (if inexact && tiny then fUNF else 0))

/-- A signed dyadic value v 2^e rounded; an exact zero takes the sign `z`. -/
def roundInt (f : Fmt) (rm : Rm) (sat : Bool) (v e : Int) (z : Bool) : Nat × Flags :=
  if v = 0 then (signBit f z, 0) else roundF f rm sat (v < 0) v.natAbs e false

/-- The NaN result of R46 for operands in the order a, b, c: the first NaN with its quiet bit set, and INV for a
signalling one; none when no operand is a NaN. -/
def firstNan (f : Fmt) (xs : List Nat) : Option (Nat × Flags) :=
  let ns := xs.filterMap fun x => match decodeF f x with | .nan s sg pl => some (s, sg, pl) | _ => none
  match ns with
  | [] => none
  | (s, _, pl) :: _ => some (encNan f s pl, if ns.any (fun n => n.2.1) then fINV else 0)

/-- Default NaN with INV. -/
def invalid (f : Fmt) : Nat × Flags := (defaultNan f, fINV)

/-- Signed magnitude as an integer at weight 2^e0, for e0 ≤ e. -/
def atWeight (s : Bool) (m : Nat) (e e0 : Int) : Int :=
  let v : Int := m * 2 ^ (e - e0).toNat
  if s then -v else v

def minI (a b : Int) : Int := if a ≤ b then a else b
def maxI (a b : Int) : Int := if a ≤ b then b else a

/-- Sum of two signed values with one rounding; the sign of an exact zero sum is that of IEEE 754-2019. -/
def sumF (f : Fmt) (rm : Rm) (s1 : Bool) (m1 : Nat) (e1 : Int) (s2 : Bool) (m2 : Nat) (e2 : Int) : Nat × Flags :=
  let e := minI e1 e2
  let v := atWeight s1 m1 e1 e + atWeight s2 m2 e2 e
  let z := if m1 = 0 && m2 = 0 && s1 == s2 then s1 else decide (rm = .down)
  roundInt f rm false v e z

/-- Flip the sign bit of an encoding. -/
def negF (f : Fmt) (x : Nat) : Nat := x ^^^ signBit f true
def absF (f : Fmt) (x : Nat) : Nat := x % 2 ^ (f.eb + f.fb)

/-- addition -/
def fadd (f : Fmt) (rm : Rm) (x y : Nat) : Nat × Flags :=
  match firstNan f [x, y] with
  | some r => r
  | none => match decodeF f x, decodeF f y with
    | .inf s, .inf t => if s == t then (encInf f s, 0) else invalid f
    | .inf s, _ => (encInf f s, 0)
    | _, .inf t => (encInf f t, 0)
    | .fin s m e, .fin t n g => sumF f rm s m e t n g
    | _, _ => invalid f

/-- multiplication -/
def fmul (f : Fmt) (rm : Rm) (x y : Nat) : Nat × Flags :=
  match firstNan f [x, y] with
  | some r => r
  | none => match decodeF f x, decodeF f y with
    | .inf s, .inf t => (encInf f (s != t), 0)
    | .inf s, .fin t n _ => if n = 0 then invalid f else (encInf f (s != t), 0)
    | .fin s m _, .inf t => if m = 0 then invalid f else (encInf f (s != t), 0)
    | .fin s m e, .fin t n g => roundF f rm false (s != t) (m * n) (e + g) false
    | _, _ => invalid f

/-- fusedMultiplyAdd of x, y and z, the product negated when `np` and z negated when `nz`: R162 has the NaN result as the
operand was read, and INV for infinity times zero whatever z is. -/
def ffma (f : Fmt) (rm : Rm) (np nz : Bool) (x y z : Nat) : Nat × Flags :=
  let infZero := match decodeF f x, decodeF f y with
    | .inf _, .fin _ n _ => n == 0
    | .fin _ m _, .inf _ => m == 0
    | _, _ => false
  match firstNan f [x, y, z] with
  | some (r, fl) => (r, if infZero then fl ||| fINV else fl)
  | none =>
    if infZero then invalid f
    else match decodeF f x, decodeF f y, decodeF f z with
      | .fin s m e, .fin t n g, .fin u k h => sumF f rm ((s != t) != np) (m * n) (e + g) (u != nz) k h
      | .fin _ _ _, .fin _ _ _, .inf u => (encInf f (u != nz), 0)
      | a, b, c =>
        let sg : Num → Bool := fun v => match v with | .inf s => s | .fin s _ _ => s | .nan s _ _ => s
        let ps := (sg a != sg b) != np
        match c with
        | .inf u => if (u != nz) == ps then (encInf f ps, 0) else invalid f
        | _ => (encInf f ps, 0)

/-- division -/
def fdiv (f : Fmt) (rm : Rm) (x y : Nat) : Nat × Flags :=
  match firstNan f [x, y] with
  | some r => r
  | none => match decodeF f x, decodeF f y with
    | .inf _, .inf _ => invalid f
    | .inf s, .fin t _ _ => (encInf f (s != t), 0)
    | .fin s _ _, .inf t => (signBit f (s != t), 0)
    | .fin s m e, .fin t n g =>
      if n = 0 then (if m = 0 then invalid f else (encInf f (s != t), fDZ))
      else
        let k := f.fb + 4 + (Nat.log2 n + 1)
        let q := (m <<< k) / n
        roundF f rm false (s != t) q (e - g - k) ((m <<< k) % n != 0)
    | _, _ => invalid f

/-- Integer square root, `fuel` result bits. -/
def isqrtLoop : Nat → Nat → Nat → Nat
  | 0, _, r => r
  | i + 1, n, r =>
    let c := r + 2 ^ i
    isqrtLoop i n (if c * c ≤ n then c else r)
def isqrt (n : Nat) : Nat := isqrtLoop (Nat.log2 n / 2 + 1) n 0

/-- squareRoot -/
def fsqrt (f : Fmt) (rm : Rm) (x : Nat) : Nat × Flags :=
  match firstNan f [x] with
  | some r => r
  | none => match decodeF f x with
    | .inf s => if s then invalid f else (encInf f false, 0)
    | .fin s m e =>
      if m = 0 then (signBit f s, 0)
      else if s then invalid f
      else
        let k := 2 * (f.fb + 4) + (if (e - 2 * (f.fb + 4)) % 2 = 0 then 0 else 1)
        let n := m <<< k
        let r := isqrt n
        roundF f rm false false r ((e - k) / 2) (r * r != n)
    | _ => invalid f

/-- remainder, exact -/
def frem (f : Fmt) (x y : Nat) : Nat × Flags :=
  match firstNan f [x, y] with
  | some r => r
  | none => match decodeF f x, decodeF f y with
    | .inf _, _ => invalid f
    | .fin _ _ _, .inf _ => (x, 0)
    | .fin s m e, .fin _ n g =>
      if n = 0 then invalid f
      else
        let w := minI e g
        let X := m * 2 ^ (e - w).toNat
        let Y := n * 2 ^ (g - w).toNat
        let q := X / Y
        let r := X % Y
        let v : Int := if 2 * r > Y || (2 * r = Y && q % 2 = 1) then (r : Int) - Y else r
        roundInt f .even false (if s then -v else v) w s
    | _, _ => invalid f

/-- A number as an integer multiple of 2^e0, for comparison; infinities are above every finite value. -/
def orderKey (f : Fmt) (v : Num) : Int :=
  match v with
  | .fin s m e => atWeight s m e f.emin
  | .inf s => let big : Int := 2 ^ (2 ^ f.eb + f.fb + 2); if s then -big else big
  | .nan _ _ _ => 0

/-- minimum, or maximum when `mx`: -0 is below +0. -/
def fminmax (f : Fmt) (mx : Bool) (x y : Nat) : Nat × Flags :=
  match firstNan f [x, y] with
  | some r => r
  | none =>
    let a := orderKey f (decodeF f x)
    let b := orderKey f (decodeF f y)
    let xLess := if a = b then x.testBit (f.eb + f.fb) else decide (a < b)
    (if xLess != mx then x else y, 0)

/-- A magnitude m 2^e rounded to an integer by the attribute: the integer, and whether inexact. -/
def roundIntegral (rm : Rm) (s : Bool) (m : Nat) (e : Int) : Nat × Bool := roundCut rm s (cutAt m e false 0)

/-- roundToIntegral, or roundToIntegralExact when `exact` -/
def frint (f : Fmt) (rm : Rm) (exact : Bool) (x : Nat) : Nat × Flags :=
  match firstNan f [x] with
  | some r => r
  | none => match decodeF f x with
    | .fin s m e =>
      let (n, inexact) := roundIntegral rm s m e
      ((roundF f .even false s n 0 false).1, if exact && inexact then fINX else 0)
    | _ => (x, 0)

/-- The codes of Table 05-11 for floating point: the outcome and the flags, for a legal code 0-6. -/
def fcompare (f : Fmt) (cond : Nat) (x y : Nat) : Bool × Flags :=
  let a := decodeF f x
  let b := decodeF f y
  let nanOf : Num → Bool := fun v => match v with | .nan _ _ _ => true | _ => false
  let sigOf : Num → Bool := fun v => match v with | .nan _ sg _ => sg | _ => false
  let un := nanOf a || nanOf b
  let ka := orderKey f a
  let kb := orderKey f b
  let signalling := cond == 2 || cond == 3
  let fl := if un && (signalling || sigOf a || sigOf b) then fINV else 0
  let r := match cond with
    | 0 => !un && ka == kb
    | 1 => un || ka != kb
    | 2 => !un && decide (ka < kb)
    | 3 => !un && decide (ka ≤ kb)
    | 4 => un
    | 5 => !un && decide (ka < kb)
    | _ => !un && decide (ka ≤ kb)
  (r, fl)

/-- Class bits (Table 05-16). -/
def fclass (f : Fmt) (x : Nat) : Nat :=
  match decodeF f x with
  | .nan _ sg _ => if sg then 1 else 2
  | .inf s => if s then 4 else 512
  | .fin s m _ =>
    if m = 0 then (if s then 32 else 64)
    else if m < 2 ^ f.fb then (if s then 16 else 128)
    else (if s then 8 else 256)

/-- Conversion between floating formats (R47, R49, Table 02-8). -/
def convFF (f g : Fmt) (rm : Rm) (sat : Bool) (x : Nat) : Nat × Flags :=
  match decodeF f x with
  | .nan s sg pl =>
    let p := if g.fb ≤ f.fb then pl >>> (f.fb - g.fb) else pl <<< (g.fb - f.fb)
    (encNan g s p, if sg then fINV else 0)
  | .inf s => (encInf g s, 0)
  | .fin s m e => roundF g rm sat s m e false

/-- An integer format: its width and whether it is signed (R39). -/
structure IFmt where
  w : Nat
  signed : Bool
deriving DecidableEq, Repr

def IFmt.lo (f : IFmt) : Int := if f.signed then -(2 ^ (f.w - 1)) else 0
def IFmt.hi (f : IFmt) : Int := if f.signed then 2 ^ (f.w - 1) - 1 else 2 ^ f.w - 1

/-- The value of an integer encoding, and the encoding of a value modulo 2^w. -/
def IFmt.val (f : IFmt) (x : Nat) : Int :=
  let n := x % 2 ^ f.w
  if f.signed && n.testBit (f.w - 1) then (n : Int) - 2 ^ f.w else n
def IFmt.enc (f : IFmt) (v : Int) : Nat := (v % (2 ^ f.w : Int)).toNat

/-- A value clamped to the format's range, and whether it was clamped. -/
def IFmt.clamp (f : IFmt) (v : Int) : Int × Bool :=
  if v < f.lo then (f.lo, true) else if v > f.hi then (f.hi, true) else (v, false)

/-- Conversion from a floating format to an integer format (R47, R49). -/
def convFI (f : Fmt) (g : IFmt) (rm : Rm) (x : Nat) : Nat × Flags :=
  match decodeF f x with
  | .nan _ _ _ => (0, fINV)
  | .inf s => (g.enc (if s then g.lo else g.hi), fINV)
  | .fin s m e =>
    let (n, inexact) := roundIntegral rm s m e
    let (v, out) := g.clamp (if s then -(n : Int) else n)
    (g.enc v, if out then fINV else if inexact then fINX else 0)

/-- Conversion from an integer format to a floating format. -/
def convIF (f : IFmt) (g : Fmt) (rm : Rm) (sat : Bool) (x : Nat) : Nat × Flags :=
  roundInt g rm sat (f.val x) 0 false

/-- Conversion between integer formats: exact when wider, else saturated with the SAT flag (Table 02-8). -/
def convII (f g : IFmt) (x : Nat) : Nat × Flags :=
  let (v, out) := g.clamp (f.val x)
  (g.enc v, if out then fSAT else 0)

/-! ### Blocked SF4 (R37, R38, R50, R51) -/

/-- Twice the magnitude of an SF4 element (Table 02-5). -/
def sf4Twice (n : Nat) : Nat :=
  match n % 8 with | 0 => 0 | 1 => 1 | 2 => 2 | 3 => 3 | 4 => 4 | 5 => 6 | 6 => 8 | _ => 12

/-- The value of an element nibble in a block of scale code `c` (R38). -/
def sf4Num (c nib : Nat) : Num :=
  if c = 0xFF then .nan false false 0
  else if c = 0xFE then .inf (nib.testBit 3)
  else .fin (nib.testBit 3) (sf4Twice nib) ((c : Int) - 128)

/-- Encode a number in a format with the attribute; the NaN of a block is the positive default NaN (R47). -/
def encNum (g : Fmt) (rm : Rm) (sat : Bool) (v : Num) : Nat × Flags :=
  match v with
  | .nan s _ p => (encNan g s p, 0)
  | .inf s => (encInf g s, 0)
  | .fin s m e => roundF g rm sat s m e false

/-- floor(log2) of the magnitude m 2^e, m > 0. -/
def floorLog2 (m : Nat) (e : Int) : Int := Nat.log2 m + e

/-- Whether m 2^e < n 2^g. -/
def magLess (m : Nat) (e : Int) (n : Nat) (g : Int) : Bool :=
  let w := minI e g
  decide (m * 2 ^ (e - w).toNat < n * 2 ^ (g - w).toNat)

/-- The largest magnitude of a list of numbers. -/
def maxMag : List Num → Nat × Int
  | [] => (0, 0)
  | .fin _ m e :: xs => let (n, g) := maxMag xs; if magLess n g m e then (m, e) else (n, g)
  | _ :: xs => maxMag xs

/-- The scale code that the encoder chooses for finite values (R50). -/
def sf4Scale (xs : List Num) : Nat :=
  let (m, e) := maxMag xs
  if m = 0 then 0
  else
    let c := floorLog2 m e - 2 + 127
    if c < 0 then 0 else if c > 0xFD then 0xFD else c.toNat

/-- One element: the magnitude m 2^e (already divided by the scale) rounded to the nearest of Table 02-5, and flags (R51).
Steps of 0.5 up to 2, of 1 up to 4, of 2 above; above 6 the result is 6 with INX. -/
def roundSf4 (rm : Rm) (s : Bool) (m : Nat) (e : Int) : Nat × Flags :=
  if m = 0 then ((if s then 8 else 0), 0)
  else
    let q : Int := if magLess m e 2 0 then -1 else if magLess m e 4 0 then 0 else 1
    let (n, inexact) := roundCut rm s (cutAt m e false q)
    -- magnitude n 2^q as a code: twice the value is n 2^(q+1)
    let twice := n * 2 ^ (q + 1).toNat
    let code := if twice ≤ 4 then twice else if twice ≤ 6 then 5 else if twice ≤ 8 then 6 else 7
    let ovr := decide (twice > 12)
    let q0 := floorLog2 m e - 1
    let n0 := (roundCut rm s (cutAt m e false q0)).1
    let tiny := decide ((if n0 = 4 then q0 + 1 else q0) < -1)
    let inx := inexact || ovr
    ((if s then 8 else 0) + code, (if inx then fINX else 0) ||| (if inx && tiny then fUNF else 0))

/-- The block encoder (R50): the scale code, the element nibbles, and the flags of each element. -/
def sf4Encode (rm : Rm) (xs : List Num) : Nat × List (Nat × Flags) :=
  let isNan : Num → Bool := fun v => match v with | .nan _ _ _ => true | _ => false
  let isInf : Num → Bool := fun v => match v with | .inf _ => true | _ => false
  let sgn : Num → Bool := fun v => match v with | .fin s _ _ => s | .inf s => s | .nan s _ _ => s
  let sig : Num → Flags := fun v => match v with | .nan _ true _ => fINV | _ => 0
  if xs.any isNan then (0xFF, xs.map fun v => (0, sig v))
  else if xs.any isInf then (0xFE, xs.map fun v => ((if sgn v then 8 else 0) + 7, 0))
  else
    let c := sf4Scale xs
    (c, xs.map fun v => match v with
      | .fin s m e => roundSf4 rm s m (e - ((c : Int) - 127))
      | _ => (0, 0))

/-! ### Exact block sums (R52-R56) -/

/-- The running value of a block: an exact sum at weight 2^-300, and the special values met (R53, R55). -/
structure BlockSum where
  w : Int := 0
  nan : Bool := false
  inv : Bool := false
  pinf : Bool := false
  ninf : Bool := false
deriving DecidableEq, Repr

/-- A number enters the block sum as a term. -/
def BlockSum.add (b : BlockSum) (v : Num) : BlockSum :=
  match v with
  | .nan _ _ _ => { b with nan := true }
  | .inf s => if s then { b with ninf := true } else { b with pinf := true }
  | .fin s m e => { b with w := b.w + atWeight s m e (-300) }

/-- The product of two operands enters the block sum (R55 item 1). -/
def BlockSum.mac (b : BlockSum) (x y : Num) : BlockSum :=
  match x, y with
  | .nan _ _ _, _ => { b with nan := true }
  | _, .nan _ _ _ => { b with nan := true }
  | .inf s, .inf t => b.add (.inf (s != t))
  | .inf s, .fin t n _ => if n = 0 then { b with nan := true, inv := true } else b.add (.inf (s != t))
  | .fin s m _, .inf t => if m = 0 then { b with nan := true, inv := true } else b.add (.inf (s != t))
  | .fin s m e, .fin t n g => b.add (.fin (s != t) (m * n) (e + g))

/-- The block result (R54, R55): binary32 by roundTiesToEven, an exact zero is +0, every NaN is 0x7FC0_0000 (R48);
with the accumulator flags INV and OVF. -/
def BlockSum.result (b : BlockSum) : Nat × Flags :=
  let inv := b.inv || (!b.nan && b.pinf && b.ninf)
  let fl : Flags := if inv then fINV else 0
  if b.nan || (b.pinf && b.ninf) then (0x7FC00000, fl)
  else if b.pinf then (encInf binary32 false, fl)
  else if b.ninf then (encInf binary32 true, fl)
  else
    let (r, rf) := roundInt binary32 .even false b.w (-300) false
    (r, fl ||| (rf &&& fOVF))

end Sys2Proof.Machine
end

