-- ==== Sys2Proof/Config.lean ====
section
/-! DEFINITION. What the spec leaves open: values that no rule fixes, as constants without a body. No proof can see
their values; every statement holds whatever they are. Each is named in a row of notes/assumptions. -/
namespace Sys2Proof

/-- A partition (R24, R223). Masks over logical cores, pseudo-channels and ways; the region in bytes. -/
structure Partition where
  realTime : Bool
  cores : Mask
  pcs : BitVec 64
  ways : BitVec 16
  op : Nat
  graphics : Bool := false
deriving DecidableEq, Repr

/-- A stage of a service graph: the partition, root page and range entries of its context, its queue (L, priority, vector, ring
address, virtual and physical), and its job template (R305). -/
structure StagePlan where
  part : Nat
  root : Nat
  ranges : List (W64 × W64)
  log2 : Nat
  prio : Nat
  vector : Nat
  ring : Nat
  ringPa : Nat
  template : List W64
deriving DecidableEq, Repr

/-- A trigger that a graph arms: its slot and registers; the argument of a LAUNCH names a stage. -/
structure TriggerPlan where
  slot : Nat
  ctl : W32
  pos : W64
  inc : W32
  arg : W32
  dly : W32
  tpl : List W32
deriving DecidableEq, Repr

/-- What a service graph names (R305, R386, R442): its stages, the caps of the four power classes in mW, the register writes with which
Fragan enables its ports and channels and binds its sources (page, offset, value, and the stage whose tag stands in bits [11:0], if
one), and its triggers. -/
structure GraphPlan where
  stages : List StagePlan
  caps : List Nat
  setup : List (Nat × Nat × W32 × Option Nat)
  triggers : List TriggerPlan
deriving DecidableEq, Repr, Inhabited

/-- What an integrator configuration names (R478, R482): the mode, SPK_GRP.DEVID, the power profile and the partitions. -/
structure SitePlan where
  appliance : Bool
  devId : Nat
  profile : Nat
  parts : List Partition
deriving DecidableEq, Repr, Inhabited

/-- Kind and severity of the journal record that a rule calls for, by source page and the model's own number of the
event; the spec gives the record's layout (R466) and not these codes. -/
opaque Config.journalKind : Nat → Nat → Nat
opaque Config.journalSeverity : Nat → Nat → Nat
/-- Kind code of a STATE record (R467). -/
opaque Config.stateCode : Nat

/-- Beats of a stopped engine that memory had accepted (R218), and whether byte `i` of the stopped tile was among them. -/
opaque Config.stopBeats : Nat → Nat
opaque Config.stopLanded : Nat → Nat → Bool
/-- A byte of a surface tile that a stop left partly written. -/
opaque Config.stopByte : Nat → Nat → Byte

/-- The entry that leaves a full TLB level, walk cache or instruction cache: no rule states the replacement (R152, R261). -/
opaque Config.victim : Nat → Nat

/-- The value that a special-function unit returns, by function (the low byte of its opcode), element width and operand:
any value of the format within the row's bound (R165). -/
opaque Config.special : Nat → Nat → Nat → Nat

/-- Engine, tile and sequence number that STR_FLT_INFO shows for a local-store error met by a reader that is no engine
(R197, R212, Table 07-8). -/
opaque Config.noEngine : Nat → Nat
opaque Config.noTile : Nat → Nat

/-- A cell of a held B tile outside what was loaded into it (R115). -/
opaque Config.staleCell : Nat → Nat → Nat → Nat
/-- The result and the SAT flag of an INT32 MEW whose exact value lies outside the format (R124). -/
opaque Config.mewWide : Nat → Nat → Nat → Nat
opaque Config.mewSat : Nat → Nat → Nat → Bool
/-- Row or column, block, difference and bound that the record of an agreeing injected test shows where no rule places the test (R136,
R144). -/
opaque Config.injFigures : Nat → Nat × Nat × W32 × W32
/-- The upper half of the last byte of an INT4 row of odd length (R125). -/
opaque Config.oddNibble : Nat → Nat

/-- The bytes of a run of coded tokens, and the tokens that bytes decode to until `n` bytes have been produced: R398 does not
fix the range coder byte for byte. A token is (0, byte) for a literal and (length, distance) for a match. -/
opaque Config.rangeCode : List (Nat × Nat) → List Byte
opaque Config.rangeDecode : List Byte → Nat → List (Nat × Nat)
/-- Bytes that the last coded chunk of a resumed stream stands for, whose header no longer tells (R404, R405). -/
opaque Config.rangeLength : List Byte → Nat
/-- Byte `i` of an output that the spec calls undefined (R395, R405). -/
opaque Config.openByte : Nat → Nat → Byte

/-- The inbound window that a peer gives to a window opened towards it, if it has a free one (R267). -/
opaque Config.peerWindow : Nat → Option Nat
/-- The home's answer to the import of a handle (false: its generation is stale or the target differs), and the value and state
code of the slot (R292, R293). -/
opaque Config.importOk : Nat → Bool
opaque Config.importValue : Nat → BitVec 64
opaque Config.importState : Nat → BitVec 2

/-- Size (8 bytes or 4), operand and comparand that the data slot of a remote atomic carries (R412, R422 give no layout). -/
opaque Config.atomicSlot : List Byte → Bool × Nat × Nat
/-- Hash of this device's own admission public key (R420). -/
opaque Config.ownKey : BitVec 384

/-- Depth (k = 0) or attribute k - 1 of a triangle at a pixel, in binary32: R354 fixes no order of operations. -/
opaque Config.interpolate : List (List Nat) → Nat → Nat → Nat → Nat
/-- Contents of an attachment under LOADOP DONTCARE (R351). -/
opaque Config.dontCare : Nat → Nat → Byte
/-- A NaN colour in an unsigned normalised channel (R356 gives no result). -/
opaque Config.unormNan : Nat → Nat
/-- Frame period of a received flow in 90 kHz ticks: no descriptor field states it for a receive channel (R314). -/
opaque Config.framePeriod : Nat → Nat
/-- Byte `i` of a blended line in the write-back format, from the pipe's configuration, the frame descriptor, the tone curve, the
line, and the bytes of each shown layer: the filters of R381 have no stated coefficients. -/
opaque Config.blend : BitVec 32 → List (BitVec 64) → List Byte → Nat → List (Nat × List (Option Byte)) → Nat → Byte

/-- Counts that build up clock by clock, which the model does not follow: a programmable counter of such an event, the slot counters
of a logical core (R525), and which of them have wrapped. -/
opaque Config.clockCount : Nat → Nat → BitVec 48
opaque Config.slotCount : Nat → Nat → Nat → BitVec 48
opaque Config.slotWraps : Nat → BitVec 32
opaque Config.clockWraps : Nat → Nat → Bool

/-- SHA-384 of some bytes, and the verdict on an ECDSA P-384 signature by a key over bytes (R478); the standards give both, the spec
neither. -/
opaque Config.sha384 : List (BitVec 8) → BitVec 384
opaque Config.ecdsaOk : List (BitVec 8) → List (BitVec 8) → List (BitVec 8) → Bool
/-- A debug challenge, and the verdict on a response's signature over it, the serial number, the level and the mask (R489). -/
opaque Config.challenge : Nat → BitVec 256
opaque Config.debugSignature : List (BitVec 8) → BitVec 256 → Nat → Nat → Nat → Bool

/-- The AER header log of a poisoned TLP (R517): the header is the link's, and the spec does not give it. -/
opaque Config.aerHeader : Nat → BitVec 128

/-- REF2X and TEMP of MEM_STAT, which the HBM stacks report (Table 08-6). -/
opaque Config.stackState : Nat → Nat → Bool × BitVec 8
/-- Physical address of a pair's level-3 page table (R494). -/
opaque Config.hubTable : Nat → BitVec 46


/-- The bytes that Fragan or the ROM reads of an image: by DMA from a bus address, or from the management session (Table 10-15,
R483). -/
opaque Config.hostRead : Nat → Nat → Nat → List Byte
/-- What the body of a service graph image, and of an integrator configuration, names; and the partitions of a start without an accepted
configuration: no rule gives the layout of a body, or those partitions (R305, R478, R482). -/
opaque Config.graphPlan : List Byte → GraphPlan
opaque Config.sitePlan : List Byte → SitePlan
opaque Config.bareParts : List Partition
/-- Status of a GRAPH job whose graph or stage does not run (Table 10-2 gives none). -/
opaque Config.graphStatus : Nat → BitVec 8
/-- Whether a pulse on RESET_N between 1 and 10 microseconds resets the device (R541). -/
opaque Config.resetTaken : Nat → Bool

end Sys2Proof
end

