-- ==== Sys2Proof/Machine/RegMap.lean ====
section
/-! DEFINITION. The register map: for each kind of page, its registers with their offsets, reset values, fields,
access codes and valid encodings, as the register tables of spec/ give them (Tables 03-6 to 20-8), and the page
index map (R498). A field whose list of ranges is empty admits every value (R7); bits of no field are
reserved (R6). -/
namespace Sys2Proof.Machine

/-- Access codes (Table 00-6). -/
inductive Acc where
  | ro
  | rw
  | wo
  | rc
  | rwt
  | sc
  | w1s
deriving DecidableEq, Repr

/-- A field: its bits, its access code, and the ranges of values its table lists (none: all). -/
structure Fld where
  hi : Nat
  lo : Nat
  acc : Acc
  valid : List (Nat × Nat)
deriving DecidableEq, Repr

/-- A register: offset, reset value, fields. -/
structure Reg where
  off : Nat
  reset : Nat
  flds : List Fld
deriving DecidableEq, Repr

/-- Kinds of page (Table 19-10); `none`: no block occupies the page (R497). -/
inductive PageKind where
  | dev | boot | sec | pwr | rel | cad | pmc | hub | mem | syc | xlt0 | xlt1 | xlt2 | xlt3
  | core | mxa | str | gfx | hif0 | hif1 | hif2 | spk | vioE | vioC | vioT | cmp | cpr | que | vi | none
deriving DecidableEq, Repr

/-- The page index map (R498, Table 19-10); the VI page of function fn has the model's own index 0x10000 + fn,
since it is not in the register space. -/
def pageKind (page : Nat) : PageKind :=
  if page = 0 then .dev else if page = 1 then .boot else if page = 2 then .sec
  else if page = 3 then .pwr else if page = 4 then .rel else if page = 5 then .cad
  else if page = 6 then .pmc else if 8 ≤ page ∧ page ≤ 0xB then .hub
  else if 0x10 ≤ page ∧ page ≤ 0x2F then .mem else if 0x30 ≤ page ∧ page ≤ 0x3F then .syc
  else if page = 0x40 then .xlt0 else if page = 0x41 then .xlt1
  else if page = 0x42 then .xlt2 else if page = 0x43 then .xlt3
  else if 0x100 ≤ page ∧ page ≤ 0x18F then
    (if page % 4 = 0 then .core else if page % 4 = 1 then .mxa else if page % 4 = 2 then .str else .gfx)
  else if page = 0x200 then .hif0 else if page = 0x201 then .hif1
  else if 0x202 ≤ page ∧ page ≤ 0x207 then .hif2
  else if 0x210 ≤ page ∧ page ≤ 0x217 then .spk
  else if 0x220 ≤ page ∧ page ≤ 0x223 then .vioE else if 0x224 ≤ page ∧ page ≤ 0x22B then .vioC
  else if 0x22C ≤ page ∧ page ≤ 0x22F then .vioT
  else if 0x230 ≤ page ∧ page ≤ 0x233 then .cmp else if 0x240 ≤ page ∧ page ≤ 0x243 then .cpr
  else if 0x400 ≤ page ∧ page ≤ 0x7FF then .que
  else if 0x10000 ≤ page ∧ page ≤ 0x1003F then .vi
  else .none

/-- TYPE and INST of a page's ID register (Table 19-5, R504). -/
def pageId (page : Nat) : Nat :=
  let mk (type inst : Nat) := type * 0x10000 + inst * 0x100
  match pageKind page with
  | .dev => mk 1 0 | .boot => mk 2 0 | .sec => mk 3 0 | .pwr => mk 4 0 | .rel => mk 5 0
  | .cad => mk 6 0 | .pmc => mk 7 0 | .hub => mk 8 (page - 8)
  | .mem => mk 0x10 (page - 0x10) | .syc => mk 0x11 (page - 0x30)
  | .xlt0 => mk 0x12 0 | .xlt1 => mk 0x12 1 | .xlt2 => mk 0x12 2 | .xlt3 => mk 0x12 3
  | .core => mk 0x20 ((page - 0x100) / 4) | .mxa => mk 0x21 ((page - 0x100) / 4)
  | .str => mk 0x22 ((page - 0x100) / 4) | .gfx => mk 0x23 ((page - 0x100) / 4)
  | .hif0 => mk 0x30 0 | .hif1 => mk 0x30 1 | .hif2 => mk 0x30 (page - 0x200)
  | .spk => mk 0x31 (page - 0x210)
  | .vioE => mk 0x32 (page - 0x220) | .vioC => mk 0x32 (page - 0x220) | .vioT => mk 0x32 (page - 0x220)
  | .cmp => mk 0x33 (page - 0x230) | .cpr => mk 0x34 (page - 0x240)
  | .que => mk (0x40 + (page - 0x400) / 256) ((page - 0x400) % 256)
  | .vi => mk 0x50 (page - 0x10000) | .none => 0

/-- Registers of the core page. -/
def regsCore : List Reg := [
  /- CORE_CFG -/ ⟨0x100, 0x00000440, [⟨16, 16, .rwt, []⟩, ⟨11, 8, .rwt, [(0, 8)]⟩, ⟨7, 0, .rwt, [(1, 255)]⟩]⟩,
  /- CORE_GRP_STAT -/ ⟨0x104, 0x80100000, [⟨31, 21, .ro, []⟩, ⟨20, 12, .ro, []⟩, ⟨5, 0, .ro, []⟩]⟩,
  /- CORE_LAUNCH -/ ⟨0x108, 0x00000000, [⟨31, 0, .ro, []⟩]⟩,
  /- CORE_FLT_INFO -/ ⟨0x110, 0x00000000, [⟨31, 31, .rc, []⟩, ⟨30, 30, .rc, []⟩, ⟨29, 24, .rc, []⟩, ⟨23, 16, .rc, []⟩]⟩]

/-- Registers of the mxa page. -/
def regsMxa : List Reg := [
  /- MXA_CFG -/ ⟨0x100, 0x00001000, [⟨12, 8, .rwt, [(10, 20)]⟩]⟩,
  /- MXA_STAT -/ ⟨0x104, 0x00000000, [⟨31, 31, .ro, []⟩, ⟨30, 30, .ro, []⟩, ⟨29, 29, .ro, []⟩, ⟨28, 26, .ro, []⟩, ⟨25, 23, .ro, []⟩]⟩,
  /- MXA_REPLAY_CNT -/ ⟨0x108, 0x00000000, [⟨31, 0, .ro, []⟩]⟩,
  /- MXA_SKIP_CNT -/ ⟨0x10C, 0x00000000, [⟨31, 0, .ro, []⟩]⟩,
  /- MXA_INJ_CNT -/ ⟨0x110, 0x00000000, [⟨31, 0, .ro, []⟩]⟩,
  /- MXA_CHK_INFO -/ ⟨0x114, 0x00000000, [⟨31, 31, .rc, []⟩, ⟨30, 30, .rc, []⟩, ⟨29, 29, .rc, []⟩, ⟨28, 27, .rc, []⟩, ⟨26, 25, .rc, []⟩, ⟨24, 19, .rc, []⟩, ⟨18, 13, .rc, []⟩, ⟨12, 9, .rc, []⟩]⟩]

/-- Registers of the str page. -/
def regsStr : List Reg := [
  /- STR_CFG -/ ⟨0x100, 0x00001010, [⟨15, 8, .rwt, [(1, 255)]⟩, ⟨7, 0, .rwt, []⟩]⟩,
  /- STR_STAT -/ ⟨0x104, 0x00000000, [⟨31, 28, .ro, []⟩, ⟨27, 23, .ro, []⟩, ⟨22, 18, .ro, []⟩, ⟨17, 13, .ro, []⟩, ⟨12, 8, .ro, []⟩]⟩,
  /- STR_FLT_INFO -/ ⟨0x108, 0x00000000, [⟨31, 31, .rc, []⟩, ⟨30, 30, .rc, []⟩, ⟨29, 28, .rc, []⟩, ⟨27, 24, .rc, []⟩, ⟨15, 0, .rc, []⟩]⟩,
  /- STR_REPAIR -/ ⟨0x10C, 0x00000000, [⟨31, 31, .ro, []⟩, ⟨5, 0, .ro, []⟩]⟩,
  /- STR_CAD_CNT -/ ⟨0x110, 0x00000000, [⟨31, 16, .ro, []⟩, ⟨15, 0, .ro, []⟩]⟩,
  /- STR_STOP_BEATS -/ ⟨0x114, 0x00000000, [⟨31, 0, .ro, []⟩]⟩]

/-- Registers of the mem page. -/
def regsMem : List Reg := [
  /- MEM_CFG -/ ⟨0x100, 0x00010000, [⟨18, 16, .rwt, [(0, 4)]⟩, ⟨11, 11, .rwt, []⟩, ⟨10, 8, .rwt, []⟩, ⟨3, 3, .rwt, []⟩, ⟨2, 0, .rwt, []⟩]⟩,
  /- MEM_STAT -/ ⟨0x104, 0x00000000, [⟨31, 31, .ro, []⟩, ⟨30, 30, .ro, []⟩, ⟨7, 0, .ro, []⟩]⟩,
  /- MEM_LAST_WIN -/ ⟨0x108, 0x00000000, [⟨24, 16, .ro, []⟩, ⟨8, 0, .ro, []⟩]⟩,
  /- MEM_OVER_CNT -/ ⟨0x10C, 0x00000000, [⟨31, 0, .ro, []⟩]⟩,
  /- MEM_ECC_CNT -/ ⟨0x110, 0x00000000, [⟨31, 20, .ro, []⟩, ⟨19, 0, .ro, []⟩]⟩,
  /- MEM_ERR_INFO -/ ⟨0x114, 0x00000000, [⟨31, 31, .rc, []⟩, ⟨30, 30, .rc, []⟩, ⟨29, 29, .rc, []⟩, ⟨28, 26, .rc, []⟩, ⟨25, 24, .rc, []⟩]⟩,
  /- MEM_WGT0 -/ ⟨0x180, 0x11111111, [⟨31, 28, .rwt, []⟩, ⟨27, 24, .rwt, []⟩, ⟨23, 20, .rwt, []⟩, ⟨19, 16, .rwt, []⟩, ⟨15, 12, .rwt, []⟩, ⟨11, 8, .rwt, []⟩, ⟨7, 4, .rwt, []⟩, ⟨3, 0, .rwt, []⟩]⟩,
  /- MEM_WGT1 -/ ⟨0x184, 0x11111111, [⟨31, 28, .rwt, []⟩, ⟨27, 24, .rwt, []⟩, ⟨23, 20, .rwt, []⟩, ⟨19, 16, .rwt, []⟩, ⟨15, 12, .rwt, []⟩, ⟨11, 8, .rwt, []⟩, ⟨7, 4, .rwt, []⟩, ⟨3, 0, .rwt, []⟩]⟩,
  /- MEM_WGT2 -/ ⟨0x188, 0x11111111, [⟨31, 28, .rwt, []⟩, ⟨27, 24, .rwt, []⟩, ⟨23, 20, .rwt, []⟩, ⟨19, 16, .rwt, []⟩, ⟨15, 12, .rwt, []⟩, ⟨11, 8, .rwt, []⟩, ⟨7, 4, .rwt, []⟩, ⟨3, 0, .rwt, []⟩]⟩,
  /- MEM_WGT3 -/ ⟨0x18C, 0x11111111, [⟨31, 28, .rwt, []⟩, ⟨27, 24, .rwt, []⟩, ⟨23, 20, .rwt, []⟩, ⟨19, 16, .rwt, []⟩, ⟨15, 12, .rwt, []⟩, ⟨11, 8, .rwt, []⟩, ⟨7, 4, .rwt, []⟩, ⟨3, 0, .rwt, []⟩]⟩,
  /- MEM_WGT4 -/ ⟨0x190, 0x11111111, [⟨31, 28, .rwt, []⟩, ⟨27, 24, .rwt, []⟩, ⟨23, 20, .rwt, []⟩, ⟨19, 16, .rwt, []⟩, ⟨15, 12, .rwt, []⟩, ⟨11, 8, .rwt, []⟩, ⟨7, 4, .rwt, []⟩, ⟨3, 0, .rwt, []⟩]⟩,
  /- MEM_WGT5 -/ ⟨0x194, 0x11111111, [⟨31, 28, .rwt, []⟩, ⟨27, 24, .rwt, []⟩, ⟨23, 20, .rwt, []⟩, ⟨19, 16, .rwt, []⟩, ⟨15, 12, .rwt, []⟩, ⟨11, 8, .rwt, []⟩, ⟨7, 4, .rwt, []⟩, ⟨3, 0, .rwt, []⟩]⟩,
  /- MEM_WGT6 -/ ⟨0x198, 0x11111111, [⟨31, 28, .rwt, []⟩, ⟨27, 24, .rwt, []⟩, ⟨23, 20, .rwt, []⟩, ⟨19, 16, .rwt, []⟩, ⟨15, 12, .rwt, []⟩, ⟨11, 8, .rwt, []⟩, ⟨7, 4, .rwt, []⟩, ⟨3, 0, .rwt, []⟩]⟩,
  /- MEM_WGT7 -/ ⟨0x19C, 0x11111111, [⟨31, 28, .rwt, []⟩, ⟨27, 24, .rwt, []⟩, ⟨23, 20, .rwt, []⟩, ⟨19, 16, .rwt, []⟩, ⟨15, 12, .rwt, []⟩, ⟨11, 8, .rwt, []⟩, ⟨7, 4, .rwt, []⟩, ⟨3, 0, .rwt, []⟩]⟩]

/-- Registers of the syc page. -/
def regsSyc : List Reg := [
  /- SYC_WAYMAP0 -/ ⟨0x100, 0x00000000, [⟨30, 28, .rwt, []⟩, ⟨26, 24, .rwt, []⟩, ⟨22, 20, .rwt, []⟩, ⟨18, 16, .rwt, []⟩, ⟨14, 12, .rwt, []⟩, ⟨10, 8, .rwt, []⟩, ⟨6, 4, .rwt, []⟩, ⟨2, 0, .rwt, []⟩]⟩,
  /- SYC_WAYMAP1 -/ ⟨0x104, 0x00000000, [⟨30, 28, .rwt, []⟩, ⟨26, 24, .rwt, []⟩, ⟨22, 20, .rwt, []⟩, ⟨18, 16, .rwt, []⟩, ⟨14, 12, .rwt, []⟩, ⟨10, 8, .rwt, []⟩, ⟨6, 4, .rwt, []⟩, ⟨2, 0, .rwt, []⟩]⟩,
  /- SYC_STAT -/ ⟨0x108, 0x00000000, [⟨31, 31, .ro, []⟩, ⟨5, 0, .ro, []⟩]⟩,
  /- SYC_FLUSH -/ ⟨0x10C, 0x00000000, [⟨31, 31, .sc, []⟩, ⟨15, 0, .rw, []⟩]⟩,
  /- SYC_ECC_CNT -/ ⟨0x110, 0x00000000, [⟨31, 0, .ro, []⟩]⟩,
  /- SYC_ERR_INFO -/ ⟨0x114, 0x00000000, [⟨31, 31, .rc, []⟩, ⟨30, 30, .rc, []⟩, ⟨29, 28, .rc, []⟩, ⟨27, 24, .rc, []⟩, ⟨23, 13, .rc, []⟩]⟩]

/-- Registers of the xlt0 page. -/
def regsXlt0 : List Reg := [
  /- XLT_CTX_D0 -/ ⟨0x100, 0x00000000, [⟨31, 0, .rw, []⟩]⟩,
  /- XLT_CTX_D1 -/ ⟨0x104, 0x00000000, [⟨31, 0, .rw, []⟩]⟩,
  /- XLT_CTX_D2 -/ ⟨0x108, 0x00000000, [⟨31, 0, .rw, []⟩]⟩,
  /- XLT_CTX_D3 -/ ⟨0x10C, 0x00000000, [⟨31, 0, .rw, []⟩]⟩,
  /- XLT_CTX_CMD -/ ⟨0x110, 0x00000000, [⟨31, 31, .sc, []⟩, ⟨30, 30, .rw, []⟩, ⟨11, 0, .rw, []⟩]⟩,
  /- XLT_INV -/ ⟨0x114, 0x00000000, [⟨31, 31, .sc, []⟩, ⟨11, 0, .rw, []⟩]⟩,
  /- XLT_STAT -/ ⟨0x118, 0x00000000, [⟨31, 31, .ro, []⟩, ⟨30, 27, .ro, []⟩, ⟨11, 0, .ro, []⟩]⟩,
  /- XLT_INV_SEQ -/ ⟨0x11C, 0x00000000, [⟨31, 0, .ro, []⟩]⟩]

/-- Registers of the xlt1 page. -/
def regsXlt1 : List Reg := [
  /- XLT_FLT_INFO -/ ⟨0x100, 0x00000000, [⟨31, 31, .rc, []⟩, ⟨30, 30, .rc, []⟩, ⟨29, 27, .rc, []⟩, ⟨26, 25, .rc, []⟩, ⟨24, 24, .rc, []⟩, ⟨23, 18, .rc, []⟩, ⟨11, 0, .rc, []⟩]⟩,
  /- XLT_FLT_CNT -/ ⟨0x104, 0x00000000, [⟨31, 0, .ro, []⟩]⟩]

/-- Registers of the xlt2 page. -/
def regsXlt2 : List Reg := [
  /- XLT_OWIN0 -/ ⟨0x100, 0x00000000, [⟨31, 31, .rw, []⟩, ⟨30, 28, .rw, []⟩, ⟨11, 8, .rw, []⟩, ⟨3, 0, .rw, []⟩]⟩,
  /- XLT_OWIN1 -/ ⟨0x104, 0x00000000, [⟨31, 31, .rw, []⟩, ⟨30, 28, .rw, []⟩, ⟨11, 8, .rw, []⟩, ⟨3, 0, .rw, []⟩]⟩,
  /- XLT_OWIN2 -/ ⟨0x108, 0x00000000, [⟨31, 31, .rw, []⟩, ⟨30, 28, .rw, []⟩, ⟨11, 8, .rw, []⟩, ⟨3, 0, .rw, []⟩]⟩,
  /- XLT_OWIN3 -/ ⟨0x10C, 0x00000000, [⟨31, 31, .rw, []⟩, ⟨30, 28, .rw, []⟩, ⟨11, 8, .rw, []⟩, ⟨3, 0, .rw, []⟩]⟩,
  /- XLT_OWIN4 -/ ⟨0x110, 0x00000000, [⟨31, 31, .rw, []⟩, ⟨30, 28, .rw, []⟩, ⟨11, 8, .rw, []⟩, ⟨3, 0, .rw, []⟩]⟩,
  /- XLT_OWIN5 -/ ⟨0x114, 0x00000000, [⟨31, 31, .rw, []⟩, ⟨30, 28, .rw, []⟩, ⟨11, 8, .rw, []⟩, ⟨3, 0, .rw, []⟩]⟩,
  /- XLT_OWIN6 -/ ⟨0x118, 0x00000000, [⟨31, 31, .rw, []⟩, ⟨30, 28, .rw, []⟩, ⟨11, 8, .rw, []⟩, ⟨3, 0, .rw, []⟩]⟩,
  /- XLT_OWIN7 -/ ⟨0x11C, 0x00000000, [⟨31, 31, .rw, []⟩, ⟨30, 28, .rw, []⟩, ⟨11, 8, .rw, []⟩, ⟨3, 0, .rw, []⟩]⟩,
  /- XLT_OWIN8 -/ ⟨0x120, 0x00000000, [⟨31, 31, .rw, []⟩, ⟨30, 28, .rw, []⟩, ⟨11, 8, .rw, []⟩, ⟨3, 0, .rw, []⟩]⟩,
  /- XLT_OWIN9 -/ ⟨0x124, 0x00000000, [⟨31, 31, .rw, []⟩, ⟨30, 28, .rw, []⟩, ⟨11, 8, .rw, []⟩, ⟨3, 0, .rw, []⟩]⟩,
  /- XLT_OWIN10 -/ ⟨0x128, 0x00000000, [⟨31, 31, .rw, []⟩, ⟨30, 28, .rw, []⟩, ⟨11, 8, .rw, []⟩, ⟨3, 0, .rw, []⟩]⟩,
  /- XLT_OWIN11 -/ ⟨0x12C, 0x00000000, [⟨31, 31, .rw, []⟩, ⟨30, 28, .rw, []⟩, ⟨11, 8, .rw, []⟩, ⟨3, 0, .rw, []⟩]⟩,
  /- XLT_OWIN12 -/ ⟨0x130, 0x00000000, [⟨31, 31, .rw, []⟩, ⟨30, 28, .rw, []⟩, ⟨11, 8, .rw, []⟩, ⟨3, 0, .rw, []⟩]⟩,
  /- XLT_OWIN13 -/ ⟨0x134, 0x00000000, [⟨31, 31, .rw, []⟩, ⟨30, 28, .rw, []⟩, ⟨11, 8, .rw, []⟩, ⟨3, 0, .rw, []⟩]⟩,
  /- XLT_OWIN14 -/ ⟨0x138, 0x00000000, [⟨31, 31, .rw, []⟩, ⟨30, 28, .rw, []⟩, ⟨11, 8, .rw, []⟩, ⟨3, 0, .rw, []⟩]⟩,
  /- XLT_OWIN15 -/ ⟨0x13C, 0x00000000, [⟨31, 31, .rw, []⟩, ⟨30, 28, .rw, []⟩, ⟨11, 8, .rw, []⟩, ⟨3, 0, .rw, []⟩]⟩]

/-- Registers of the xlt3 page, part 0. -/
def regsXlt30 : List Reg := [
  /- XLT_IWIN_CTL0 -/ ⟨0x100, 0x00000000, [⟨31, 31, .rw, []⟩, ⟨30, 30, .rw, []⟩, ⟨29, 29, .rw, []⟩, ⟨28, 28, .rw, []⟩, ⟨27, 25, .rw, []⟩, ⟨7, 4, .rw, []⟩, ⟨3, 0, .rw, []⟩]⟩,
  /- XLT_IWIN_BASE0 -/ ⟨0x104, 0x00000000, [⟨24, 0, .rw, []⟩]⟩,
  /- XLT_IWIN_LEN0 -/ ⟨0x108, 0x00000001, [⟨19, 0, .rw, [(1, 524288)]⟩]⟩,
  /- XLT_IWIN_CTL1 -/ ⟨0x110, 0x00000000, [⟨31, 31, .rw, []⟩, ⟨30, 30, .rw, []⟩, ⟨29, 29, .rw, []⟩, ⟨28, 28, .rw, []⟩, ⟨27, 25, .rw, []⟩, ⟨7, 4, .rw, []⟩, ⟨3, 0, .rw, []⟩]⟩,
  /- XLT_IWIN_BASE1 -/ ⟨0x114, 0x00000000, [⟨24, 0, .rw, []⟩]⟩,
  /- XLT_IWIN_LEN1 -/ ⟨0x118, 0x00000001, [⟨19, 0, .rw, [(1, 524288)]⟩]⟩,
  /- XLT_IWIN_CTL2 -/ ⟨0x120, 0x00000000, [⟨31, 31, .rw, []⟩, ⟨30, 30, .rw, []⟩, ⟨29, 29, .rw, []⟩, ⟨28, 28, .rw, []⟩, ⟨27, 25, .rw, []⟩, ⟨7, 4, .rw, []⟩, ⟨3, 0, .rw, []⟩]⟩,
  /- XLT_IWIN_BASE2 -/ ⟨0x124, 0x00000000, [⟨24, 0, .rw, []⟩]⟩,
  /- XLT_IWIN_LEN2 -/ ⟨0x128, 0x00000001, [⟨19, 0, .rw, [(1, 524288)]⟩]⟩,
  /- XLT_IWIN_CTL3 -/ ⟨0x130, 0x00000000, [⟨31, 31, .rw, []⟩, ⟨30, 30, .rw, []⟩, ⟨29, 29, .rw, []⟩, ⟨28, 28, .rw, []⟩, ⟨27, 25, .rw, []⟩, ⟨7, 4, .rw, []⟩, ⟨3, 0, .rw, []⟩]⟩,
  /- XLT_IWIN_BASE3 -/ ⟨0x134, 0x00000000, [⟨24, 0, .rw, []⟩]⟩,
  /- XLT_IWIN_LEN3 -/ ⟨0x138, 0x00000001, [⟨19, 0, .rw, [(1, 524288)]⟩]⟩,
  /- XLT_IWIN_CTL4 -/ ⟨0x140, 0x00000000, [⟨31, 31, .rw, []⟩, ⟨30, 30, .rw, []⟩, ⟨29, 29, .rw, []⟩, ⟨28, 28, .rw, []⟩, ⟨27, 25, .rw, []⟩, ⟨7, 4, .rw, []⟩, ⟨3, 0, .rw, []⟩]⟩,
  /- XLT_IWIN_BASE4 -/ ⟨0x144, 0x00000000, [⟨24, 0, .rw, []⟩]⟩,
  /- XLT_IWIN_LEN4 -/ ⟨0x148, 0x00000001, [⟨19, 0, .rw, [(1, 524288)]⟩]⟩,
  /- XLT_IWIN_CTL5 -/ ⟨0x150, 0x00000000, [⟨31, 31, .rw, []⟩, ⟨30, 30, .rw, []⟩, ⟨29, 29, .rw, []⟩, ⟨28, 28, .rw, []⟩, ⟨27, 25, .rw, []⟩, ⟨7, 4, .rw, []⟩, ⟨3, 0, .rw, []⟩]⟩,
  /- XLT_IWIN_BASE5 -/ ⟨0x154, 0x00000000, [⟨24, 0, .rw, []⟩]⟩,
  /- XLT_IWIN_LEN5 -/ ⟨0x158, 0x00000001, [⟨19, 0, .rw, [(1, 524288)]⟩]⟩,
  /- XLT_IWIN_CTL6 -/ ⟨0x160, 0x00000000, [⟨31, 31, .rw, []⟩, ⟨30, 30, .rw, []⟩, ⟨29, 29, .rw, []⟩, ⟨28, 28, .rw, []⟩, ⟨27, 25, .rw, []⟩, ⟨7, 4, .rw, []⟩, ⟨3, 0, .rw, []⟩]⟩,
  /- XLT_IWIN_BASE6 -/ ⟨0x164, 0x00000000, [⟨24, 0, .rw, []⟩]⟩]

/-- Registers of the xlt3 page, part 1. -/
def regsXlt31 : List Reg := [
  /- XLT_IWIN_LEN6 -/ ⟨0x168, 0x00000001, [⟨19, 0, .rw, [(1, 524288)]⟩]⟩,
  /- XLT_IWIN_CTL7 -/ ⟨0x170, 0x00000000, [⟨31, 31, .rw, []⟩, ⟨30, 30, .rw, []⟩, ⟨29, 29, .rw, []⟩, ⟨28, 28, .rw, []⟩, ⟨27, 25, .rw, []⟩, ⟨7, 4, .rw, []⟩, ⟨3, 0, .rw, []⟩]⟩,
  /- XLT_IWIN_BASE7 -/ ⟨0x174, 0x00000000, [⟨24, 0, .rw, []⟩]⟩,
  /- XLT_IWIN_LEN7 -/ ⟨0x178, 0x00000001, [⟨19, 0, .rw, [(1, 524288)]⟩]⟩,
  /- XLT_IWIN_CTL8 -/ ⟨0x180, 0x00000000, [⟨31, 31, .rw, []⟩, ⟨30, 30, .rw, []⟩, ⟨29, 29, .rw, []⟩, ⟨28, 28, .rw, []⟩, ⟨27, 25, .rw, []⟩, ⟨7, 4, .rw, []⟩, ⟨3, 0, .rw, []⟩]⟩,
  /- XLT_IWIN_BASE8 -/ ⟨0x184, 0x00000000, [⟨24, 0, .rw, []⟩]⟩,
  /- XLT_IWIN_LEN8 -/ ⟨0x188, 0x00000001, [⟨19, 0, .rw, [(1, 524288)]⟩]⟩,
  /- XLT_IWIN_CTL9 -/ ⟨0x190, 0x00000000, [⟨31, 31, .rw, []⟩, ⟨30, 30, .rw, []⟩, ⟨29, 29, .rw, []⟩, ⟨28, 28, .rw, []⟩, ⟨27, 25, .rw, []⟩, ⟨7, 4, .rw, []⟩, ⟨3, 0, .rw, []⟩]⟩,
  /- XLT_IWIN_BASE9 -/ ⟨0x194, 0x00000000, [⟨24, 0, .rw, []⟩]⟩,
  /- XLT_IWIN_LEN9 -/ ⟨0x198, 0x00000001, [⟨19, 0, .rw, [(1, 524288)]⟩]⟩,
  /- XLT_IWIN_CTL10 -/ ⟨0x1A0, 0x00000000, [⟨31, 31, .rw, []⟩, ⟨30, 30, .rw, []⟩, ⟨29, 29, .rw, []⟩, ⟨28, 28, .rw, []⟩, ⟨27, 25, .rw, []⟩, ⟨7, 4, .rw, []⟩, ⟨3, 0, .rw, []⟩]⟩,
  /- XLT_IWIN_BASE10 -/ ⟨0x1A4, 0x00000000, [⟨24, 0, .rw, []⟩]⟩,
  /- XLT_IWIN_LEN10 -/ ⟨0x1A8, 0x00000001, [⟨19, 0, .rw, [(1, 524288)]⟩]⟩,
  /- XLT_IWIN_CTL11 -/ ⟨0x1B0, 0x00000000, [⟨31, 31, .rw, []⟩, ⟨30, 30, .rw, []⟩, ⟨29, 29, .rw, []⟩, ⟨28, 28, .rw, []⟩, ⟨27, 25, .rw, []⟩, ⟨7, 4, .rw, []⟩, ⟨3, 0, .rw, []⟩]⟩,
  /- XLT_IWIN_BASE11 -/ ⟨0x1B4, 0x00000000, [⟨24, 0, .rw, []⟩]⟩,
  /- XLT_IWIN_LEN11 -/ ⟨0x1B8, 0x00000001, [⟨19, 0, .rw, [(1, 524288)]⟩]⟩,
  /- XLT_IWIN_CTL12 -/ ⟨0x1C0, 0x00000000, [⟨31, 31, .rw, []⟩, ⟨30, 30, .rw, []⟩, ⟨29, 29, .rw, []⟩, ⟨28, 28, .rw, []⟩, ⟨27, 25, .rw, []⟩, ⟨7, 4, .rw, []⟩, ⟨3, 0, .rw, []⟩]⟩,
  /- XLT_IWIN_BASE12 -/ ⟨0x1C4, 0x00000000, [⟨24, 0, .rw, []⟩]⟩,
  /- XLT_IWIN_LEN12 -/ ⟨0x1C8, 0x00000001, [⟨19, 0, .rw, [(1, 524288)]⟩]⟩,
  /- XLT_IWIN_CTL13 -/ ⟨0x1D0, 0x00000000, [⟨31, 31, .rw, []⟩, ⟨30, 30, .rw, []⟩, ⟨29, 29, .rw, []⟩, ⟨28, 28, .rw, []⟩, ⟨27, 25, .rw, []⟩, ⟨7, 4, .rw, []⟩, ⟨3, 0, .rw, []⟩]⟩]

/-- Registers of the xlt3 page, part 2. -/
def regsXlt32 : List Reg := [
  /- XLT_IWIN_BASE13 -/ ⟨0x1D4, 0x00000000, [⟨24, 0, .rw, []⟩]⟩,
  /- XLT_IWIN_LEN13 -/ ⟨0x1D8, 0x00000001, [⟨19, 0, .rw, [(1, 524288)]⟩]⟩,
  /- XLT_IWIN_CTL14 -/ ⟨0x1E0, 0x00000000, [⟨31, 31, .rw, []⟩, ⟨30, 30, .rw, []⟩, ⟨29, 29, .rw, []⟩, ⟨28, 28, .rw, []⟩, ⟨27, 25, .rw, []⟩, ⟨7, 4, .rw, []⟩, ⟨3, 0, .rw, []⟩]⟩,
  /- XLT_IWIN_BASE14 -/ ⟨0x1E4, 0x00000000, [⟨24, 0, .rw, []⟩]⟩,
  /- XLT_IWIN_LEN14 -/ ⟨0x1E8, 0x00000001, [⟨19, 0, .rw, [(1, 524288)]⟩]⟩,
  /- XLT_IWIN_CTL15 -/ ⟨0x1F0, 0x00000000, [⟨31, 31, .rw, []⟩, ⟨30, 30, .rw, []⟩, ⟨29, 29, .rw, []⟩, ⟨28, 28, .rw, []⟩, ⟨27, 25, .rw, []⟩, ⟨7, 4, .rw, []⟩, ⟨3, 0, .rw, []⟩]⟩,
  /- XLT_IWIN_BASE15 -/ ⟨0x1F4, 0x00000000, [⟨24, 0, .rw, []⟩]⟩,
  /- XLT_IWIN_LEN15 -/ ⟨0x1F8, 0x00000001, [⟨19, 0, .rw, [(1, 524288)]⟩]⟩]

/-- Registers of the xlt3 page. -/
def regsXlt3 : List Reg := regsXlt30 ++ regsXlt31 ++ regsXlt32

/-- Registers of the que page. -/
def regsQue : List Reg := [
  /- QUE_CFG -/ ⟨0x100, 0x00000000, [⟨31, 31, .rwt, []⟩, ⟨30, 28, .rwt, []⟩, ⟨27, 24, .rwt, [(0, 12)]⟩, ⟨11, 0, .rwt, []⟩]⟩,
  /- QUE_TAIL -/ ⟨0x104, 0x00000000, [⟨31, 0, .rw, []⟩]⟩,
  /- QUE_HEAD -/ ⟨0x108, 0x00000000, [⟨31, 0, .ro, []⟩]⟩,
  /- QUE_DONE -/ ⟨0x10C, 0x00000000, [⟨31, 0, .ro, []⟩]⟩,
  /- QUE_STAT -/ ⟨0x110, 0x00000000, [⟨31, 31, .ro, []⟩, ⟨30, 30, .ro, []⟩, ⟨29, 29, .ro, []⟩, ⟨15, 0, .ro, []⟩]⟩,
  /- QUE_FENCE_SEL -/ ⟨0x114, 0x00000000, [⟨15, 0, .rw, []⟩]⟩]

/-- Registers of the vi page. -/
def regsVi : List Reg := [
  /- VI_HCQ_GO -/ ⟨0x100, 0x00000000, [⟨0, 0, .sc, []⟩]⟩,
  /- VI_STAT -/ ⟨0x104, 0x00000064, [⟨31, 31, .ro, []⟩, ⟨30, 30, .ro, []⟩, ⟨29, 29, .ro, []⟩, ⟨28, 24, .ro, []⟩, ⟨15, 0, .ro, []⟩]⟩,
  /- VI_RST_BEATS -/ ⟨0x108, 0x00000000, [⟨31, 0, .ro, []⟩]⟩,
  /- VI_HCQ_CMD0 -/ ⟨0x200, 0x00000000, [⟨31, 0, .wo, []⟩]⟩,
  /- VI_HCQ_CMD1 -/ ⟨0x204, 0x00000000, [⟨31, 0, .wo, []⟩]⟩,
  /- VI_HCQ_CMD2 -/ ⟨0x208, 0x00000000, [⟨31, 0, .wo, []⟩]⟩,
  /- VI_HCQ_CMD3 -/ ⟨0x20C, 0x00000000, [⟨31, 0, .wo, []⟩]⟩,
  /- VI_HCQ_CMD4 -/ ⟨0x210, 0x00000000, [⟨31, 0, .wo, []⟩]⟩,
  /- VI_HCQ_CMD5 -/ ⟨0x214, 0x00000000, [⟨31, 0, .wo, []⟩]⟩,
  /- VI_HCQ_CMD6 -/ ⟨0x218, 0x00000000, [⟨31, 0, .wo, []⟩]⟩,
  /- VI_HCQ_CMD7 -/ ⟨0x21C, 0x00000000, [⟨31, 0, .wo, []⟩]⟩,
  /- VI_HCQ_CMD8 -/ ⟨0x220, 0x00000000, [⟨31, 0, .wo, []⟩]⟩,
  /- VI_HCQ_CMD9 -/ ⟨0x224, 0x00000000, [⟨31, 0, .wo, []⟩]⟩,
  /- VI_HCQ_CMD10 -/ ⟨0x228, 0x00000000, [⟨31, 0, .wo, []⟩]⟩,
  /- VI_HCQ_CMD11 -/ ⟨0x22C, 0x00000000, [⟨31, 0, .wo, []⟩]⟩,
  /- VI_HCQ_CMD12 -/ ⟨0x230, 0x00000000, [⟨31, 0, .wo, []⟩]⟩,
  /- VI_HCQ_CMD13 -/ ⟨0x234, 0x00000000, [⟨31, 0, .wo, []⟩]⟩,
  /- VI_HCQ_CMD14 -/ ⟨0x238, 0x00000000, [⟨31, 0, .wo, []⟩]⟩,
  /- VI_HCQ_CMD15 -/ ⟨0x23C, 0x00000000, [⟨31, 0, .wo, []⟩]⟩]

/-- Registers of the cad page, part 0. -/
def regsCad0 : List Reg := [
  /- CAD_CFG -/ ⟨0x100, 0x000003E8, [⟨15, 0, .rwt, [(1, 65535)]⟩]⟩,
  /- CAD_STAT -/ ⟨0x104, 0x00000000, [⟨31, 21, .ro, []⟩, ⟨20, 15, .ro, []⟩]⟩,
  /- CAD_PART_DEPTH -/ ⟨0x108, 0x00000000, [⟨23, 0, .rwt, []⟩]⟩,
  /- CAD_SRC_SEL -/ ⟨0x10C, 0x00000000, [⟨31, 31, .sc, []⟩, ⟨5, 0, .rw, [(0, 47)]⟩]⟩,
  /- CAD_SRC_CFG -/ ⟨0x110, 0x00000000, [⟨31, 29, .rwt, []⟩, ⟨28, 28, .rwt, []⟩, ⟨27, 27, .rwt, []⟩, ⟨23, 16, .rwt, []⟩, ⟨15, 0, .rwt, []⟩]⟩,
  /- CAD_SRC_STAT -/ ⟨0x114, 0x00000000, [⟨31, 30, .ro, []⟩, ⟨15, 8, .ro, []⟩, ⟨7, 0, .ro, []⟩]⟩,
  /- CAD_SOFT_LO -/ ⟨0x118, 0x00000000, [⟨31, 0, .rw, []⟩]⟩,
  /- CAD_SOFT_HI -/ ⟨0x11C, 0x00000000, [⟨31, 0, .rw, []⟩]⟩,
  /- CAD_TRG_SEL -/ ⟨0x120, 0x00000000, [⟨9, 0, .rw, []⟩]⟩,
  /- CAD_TRG_CTL -/ ⟨0x124, 0x00000000, [⟨31, 31, .rwt, []⟩, ⟨30, 28, .rwt, []⟩, ⟨27, 27, .rwt, []⟩, ⟨25, 20, .rwt, [(0, 47)]⟩]⟩,
  /- CAD_TRG_POS_LO -/ ⟨0x128, 0x00000000, [⟨31, 0, .rw, []⟩]⟩,
  /- CAD_TRG_POS_HI -/ ⟨0x12C, 0x00000000, [⟨31, 0, .rw, []⟩]⟩,
  /- CAD_TRG_INC -/ ⟨0x130, 0x00000000, [⟨31, 0, .rw, []⟩]⟩,
  /- CAD_TRG_ARG -/ ⟨0x134, 0x00000000, [⟨16, 0, .rw, []⟩]⟩,
  /- CAD_TRG_DLY -/ ⟨0x138, 0x00000000, [⟨31, 0, .rw, []⟩]⟩,
  /- CAD_TRG_TPL0 -/ ⟨0x140, 0x00000000, [⟨31, 0, .wo, []⟩]⟩,
  /- CAD_TRG_TPL1 -/ ⟨0x144, 0x00000000, [⟨31, 0, .wo, []⟩]⟩,
  /- CAD_TRG_TPL2 -/ ⟨0x148, 0x00000000, [⟨31, 0, .wo, []⟩]⟩,
  /- CAD_TRG_TPL3 -/ ⟨0x14C, 0x00000000, [⟨31, 0, .wo, []⟩]⟩,
  /- CAD_TRG_TPL4 -/ ⟨0x150, 0x00000000, [⟨31, 0, .wo, []⟩]⟩]

/-- Registers of the cad page, part 1. -/
def regsCad1 : List Reg := [
  /- CAD_TRG_TPL5 -/ ⟨0x154, 0x00000000, [⟨31, 0, .wo, []⟩]⟩,
  /- CAD_TRG_TPL6 -/ ⟨0x158, 0x00000000, [⟨31, 0, .wo, []⟩]⟩,
  /- CAD_TRG_TPL7 -/ ⟨0x15C, 0x00000000, [⟨31, 0, .wo, []⟩]⟩,
  /- CAD_TRG_TPL8 -/ ⟨0x160, 0x00000000, [⟨31, 0, .wo, []⟩]⟩,
  /- CAD_TRG_TPL9 -/ ⟨0x164, 0x00000000, [⟨31, 0, .wo, []⟩]⟩,
  /- CAD_TRG_TPL10 -/ ⟨0x168, 0x00000000, [⟨31, 0, .wo, []⟩]⟩,
  /- CAD_TRG_TPL11 -/ ⟨0x16C, 0x00000000, [⟨31, 0, .wo, []⟩]⟩,
  /- CAD_TRG_TPL12 -/ ⟨0x170, 0x00000000, [⟨31, 0, .wo, []⟩]⟩,
  /- CAD_TRG_TPL13 -/ ⟨0x174, 0x00000000, [⟨31, 0, .wo, []⟩]⟩,
  /- CAD_TRG_TPL14 -/ ⟨0x178, 0x00000000, [⟨31, 0, .wo, []⟩]⟩,
  /- CAD_TRG_TPL15 -/ ⟨0x17C, 0x00000000, [⟨31, 0, .wo, []⟩]⟩,
  /- CAD_MISS_INFO -/ ⟨0x180, 0x00000000, [⟨31, 31, .rc, []⟩, ⟨30, 30, .rc, []⟩, ⟨29, 20, .rc, []⟩, ⟨19, 10, .rc, []⟩, ⟨9, 9, .rc, []⟩, ⟨8, 8, .rc, []⟩, ⟨7, 7, .rc, []⟩]⟩,
  /- CAD_MISS_CNT -/ ⟨0x184, 0x00000000, [⟨31, 0, .ro, []⟩]⟩,
  /- CAD_LATE_CNT -/ ⟨0x188, 0x00000000, [⟨31, 0, .ro, []⟩]⟩]

/-- Registers of the cad page. -/
def regsCad : List Reg := regsCad0 ++ regsCad1

/-- Registers of the gfx page. -/
def regsGfx : List Reg := [
  /- GFX_CFG -/ ⟨0x100, 0x0000000A, [⟨7, 0, .rwt, [(1, 255)]⟩]⟩,
  /- GFX_STAT -/ ⟨0x104, 0x00000000, [⟨31, 30, .ro, []⟩, ⟨15, 0, .ro, []⟩]⟩,
  /- GFX_FLT_INFO -/ ⟨0x108, 0x00000000, [⟨31, 31, .rc, []⟩, ⟨30, 30, .rc, []⟩, ⟨29, 27, .rc, []⟩, ⟨26, 24, .rc, []⟩, ⟨15, 0, .rc, []⟩]⟩,
  /- GFX_CULL_CNT -/ ⟨0x10C, 0x00000000, [⟨31, 0, .ro, []⟩]⟩,
  /- GFX_PART_CNT -/ ⟨0x110, 0x00000000, [⟨31, 0, .ro, []⟩]⟩]

/-- Registers of the vioE page. -/
def regsVioE : List Reg := [
  /- VIO_CFG -/ ⟨0x100, 0x0000007F, [⟨31, 31, .rwt, []⟩, ⟨30, 30, .rwt, []⟩, ⟨29, 28, .rwt, [(0, 2)]⟩, ⟨27, 27, .rwt, []⟩, ⟨7, 0, .rwt, []⟩]⟩,
  /- VIO_STAT -/ ⟨0x104, 0x00000000, [⟨31, 31, .ro, []⟩, ⟨30, 30, .ro, []⟩]⟩,
  /- VIO_CH_SEL -/ ⟨0x108, 0x00000000, [⟨4, 0, .rw, []⟩]⟩,
  /- VIO_CH_CTL -/ ⟨0x10C, 0x00000000, [⟨31, 31, .rwt, []⟩, ⟨11, 0, .rwt, []⟩]⟩,
  /- VIO_CH_DESC_LO -/ ⟨0x110, 0x00000000, [⟨31, 0, .rw, []⟩]⟩,
  /- VIO_CH_DESC_HI -/ ⟨0x114, 0x00000000, [⟨15, 0, .rw, []⟩]⟩,
  /- VIO_CH_STAT -/ ⟨0x118, 0x00000000, [⟨31, 30, .ro, []⟩, ⟨15, 0, .ro, []⟩]⟩,
  /- VIO_DROP_CNT -/ ⟨0x11C, 0x00000000, [⟨31, 0, .ro, []⟩]⟩,
  /- VIO_FLT_INFO -/ ⟨0x120, 0x00000000, [⟨31, 31, .rc, []⟩, ⟨30, 30, .rc, []⟩, ⟨29, 27, .rc, []⟩, ⟨20, 16, .rc, []⟩, ⟨11, 0, .rc, []⟩]⟩]

/-- Registers of the vioC page. -/
def regsVioC : List Reg := [
  /- VIO_CFG -/ ⟨0x100, 0x00000000, [⟨31, 31, .rwt, []⟩, ⟨30, 29, .rwt, [(0, 2)]⟩]⟩,
  /- VIO_STAT -/ ⟨0x104, 0x00000000, [⟨31, 31, .ro, []⟩, ⟨30, 30, .ro, []⟩]⟩,
  /- VIO_CH_SEL -/ ⟨0x108, 0x00000000, [⟨4, 0, .rw, [(0, 15)]⟩]⟩,
  /- VIO_CH_CTL -/ ⟨0x10C, 0x00000000, [⟨31, 31, .rwt, []⟩, ⟨11, 0, .rwt, []⟩]⟩,
  /- VIO_CH_DESC_LO -/ ⟨0x110, 0x00000000, [⟨31, 0, .rw, []⟩]⟩,
  /- VIO_CH_DESC_HI -/ ⟨0x114, 0x00000000, [⟨15, 0, .rw, []⟩]⟩,
  /- VIO_CH_STAT -/ ⟨0x118, 0x00000000, [⟨31, 30, .ro, []⟩, ⟨15, 0, .ro, []⟩]⟩,
  /- VIO_DROP_CNT -/ ⟨0x11C, 0x00000000, [⟨31, 0, .ro, []⟩]⟩,
  /- VIO_FLT_INFO -/ ⟨0x120, 0x00000000, [⟨31, 31, .rc, []⟩, ⟨30, 30, .rc, []⟩, ⟨29, 27, .rc, []⟩, ⟨20, 16, .rc, []⟩, ⟨11, 0, .rc, []⟩]⟩]

/-- Registers of the vioT page. -/
def regsVioT : List Reg := [
  /- VIO_CFG -/ ⟨0x100, 0x00000000, [⟨31, 31, .rwt, []⟩, ⟨30, 30, .rwt, []⟩, ⟨29, 28, .rwt, [(0, 2)]⟩, ⟨27, 24, .rwt, []⟩]⟩,
  /- VIO_STAT -/ ⟨0x104, 0x00000000, [⟨31, 31, .ro, []⟩, ⟨30, 30, .ro, []⟩]⟩,
  /- VIO_CH_SEL -/ ⟨0x108, 0x00000000, [⟨4, 0, .rw, [(0, 1)]⟩]⟩,
  /- VIO_CH_CTL -/ ⟨0x10C, 0x00000000, [⟨31, 31, .rwt, []⟩, ⟨11, 0, .rwt, []⟩]⟩,
  /- VIO_CH_DESC_LO -/ ⟨0x110, 0x00000000, [⟨31, 0, .rw, []⟩]⟩,
  /- VIO_CH_DESC_HI -/ ⟨0x114, 0x00000000, [⟨15, 0, .rw, []⟩]⟩,
  /- VIO_CH_STAT -/ ⟨0x118, 0x00000000, [⟨31, 30, .ro, []⟩, ⟨15, 0, .ro, []⟩]⟩,
  /- VIO_DROP_CNT -/ ⟨0x11C, 0x00000000, [⟨31, 0, .ro, []⟩]⟩,
  /- VIO_FLT_INFO -/ ⟨0x120, 0x00000000, [⟨31, 31, .rc, []⟩, ⟨30, 30, .rc, []⟩, ⟨29, 27, .rc, []⟩, ⟨20, 16, .rc, []⟩, ⟨11, 0, .rc, []⟩]⟩]

/-- Registers of the cmp page. -/
def regsCmp : List Reg := [
  /- CMP_CFG -/ ⟨0x100, 0x00000000, [⟨31, 31, .rwt, []⟩, ⟨30, 30, .rwt, []⟩, ⟨29, 29, .rwt, []⟩, ⟨28, 27, .rwt, [(0, 2)]⟩, ⟨26, 25, .rwt, [(0, 2)]⟩, ⟨11, 0, .rwt, []⟩]⟩,
  /- CMP_HTIM -/ ⟨0x104, 0x00000000, [⟨31, 16, .rwt, []⟩, ⟨15, 0, .rwt, []⟩]⟩,
  /- CMP_VTIM -/ ⟨0x108, 0x00000000, [⟨31, 16, .rwt, []⟩, ⟨15, 0, .rwt, []⟩]⟩,
  /- CMP_PCLK -/ ⟨0x10C, 0x00000000, [⟨20, 0, .rwt, [(0, 1100000)]⟩]⟩,
  /- CMP_PTR_LO -/ ⟨0x110, 0x00000000, [⟨31, 0, .rw, []⟩]⟩,
  /- CMP_PTR_HI -/ ⟨0x114, 0x00000000, [⟨15, 0, .rw, []⟩]⟩,
  /- CMP_STAT -/ ⟨0x118, 0x00000000, [⟨31, 30, .ro, []⟩, ⟨29, 29, .ro, []⟩, ⟨28, 28, .ro, []⟩, ⟨27, 25, .ro, []⟩, ⟨24, 23, .ro, []⟩, ⟨15, 0, .ro, []⟩]⟩,
  /- CMP_REJ_CNT -/ ⟨0x11C, 0x00000000, [⟨31, 0, .ro, []⟩]⟩,
  /- CMP_UNDER_CNT -/ ⟨0x120, 0x00000000, [⟨31, 0, .ro, []⟩]⟩,
  /- CMP_FLT_INFO -/ ⟨0x124, 0x00000000, [⟨31, 31, .rc, []⟩, ⟨30, 30, .rc, []⟩, ⟨29, 27, .rc, []⟩, ⟨26, 24, .rc, []⟩, ⟨23, 23, .rc, []⟩, ⟨15, 0, .rc, []⟩]⟩]

/-- Registers of the cpr page. -/
def regsCpr : List Reg := [
  /- CPR_CFG -/ ⟨0x100, 0x00000002, [⟨7, 0, .rwt, [(1, 255)]⟩]⟩,
  /- CPR_RING_SEL -/ ⟨0x104, 0x00000000, [⟨1, 0, .rw, []⟩]⟩,
  /- CPR_RING_CTL -/ ⟨0x108, 0x00000000, [⟨31, 31, .rwt, []⟩, ⟨30, 27, .rwt, [(2, 12)]⟩, ⟨11, 0, .rwt, []⟩]⟩,
  /- CPR_RING_BASE_LO -/ ⟨0x10C, 0x00000000, [⟨31, 12, .rw, []⟩]⟩,
  /- CPR_RING_BASE_HI -/ ⟨0x110, 0x00000000, [⟨15, 0, .rw, []⟩]⟩,
  /- CPR_STAT -/ ⟨0x114, 0x00000000, [⟨31, 31, .ro, []⟩, ⟨30, 29, .ro, []⟩, ⟨28, 25, .ro, []⟩]⟩,
  /- CPR_DONE_CNT -/ ⟨0x118, 0x00000000, [⟨31, 0, .ro, []⟩]⟩,
  /- CPR_FLT_INFO -/ ⟨0x11C, 0x00000000, [⟨31, 31, .rc, []⟩, ⟨30, 30, .rc, []⟩, ⟨29, 27, .rc, []⟩, ⟨26, 25, .rc, []⟩, ⟨11, 0, .rc, []⟩]⟩]

/-- Registers of the spk page. -/
def regsSpk : List Reg := [
  /- SPK_CFG -/ ⟨0x100, 0x00000032, [⟨31, 31, .rwt, []⟩, ⟨30, 29, .rwt, [(0, 2)]⟩, ⟨28, 28, .rwt, []⟩, ⟨27, 27, .sc, []⟩, ⟨15, 0, .rwt, [(1, 65535)]⟩]⟩,
  /- SPK_STAT -/ ⟨0x104, 0x00000000, [⟨31, 29, .ro, []⟩, ⟨28, 27, .ro, []⟩, ⟨23, 20, .ro, []⟩]⟩,
  /- SPK_REPLAY_CNT -/ ⟨0x108, 0x00000000, [⟨31, 0, .ro, []⟩]⟩,
  /- SPK_AUTH_CNT -/ ⟨0x10C, 0x00000000, [⟨31, 0, .ro, []⟩]⟩,
  /- SPK_TMO_CNT -/ ⟨0x110, 0x00000000, [⟨31, 0, .ro, []⟩]⟩,
  /- SPK_FLT_INFO -/ ⟨0x114, 0x00000000, [⟨31, 31, .rc, []⟩, ⟨30, 30, .rc, []⟩, ⟨29, 27, .rc, []⟩, ⟨26, 23, .rc, []⟩, ⟨22, 21, .rc, []⟩]⟩,
  /- SPK_GRP -/ ⟨0x180, 0x00000000, [⟨3, 0, .rwt, []⟩]⟩,
  /- SPK_ROUTE_LO -/ ⟨0x184, 0xFFFFFFFF, [⟨31, 28, .rwt, [(0, 7), (15, 15)]⟩, ⟨27, 24, .rwt, [(0, 7), (15, 15)]⟩, ⟨23, 20, .rwt, [(0, 7), (15, 15)]⟩, ⟨19, 16, .rwt, [(0, 7), (15, 15)]⟩, ⟨15, 12, .rwt, [(0, 7), (15, 15)]⟩, ⟨11, 8, .rwt, [(0, 7), (15, 15)]⟩, ⟨7, 4, .rwt, [(0, 7), (15, 15)]⟩, ⟨3, 0, .rwt, [(0, 7), (15, 15)]⟩]⟩,
  /- SPK_ROUTE_HI -/ ⟨0x188, 0xFFFFFFFF, [⟨31, 28, .rwt, [(0, 7), (15, 15)]⟩, ⟨27, 24, .rwt, [(0, 7), (15, 15)]⟩, ⟨23, 20, .rwt, [(0, 7), (15, 15)]⟩, ⟨19, 16, .rwt, [(0, 7), (15, 15)]⟩, ⟨15, 12, .rwt, [(0, 7), (15, 15)]⟩, ⟨11, 8, .rwt, [(0, 7), (15, 15)]⟩, ⟨7, 4, .rwt, [(0, 7), (15, 15)]⟩, ⟨3, 0, .rwt, [(0, 7), (15, 15)]⟩]⟩]

/-- Registers of the pwr page. -/
def regsPwr : List Reg := [
  /- PWR_CFG -/ ⟨0x100, 0x00000100, [⟨15, 8, .rwt, [(1, 255)]⟩, ⟨5, 4, .rwt, [(0, 2)]⟩, ⟨1, 0, .rwt, [(0, 2)]⟩]⟩,
  /- PWR_STAT -/ ⟨0x104, 0x00000000, [⟨31, 31, .ro, []⟩, ⟨30, 30, .ro, []⟩]⟩,
  /- PWR_DOM_SEL -/ ⟨0x108, 0x00000000, [⟨7, 0, .rw, []⟩]⟩,
  /- PWR_DOM_CTL -/ ⟨0x10C, 0x00000000, [⟨31, 31, .sc, []⟩, ⟨30, 28, .rwt, []⟩, ⟨25, 24, .rwt, []⟩, ⟨23, 23, .rwt, []⟩]⟩,
  /- PWR_DOM_STAT -/ ⟨0x110, 0x00000000, [⟨31, 29, .ro, []⟩, ⟨28, 28, .ro, []⟩, ⟨27, 26, .ro, []⟩, ⟨15, 8, .ro, []⟩, ⟨7, 0, .ro, []⟩]⟩,
  /- PWR_REFUSE_INFO -/ ⟨0x114, 0x00000000, [⟨31, 31, .rc, []⟩, ⟨30, 30, .rc, []⟩, ⟨29, 29, .rc, []⟩, ⟨28, 24, .rc, []⟩, ⟨23, 16, .rc, []⟩]⟩,
  /- PWR_VR_CFG -/ ⟨0x118, 0x00001904, [⟨15, 8, .rwt, [(10, 100)]⟩, ⟨7, 0, .rwt, [(1, 255)]⟩]⟩,
  /- PWR_VR_STAT -/ ⟨0x11C, 0x00000000, [⟨31, 31, .ro, []⟩, ⟨30, 30, .ro, []⟩, ⟨25, 16, .ro, []⟩, ⟨9, 0, .ro, []⟩]⟩,
  /- PWR_VR_SUP_CNT -/ ⟨0x120, 0x00000000, [⟨31, 0, .ro, []⟩]⟩,
  /- PWR_REPLAY_CNT -/ ⟨0x124, 0x00000000, [⟨31, 0, .ro, []⟩]⟩,
  /- PWR_DEV_CTL -/ ⟨0x128, 0x00000001, [⟨31, 31, .sc, []⟩, ⟨2, 0, .rwt, []⟩]⟩,
  /- PWR_TIMER -/ ⟨0x12C, 0x00000000, [⟨31, 0, .rw, []⟩]⟩]

/-- Registers of the rel page. -/
def regsRel : List Reg := [
  /- REL_CFG -/ ⟨0x100, 0x080A1801, [⟨31, 31, .rwt, []⟩, ⟨27, 24, .rwt, [(1, 15)]⟩, ⟨23, 16, .rwt, [(1, 255)]⟩, ⟨12, 8, .rwt, [(1, 32)]⟩, ⟨7, 0, .rwt, [(1, 255)]⟩]⟩,
  /- REL_HEALTH -/ ⟨0x104, 0xC0000000, [⟨31, 30, .rwt, []⟩, ⟨29, 29, .rwt, []⟩, ⟨28, 28, .rwt, []⟩, ⟨27, 27, .rwt, []⟩, ⟨26, 26, .rwt, []⟩, ⟨22, 20, .rwt, [(0, 4)]⟩, ⟨19, 17, .rwt, [(0, 4)]⟩, ⟨5, 0, .rwt, [(0, 32)]⟩]⟩,
  /- REL_MAP_SEL -/ ⟨0x108, 0x00000000, [⟨4, 0, .rw, []⟩]⟩,
  /- REL_MAP -/ ⟨0x10C, 0x00000000, [⟨5, 0, .rwt, [(0, 35), (63, 63)]⟩]⟩,
  /- REL_CORE_SEL -/ ⟨0x110, 0x00000000, [⟨5, 0, .rw, [(0, 35)]⟩]⟩,
  /- REL_CORE_STAT -/ ⟨0x114, 0x00000000, [⟨31, 30, .rwt, []⟩, ⟨29, 28, .rwt, [(0, 1)]⟩, ⟨27, 26, .rwt, []⟩, ⟨5, 0, .rwt, [(0, 32)]⟩]⟩,
  /- REL_BIST_INFO -/ ⟨0x118, 0x00000000, [⟨31, 31, .rc, []⟩, ⟨30, 30, .rc, []⟩, ⟨29, 24, .rc, []⟩, ⟨23, 22, .rc, []⟩, ⟨21, 18, .rc, []⟩, ⟨17, 10, .rc, []⟩]⟩,
  /- REL_PAIR_STAT -/ ⟨0x11C, 0x80808080, [⟨31, 0, .ro, []⟩]⟩,
  /- REL_SUB_CNT -/ ⟨0x120, 0x00000000, [⟨31, 0, .ro, []⟩]⟩,
  /- REL_ROT_CNT -/ ⟨0x124, 0x00000000, [⟨31, 0, .ro, []⟩]⟩,
  /- REL_JRN_SEL -/ ⟨0x128, 0x00000000, [⟨12, 12, .rw, []⟩, ⟨11, 0, .rw, []⟩]⟩,
  /- REL_JRN_STAT -/ ⟨0x12C, 0x00000000, [⟨31, 0, .ro, []⟩]⟩,
  /- REL_HS_STAT -/ ⟨0x130, 0x00000000, [⟨31, 0, .ro, []⟩]⟩]

/-- Registers of the boot page. -/
def regsBoot : List Reg := [
  /- BOOT_CAUSE -/ ⟨0x100, 0x00000000, [⟨31, 0, .ro, []⟩]⟩,
  /- BOOT_STAT -/ ⟨0x104, 0x00000000, [⟨31, 31, .ro, []⟩, ⟨30, 30, .ro, []⟩, ⟨29, 29, .ro, []⟩, ⟨28, 28, .ro, []⟩, ⟨27, 27, .ro, []⟩, ⟨26, 25, .ro, []⟩, ⟨24, 22, .ro, []⟩, ⟨21, 20, .ro, []⟩]⟩,
  /- BOOT_SVN -/ ⟨0x108, 0x00000000, [⟨31, 0, .ro, []⟩]⟩]

/-- Registers of the sec page, part 0. -/
def regsSec0 : List Reg := [
  /- SEC_LIFE -/ ⟨0x100, 0x00000000, [⟨31, 0, .ro, []⟩]⟩,
  /- SEC_DBG_CTL -/ ⟨0x104, 0x00000000, [⟨31, 31, .sc, []⟩, ⟨30, 30, .sc, []⟩, ⟨29, 28, .rw, []⟩, ⟨7, 0, .rw, []⟩]⟩,
  /- SEC_DBG_STAT -/ ⟨0x108, 0x00000000, [⟨31, 0, .ro, []⟩]⟩,
  /- SEC_RNG_STAT -/ ⟨0x10C, 0x00000000, [⟨31, 0, .ro, []⟩]⟩,
  /- SEC_GLITCH_CNT -/ ⟨0x110, 0x00000000, [⟨31, 0, .ro, []⟩]⟩,
  /- SEC_DBG_RESP0 -/ ⟨0x200, 0x00000000, [⟨31, 0, .wo, []⟩]⟩,
  /- SEC_DBG_RESP1 -/ ⟨0x204, 0x00000000, [⟨31, 0, .wo, []⟩]⟩,
  /- SEC_DBG_RESP2 -/ ⟨0x208, 0x00000000, [⟨31, 0, .wo, []⟩]⟩,
  /- SEC_DBG_RESP3 -/ ⟨0x20C, 0x00000000, [⟨31, 0, .wo, []⟩]⟩,
  /- SEC_DBG_RESP4 -/ ⟨0x210, 0x00000000, [⟨31, 0, .wo, []⟩]⟩,
  /- SEC_DBG_RESP5 -/ ⟨0x214, 0x00000000, [⟨31, 0, .wo, []⟩]⟩,
  /- SEC_DBG_RESP6 -/ ⟨0x218, 0x00000000, [⟨31, 0, .wo, []⟩]⟩,
  /- SEC_DBG_RESP7 -/ ⟨0x21C, 0x00000000, [⟨31, 0, .wo, []⟩]⟩,
  /- SEC_DBG_RESP8 -/ ⟨0x220, 0x00000000, [⟨31, 0, .wo, []⟩]⟩,
  /- SEC_DBG_RESP9 -/ ⟨0x224, 0x00000000, [⟨31, 0, .wo, []⟩]⟩,
  /- SEC_DBG_RESP10 -/ ⟨0x228, 0x00000000, [⟨31, 0, .wo, []⟩]⟩,
  /- SEC_DBG_RESP11 -/ ⟨0x22C, 0x00000000, [⟨31, 0, .wo, []⟩]⟩,
  /- SEC_DBG_RESP12 -/ ⟨0x230, 0x00000000, [⟨31, 0, .wo, []⟩]⟩,
  /- SEC_DBG_RESP13 -/ ⟨0x234, 0x00000000, [⟨31, 0, .wo, []⟩]⟩,
  /- SEC_DBG_RESP14 -/ ⟨0x238, 0x00000000, [⟨31, 0, .wo, []⟩]⟩]

/-- Registers of the sec page, part 1. -/
def regsSec1 : List Reg := [
  /- SEC_DBG_RESP15 -/ ⟨0x23C, 0x00000000, [⟨31, 0, .wo, []⟩]⟩,
  /- SEC_DBG_RESP16 -/ ⟨0x240, 0x00000000, [⟨31, 0, .wo, []⟩]⟩,
  /- SEC_DBG_RESP17 -/ ⟨0x244, 0x00000000, [⟨31, 0, .wo, []⟩]⟩,
  /- SEC_DBG_RESP18 -/ ⟨0x248, 0x00000000, [⟨31, 0, .wo, []⟩]⟩,
  /- SEC_DBG_RESP19 -/ ⟨0x24C, 0x00000000, [⟨31, 0, .wo, []⟩]⟩,
  /- SEC_DBG_RESP20 -/ ⟨0x250, 0x00000000, [⟨31, 0, .wo, []⟩]⟩,
  /- SEC_DBG_RESP21 -/ ⟨0x254, 0x00000000, [⟨31, 0, .wo, []⟩]⟩,
  /- SEC_DBG_RESP22 -/ ⟨0x258, 0x00000000, [⟨31, 0, .wo, []⟩]⟩,
  /- SEC_DBG_RESP23 -/ ⟨0x25C, 0x00000000, [⟨31, 0, .wo, []⟩]⟩,
  /- SEC_DBG_RESP24 -/ ⟨0x260, 0x00000000, [⟨31, 0, .wo, []⟩]⟩,
  /- SEC_DBG_RESP25 -/ ⟨0x264, 0x00000000, [⟨31, 0, .wo, []⟩]⟩,
  /- SEC_DBG_RESP26 -/ ⟨0x268, 0x00000000, [⟨31, 0, .wo, []⟩]⟩,
  /- SEC_DBG_RESP27 -/ ⟨0x26C, 0x00000000, [⟨31, 0, .wo, []⟩]⟩,
  /- SEC_DBG_RESP28 -/ ⟨0x270, 0x00000000, [⟨31, 0, .wo, []⟩]⟩,
  /- SEC_DBG_RESP29 -/ ⟨0x274, 0x00000000, [⟨31, 0, .wo, []⟩]⟩,
  /- SEC_DBG_RESP30 -/ ⟨0x278, 0x00000000, [⟨31, 0, .wo, []⟩]⟩,
  /- SEC_DBG_RESP31 -/ ⟨0x27C, 0x00000000, [⟨31, 0, .wo, []⟩]⟩,
  /- SEC_DBG_RESP32 -/ ⟨0x280, 0x00000000, [⟨31, 0, .wo, []⟩]⟩,
  /- SEC_DBG_RESP33 -/ ⟨0x284, 0x00000000, [⟨31, 0, .wo, []⟩]⟩,
  /- SEC_DBG_RESP34 -/ ⟨0x288, 0x00000000, [⟨31, 0, .wo, []⟩]⟩]

/-- Registers of the sec page, part 2. -/
def regsSec2 : List Reg := [
  /- SEC_DBG_RESP35 -/ ⟨0x28C, 0x00000000, [⟨31, 0, .wo, []⟩]⟩,
  /- SEC_DBG_RESP36 -/ ⟨0x290, 0x00000000, [⟨31, 0, .wo, []⟩]⟩,
  /- SEC_DBG_RESP37 -/ ⟨0x294, 0x00000000, [⟨31, 0, .wo, []⟩]⟩,
  /- SEC_DBG_RESP38 -/ ⟨0x298, 0x00000000, [⟨31, 0, .wo, []⟩]⟩,
  /- SEC_DBG_RESP39 -/ ⟨0x29C, 0x00000000, [⟨31, 0, .wo, []⟩]⟩,
  /- SEC_DBG_RESP40 -/ ⟨0x2A0, 0x00000000, [⟨31, 0, .wo, []⟩]⟩,
  /- SEC_DBG_RESP41 -/ ⟨0x2A4, 0x00000000, [⟨31, 0, .wo, []⟩]⟩,
  /- SEC_DBG_RESP42 -/ ⟨0x2A8, 0x00000000, [⟨31, 0, .wo, []⟩]⟩,
  /- SEC_DBG_RESP43 -/ ⟨0x2AC, 0x00000000, [⟨31, 0, .wo, []⟩]⟩,
  /- SEC_DBG_RESP44 -/ ⟨0x2B0, 0x00000000, [⟨31, 0, .wo, []⟩]⟩,
  /- SEC_DBG_RESP45 -/ ⟨0x2B4, 0x00000000, [⟨31, 0, .wo, []⟩]⟩,
  /- SEC_DBG_RESP46 -/ ⟨0x2B8, 0x00000000, [⟨31, 0, .wo, []⟩]⟩,
  /- SEC_DBG_RESP47 -/ ⟨0x2BC, 0x00000000, [⟨31, 0, .wo, []⟩]⟩,
  /- SEC_DBG_RESP48 -/ ⟨0x2C0, 0x00000000, [⟨31, 0, .wo, []⟩]⟩,
  /- SEC_DBG_RESP49 -/ ⟨0x2C4, 0x00000000, [⟨31, 0, .wo, []⟩]⟩,
  /- SEC_DBG_RESP50 -/ ⟨0x2C8, 0x00000000, [⟨31, 0, .wo, []⟩]⟩,
  /- SEC_DBG_RESP51 -/ ⟨0x2CC, 0x00000000, [⟨31, 0, .wo, []⟩]⟩,
  /- SEC_DBG_RESP52 -/ ⟨0x2D0, 0x00000000, [⟨31, 0, .wo, []⟩]⟩,
  /- SEC_DBG_RESP53 -/ ⟨0x2D4, 0x00000000, [⟨31, 0, .wo, []⟩]⟩,
  /- SEC_DBG_RESP54 -/ ⟨0x2D8, 0x00000000, [⟨31, 0, .wo, []⟩]⟩]

/-- Registers of the sec page, part 3. -/
def regsSec3 : List Reg := [
  /- SEC_DBG_RESP55 -/ ⟨0x2DC, 0x00000000, [⟨31, 0, .wo, []⟩]⟩,
  /- SEC_DBG_RESP56 -/ ⟨0x2E0, 0x00000000, [⟨31, 0, .wo, []⟩]⟩,
  /- SEC_DBG_RESP57 -/ ⟨0x2E4, 0x00000000, [⟨31, 0, .wo, []⟩]⟩,
  /- SEC_DBG_RESP58 -/ ⟨0x2E8, 0x00000000, [⟨31, 0, .wo, []⟩]⟩,
  /- SEC_DBG_RESP59 -/ ⟨0x2EC, 0x00000000, [⟨31, 0, .wo, []⟩]⟩,
  /- SEC_DBG_RESP60 -/ ⟨0x2F0, 0x00000000, [⟨31, 0, .wo, []⟩]⟩,
  /- SEC_DBG_RESP61 -/ ⟨0x2F4, 0x00000000, [⟨31, 0, .wo, []⟩]⟩,
  /- SEC_DBG_RESP62 -/ ⟨0x2F8, 0x00000000, [⟨31, 0, .wo, []⟩]⟩,
  /- SEC_DBG_RESP63 -/ ⟨0x2FC, 0x00000000, [⟨31, 0, .wo, []⟩]⟩]

/-- Registers of the sec page. -/
def regsSec : List Reg := regsSec0 ++ regsSec1 ++ regsSec2 ++ regsSec3

/-- Registers of the hub page. -/
def regsHub : List Reg := [
  /- HUB_CTL -/ ⟨0x100, 0x80000000, [⟨31, 31, .rwt, []⟩, ⟨30, 30, .sc, []⟩]⟩,
  /- HUB_STAT -/ ⟨0x104, 0x00000000, [⟨31, 29, .ro, []⟩, ⟨28, 28, .ro, []⟩]⟩,
  /- HUB_HB -/ ⟨0x108, 0x00000000, [⟨31, 0, .ro, []⟩]⟩,
  /- HUB_INJ_CNT -/ ⟨0x10C, 0x00000000, [⟨31, 0, .ro, []⟩]⟩]

/-- Registers of the dev page. -/
def regsDev : List Reg := [
  /- DEV_INFO -/ ⟨0x100, 0x9036A000, [⟨31, 0, .ro, []⟩]⟩,
  /- DEV_CAP -/ ⟨0x104, 0x24203000, [⟨31, 0, .ro, []⟩]⟩,
  /- DEV_TEMP -/ ⟨0x108, 0x00000000, [⟨13, 8, .ro, []⟩, ⟨7, 0, .ro, []⟩]⟩,
  /- DEV_ACC_INFO -/ ⟨0x10C, 0x00000000, [⟨31, 31, .rc, []⟩, ⟨30, 30, .rc, []⟩, ⟨29, 28, .rc, []⟩, ⟨27, 26, .rc, []⟩, ⟨25, 20, .rc, []⟩, ⟨13, 0, .rc, []⟩]⟩,
  /- DEV_ACC_CNT -/ ⟨0x110, 0x00000000, [⟨31, 0, .ro, []⟩]⟩]

/-- Registers of the hif0 page. -/
def regsHif0 : List Reg := [
  /- HIF_LINK_STAT -/ ⟨0x100, 0x00000000, [⟨31, 31, .ro, []⟩, ⟨30, 28, .ro, []⟩, ⟨27, 23, .ro, []⟩, ⟨22, 20, .ro, []⟩]⟩,
  /- HIF_CE_CNT -/ ⟨0x104, 0x00000000, [⟨31, 0, .ro, []⟩]⟩,
  /- HIF_UE_CNT -/ ⟨0x108, 0x00000000, [⟨31, 0, .ro, []⟩]⟩,
  /- HIF_FLT_INFO -/ ⟨0x10C, 0x00000000, [⟨31, 31, .rc, []⟩, ⟨30, 30, .rc, []⟩, ⟨29, 27, .rc, []⟩, ⟨26, 21, .rc, []⟩]⟩]

/-- Registers of the hif1 page. -/
def regsHif1 : List Reg := [
  /- HIF_VF_STAT -/ ⟨0x100, 0x00000000, [⟨31, 31, .ro, []⟩, ⟨29, 24, .ro, []⟩]⟩,
  /- HIF_FLR_CNT -/ ⟨0x104, 0x00000000, [⟨31, 0, .ro, []⟩]⟩]

/-- Registers of the pmc page. -/
def regsPmc : List Reg := [
  /- PMC_CFG -/ ⟨0x100, 0x00000000, [⟨31, 31, .rw, []⟩, ⟨30, 30, .sc, []⟩, ⟨29, 29, .rw, []⟩, ⟨28, 28, .rw, []⟩, ⟨27, 27, .rw, []⟩]⟩,
  /- PMC_STAT -/ ⟨0x104, 0x00000000, [⟨31, 0, .ro, []⟩]⟩,
  /- PMC_CNT_SEL -/ ⟨0x108, 0x00000000, [⟨5, 0, .rw, []⟩]⟩,
  /- PMC_EVSEL -/ ⟨0x10C, 0x00000000, [⟨31, 31, .rw, []⟩, ⟨30, 30, .rw, []⟩, ⟨29, 29, .rw, []⟩, ⟨27, 24, .rw, []⟩, ⟨21, 16, .rw, []⟩, ⟨7, 0, .rw, []⟩]⟩,
  /- PMC_PRESET_LO -/ ⟨0x110, 0x00000000, [⟨31, 0, .rw, []⟩]⟩,
  /- PMC_PRESET_HI -/ ⟨0x114, 0x00000000, [⟨15, 0, .rw, []⟩]⟩,
  /- PMC_CMD -/ ⟨0x118, 0x00000000, [⟨31, 31, .sc, []⟩, ⟨30, 30, .sc, []⟩]⟩,
  /- PMC_OVF_LO -/ ⟨0x11C, 0x00000000, [⟨31, 0, .rc, []⟩]⟩,
  /- PMC_OVF_HI -/ ⟨0x120, 0x00000000, [⟨31, 0, .rc, []⟩]⟩,
  /- PMC_FOVF -/ ⟨0x124, 0x00000000, [⟨31, 0, .rc, []⟩]⟩]

/-- Registers of the head page. -/
def regsHead : List Reg := [
  /- ID -/ ⟨0x000, 0x00000000, [⟨31, 16, .ro, []⟩, ⟨15, 8, .ro, []⟩, ⟨7, 0, .ro, []⟩]⟩,
  /- CTL -/ ⟨0x004, 0x00000000, [⟨31, 31, .rw, []⟩]⟩,
  /- STAT -/ ⟨0x008, 0x00000000, [⟨31, 31, .rc, []⟩, ⟨30, 30, .rc, []⟩]⟩,
  /- IRQ_EN -/ ⟨0x00C, 0x00000000, [⟨31, 0, .rw, []⟩]⟩,
  /- IRQ_STAT -/ ⟨0x010, 0x00000000, [⟨31, 0, .rc, []⟩]⟩,
  /- ERR_CNT -/ ⟨0x014, 0x00000000, [⟨15, 0, .ro, []⟩]⟩,
  /- MBX_CTL -/ ⟨0x018, 0x00000000, [⟨31, 31, .sc, []⟩, ⟨7, 0, .rw, []⟩]⟩,
  /- MBX_STAT -/ ⟨0x01C, 0x00000000, [⟨31, 31, .ro, []⟩, ⟨30, 30, .ro, []⟩, ⟨19, 16, .ro, []⟩, ⟨7, 0, .ro, []⟩]⟩,
  /- MBX_DATA0 -/ ⟨0x020, 0x00000000, [⟨31, 0, .ro, []⟩]⟩,
  /- MBX_DATA1 -/ ⟨0x024, 0x00000000, [⟨31, 0, .ro, []⟩]⟩,
  /- MBX_DATA2 -/ ⟨0x028, 0x00000000, [⟨31, 0, .ro, []⟩]⟩,
  /- MBX_DATA3 -/ ⟨0x02C, 0x00000000, [⟨31, 0, .ro, []⟩]⟩,
  /- MBX_DATA4 -/ ⟨0x030, 0x00000000, [⟨31, 0, .ro, []⟩]⟩,
  /- MBX_DATA5 -/ ⟨0x034, 0x00000000, [⟨31, 0, .ro, []⟩]⟩,
  /- MBX_DATA6 -/ ⟨0x038, 0x00000000, [⟨31, 0, .ro, []⟩]⟩,
  /- MBX_DATA7 -/ ⟨0x03C, 0x00000000, [⟨31, 0, .ro, []⟩]⟩,
  /- TMR_STAT -/ ⟨0x040, 0x00000000, [⟨31, 31, .rc, []⟩, ⟨23, 16, .rc, []⟩, ⟨15, 0, .rc, []⟩]⟩]

/-- The block registers of a kind of page. -/
def regsOf : PageKind → List Reg
  | .dev => regsDev | .boot => regsBoot | .sec => regsSec | .pwr => regsPwr | .rel => regsRel
  | .cad => regsCad | .pmc => regsPmc | .hub => regsHub | .mem => regsMem | .syc => regsSyc
  | .xlt0 => regsXlt0 | .xlt1 => regsXlt1 | .xlt2 => regsXlt2 | .xlt3 => regsXlt3
  | .core => regsCore | .mxa => regsMxa | .str => regsStr | .gfx => regsGfx
  | .hif0 => regsHif0 | .hif1 => regsHif1 | .hif2 => [] | .spk => regsSpk
  | .vioE => regsVioE | .vioC => regsVioC | .vioT => regsVioT | .cmp => regsCmp | .cpr => regsCpr
  | .que => regsQue | .vi => regsVi | .none => []

/-- The row of the register at an offset of a page: the page head (Table 19-3) or a block register. SPK_GRP and the routes exist on
page 0x0210 only (R428). A state that a power domain does not have is refused by the domain itself (Table 16-10). -/
def regRow (page off : Nat) : Option Reg :=
  if pageKind page = .none then none
  else if pageKind page = .spk ∧ page ≠ 0x210 ∧ 0x180 ≤ off then none
  else if off < 0x100 then regsHead.find? (fun r => r.off == off)
  else (regsOf (pageKind page)).find? (fun r => r.off == off)

/-- The reset value of the register at an offset of a page (R8); 0 where no register lies. -/
def resetOf (page off : Nat) : W32 :=
  if off = 0 then BitVec.ofNat 32 (pageId page)
  else match regRow page off with
    | some r => BitVec.ofNat 32 r.reset
    | none => 0

end Sys2Proof.Machine
end

