-- ==== Sys2Proof/Machine/State.lean ====
section
/-! DEFINITION. The state of the CZ-9036 as plain data, the reasons a step can stop, and the state after reset.

Tables are sparse (`Tbl`): an unlisted key reads as the table's default, which each field's docstring names.
The 32-bit registers of the register space are one table, `regs`, keyed by page x 0x1000 + offset; a register
that is not listed reads as the reset value of its row in the spec's register tables (RegMap.lean).
Docstrings cite the rule of spec/ that gives the machine the piece of state. -/
namespace Sys2Proof.Machine

/-- Why a step stops with a fault.
`absentUnit`: raised by the meanings of commands whose operand names a unit the device does not have (a core
above 35, a link above 7, a channel above 31); no such command exists on the device, so stopping is safe. -/
inductive Fault where
  | absentUnit
deriving DecidableEq, Repr

/-- Why a step is refused.
`notModelled`: raised only by an arm of exec that has no meaning yet; safe, nothing is claimed. -/
inductive Refusal where
  | notModelled (mnemonic : String)
deriving DecidableEq, Repr

/-- A load or window atomic that waits (R84, R264, R423): the instruction, its participating threads, the physical address of
each thread's access, what is still to come (line addresses in HBM, access addresses behind a window), and the bytes that
have come, by physical address. -/
structure PendLoad where
  scalar : Bool
  atomic : Bool
  w : InsnWord
  pc : W64
  lanes : Mask
  addrs : Tbl Nat
  missing : List Nat
  got : Tbl Byte
deriving DecidableEq, Repr

/-- Permissions that an access needs: R, W, X, or R and W (Table 09-2). -/
inductive Perm where
  | r
  | w
  | x
  | rw
deriving DecidableEq, Repr

/-- Why a group issues nothing (R73 item 3, R84, R152, R101). -/
inductive Block where
  | none
  /-- an instruction-cache miss on the line of this virtual address (R152) -/
  | fetch (va : W64)
  /-- a translation miss: the virtual address, and the permission needed (R261) -/
  | walk (va : W64) (perm : Perm)
  /-- a near-cache miss, or accesses behind a window that wait for their answers (R84, R264, R423) -/
  | load (l : PendLoad)
  /-- a release that waits for the acknowledgement of the merging-buffer entries of these serial numbers, and of the Spoke
  writes of these tags (R93) -/
  | release (pending : List Nat) (tags : List Nat)
  /-- BAR (R183) -/
  | barrier (bid : Nat)
  /-- STRW on engine `eng`, sequence number `seq`; status to s[rd] (R180) -/
  | strw (eng : Nat) (seq : W32) (rd : BitVec 7)
  /-- CWAIT on source `src` for position `pos` (R181) -/
  | cwait (src : Nat) (pos : W64) (rd : BitVec 7)
  /-- SEMA on semaphore `n` (R184) -/
  | sema (n : Nat) (rd : BitVec 7)
  /-- FWAIT on slot `slot` for `val`, at the scope's DEVICE or SYSTEM (R187) -/
  | fwait (slot : Nat) (val : W64) (rd : BitVec 7)
  /-- FSIG on a proxy, waiting for the home's reply (R293, R424) -/
  | fsig (slot : Nat) (val : W64) (rd : BitVec 7)
  /-- halted at a breakpoint (R101) -/
  | breakpoint
deriving DecidableEq, Repr

/-- One resident thread group (Table 03-1). -/
structure Group where
  /-- the job the group belongs to (R63) -/
  job : Nat
  /-- group index within the job (R103) -/
  index : Nat
  /-- launch-counter value at launch (R65) -/
  age : W32
  /-- declared vector registers (R69) -/
  vregs : Nat
  /-- s1-s63; default 0 (R67) -/
  s : Tbl W64 := []
  /-- v[r] of lane t at key 32 r + t; default 0 (R68) -/
  v : Tbl W64 := []
  /-- p1-p7 as thread masks; default 0 (R71) -/
  p : Tbl Mask := []
  /-- cb0-cb3; default 0 (R79) -/
  cb : Tbl Mask := []
  /-- threads stopped at CVG.WAIT on each cb; default 0 (R79) -/
  cvg : Tbl Mask := []
  /-- dynamic rounding field (R41, R45) -/
  frm : BitVec 3 := 1
  /-- sticky flags INV DZ OVF UNF INX SAT of lane t, bit 0 up; default 0 (R43) -/
  flags : Tbl (BitVec 6) := []
  /-- program counter of lane t; default 0 (R76). It is held wide enough to name an address above 2^48 - 1, at which R153
  raises cause 0x03. -/
  pc : Tbl W64 := []
  /-- threads that have exited (R79) -/
  exited : Mask := 0
  /-- why the group issues nothing -/
  block : Block := .none
  /-- time at which the wait of `block` times out (R190); none: no time-out -/
  deadline : Option Nat := Option.none
  /-- the wait of a release at the next instruction has ended (R93) -/
  released : Bool := false
  /-- consecutive issues of one issue set while another waits (R77) -/
  issueRun : Nat := 0
  /-- threads of the issue set that issued last, and issues so far (R77) -/
  lastSet : Mask := 0
  issues : Nat := 0
  /-- issue number at which lane t last issued, for the longest wait of R77; default 0 -/
  lastIssue : Tbl Nat := []
  /-- a walk for this virtual page ended in this cause, which the waiting instruction raises (R260) -/
  xfault : Option (Nat × Nat) := Option.none
  /-- the issue set granted by R77, until it issues -/
  granted : Option W64 := Option.none
  /-- issue slots (0 vector, 1 scalar, 2 memory, 3 matrix) in which the group is boosted (R74) -/
  boost : BitVec 4 := 0
  /-- the group holds the barrier arrivals, semaphores (R185) it acquired -/
  semas : List Nat := []
  /-- the group has issued a matrix instruction (R328) -/
  matrix : Bool := false
deriving DecidableEq, Repr

/-- A line of the near cache (R549): its tag and its 128 bytes (default 0). -/
structure NearLine where
  valid : Bool
  tag : Nat
  bytes : Tbl Byte
deriving DecidableEq, Repr

/-- A merging-buffer entry (R85): serial number in opening order, line address, byte mask with data,
whether its drain has been sent, no-allocate attribute, and the stores in it (slot, store number). -/
structure MergeEntry where
  serial : Nat
  line : Nat
  bytes : Tbl Byte
  mask : List Nat
  sent : Bool := false
  na : Bool := false
  stores : List (Nat × Nat) := []
deriving DecidableEq, Repr

/-- An outstanding near-cache fill (R84, R88): its line, and whether an invalidation came after its request. -/
structure Fill where
  line : Nat
  stale : Bool := false
deriving DecidableEq, Repr

/-- A TLB entry (R261, R262): tag, first virtual page number (of 4 KiB), pages of 4 KiB covered, first physical
page number, bits [7:0] of the leaf, and the level of the leaf. -/
structure TlbEntry where
  tag : Nat
  vpn : Nat
  pages : Nat
  ppn : Nat
  attr : BitVec 8
  level : Nat
deriving DecidableEq, Repr

/-- A walk-cache entry (R261): tag, level of the table it names, virtual address prefix, table page address. -/
structure WalkEntry where
  tag : Nat
  level : Nat
  key : Nat
  table : Nat
deriving DecidableEq, Repr

/-- An entry held by a range cache (R258). -/
structure RangeEntry where
  tag : Nat
  index : Nat
  w0 : W64
  w1 : W64
deriving DecidableEq, Repr

/-- The kinds of matrix-slot instruction that take a matrix-queue entry (R118, R175). -/
inductive MatOp where
  | mldb
  | mma
  | mmv
  | mew
  | mdrn
deriving DecidableEq, Repr

/-- The progress of a matrix-queue entry (R119, R129, R134, R138). -/
inductive MatPhase where
  | queued
  | started
  | checked
deriving DecidableEq, Repr

/-- An entry of the matrix queue or of the array (R108, R118): the instruction with the scalar registers and FRM it read at
issue, its group and job, its progress, the operand elements it has read (rows of A; K rows of B, or the vector of MEW;
an SF4 element as scale code x 16 + nibble), and its result, bytes and flags while they lie in the holding set. -/
structure MatEntry where
  op : MatOp
  w : InsnWord
  aw : W64
  bw : W64
  cw : W64
  frm : BitVec 3
  slot : Nat
  job : Nat
  pc : W64
  mask : Mask
  phase : MatPhase := .queued
  committed : Bool := false
  replays : Nat := 0
  a : List (List Nat) := []
  b : List (List Nat) := []
  result : Tbl W32 := []
  out : Tbl Byte := []
  flags : BitVec 6 := 0
deriving DecidableEq, Repr

/-- What lies in the B buffers (R115, R175): the tile of the latest MLDB with its FMT and MPREC, B operand word, N and K; and
the tile that the last MMA left, with its FMT and MPREC. -/
structure TileState where
  shadow : Option (Nat × W64 × Nat × Nat × List (List Nat)) := none
  resident : Option (Nat × List (List Nat)) := none
deriving DecidableEq, Repr

/-- A transfer held by a stream engine (R178, R200): its sequence number, descriptor words, job, tag, the tile in hand and
whether it has begun, with the translations it holds (virtual page to physical page, R211) and the frame at its release;
tiles landed, highest outcome code and the frame of the last landed tile (R216); and its target frame (R213). -/
structure Transfer where
  seq : W32
  desc : List W64
  job : Nat
  tag : Nat
  tile : Nat := 0
  started : Bool := false
  trans : Tbl Nat := []
  relFrame : W32 := 0
  landed : Nat := 0
  outcome : Nat := 0
  frame : W32 := 0
  wantFrame : Nat := 0
deriving DecidableEq, Repr

/-- A finished transfer whose status a group may still ask for (R180): sequence number, job, and its cause (0: none). -/
structure Finished where
  seq : W32
  job : Nat
  cause : BitVec 8
  addr : W64
deriving DecidableEq, Repr

/-- A stream engine (R178, R200, R209, R210). -/
structure Engine where
  queue : List Transfer := []
  /-- sequence number of the next accepted descriptor -/
  next : W32 := 0
  /-- last completed sequence number -/
  last : W32 := 0
  /-- whether any transfer has completed -/
  any : Bool := false
  /-- jobs whose transfers end at once after a fault, with its cause and address (R210) -/
  failed : List (Nat × BitVec 8 × W64) := []
  /-- faulted transfers -/
  ended : List Finished := []
  /-- prefetched translations: tag and virtual page (R209) -/
  ahead : List (Nat × Nat) := []
deriving DecidableEq, Repr

/-- The TRANSFER job on a core (R553): the job and its tag, the tile each engine holds or begins next, the translations of
the tiles that have begun (none: not begun), and the lowest tile that failed with its cause and address. -/
structure Copy where
  job : Nat
  tag : Nat
  next : List Nat := [0, 1, 2, 3]
  begun : List (Option (Tbl Nat × Tbl Nat)) := [none, none, none, none]
  failed : Option (Nat × Nat × Nat) := none
deriving DecidableEq, Repr

/-- A barrier (R183): the count its first arrival fixed, the job, and the arrived slots. -/
structure Barrier where
  count : Nat
  job : Nat
  slots : List Nat
deriving DecidableEq, Repr

/-- A triangle that has been set up (R345): its draw and primitive, its snapped corners after clipping in 1/256 pixel, and the
words of its three vertices. -/
structure Tri where
  draw : Nat
  prim : Nat
  pts : List (Int × Int)
  verts : List (List Nat)
deriving DecidableEq, Repr

/-- A fragment group that has been launched (R355): its slot and index, its draw, and its fragments, lane by lane. -/
structure FragGroup where
  slot : Nat
  index : Nat
  draw : Nat
  frags : List Fragment
deriving DecidableEq, Repr

/-- The raster unit of a core during the bin phase of a draw batch (R350-R356). -/
structure Raster where
  job : Option Nat := none
  /-- the bin in the local store, if one is begun (R351) -/
  bin : Option Nat := none
  /-- attachments that started from their clear value (R352), and those that a fragment has written; bit 4 is depth -/
  cleared : BitVec 5 := 0
  written : BitVec 5 := 0
  /-- fragments of the bin gathered so far, in ascending (draw, primitive) order (R355, R356) -/
  gathered : Nat := 0
  /-- fragment groups whose outputs have not been read, oldest first -/
  frags : List FragGroup := []
deriving DecidableEq, Repr

/-- One physical core. -/
structure Core where
  /-- resident groups by slot (R63) -/
  groups : Tbl Group := []
  /-- launch list, oldest first (R65) -/
  order : List Nat := []
  /-- launch counter (R65) -/
  launches : W32 := 0
  /-- jobs with work on this core (R63, R104) -/
  jobs : List Nat := []
  /-- context whose data the local store holds; none after placement into service (R104) -/
  lsOwner : Option Nat := none
  /-- near-cache line at key 8 set + way (R549) -/
  near : Tbl NearLine := []
  /-- tree bits of a set, bit k for node k; default 0 (R549) -/
  nearTree : Tbl (BitVec 8) := []
  /-- merging buffer, in opening order (R85) -/
  merge : List MergeEntry := []
  /-- serial number of the next merging-buffer entry -/
  mergeNext : Nat := 0
  /-- number of the next store instruction (R80) -/
  storeNext : Nat := 0
  /-- outstanding fills (R84) -/
  fills : List Fill := []
  /-- lines in the instruction cache, most recent first: tag and line of virtual address (R152) -/
  icache : List (Nat × Nat) := []
  /-- first- and second-level TLB, most recent first (R261) -/
  tlb1 : List TlbEntry := []
  tlb2 : List TlbEntry := []
  /-- walk cache (R261) -/
  walks : List WalkEntry := []
  /-- accumulator element (row, col) of tile a at key 4096 a + 64 row + col; default 0 (R109) -/
  acc : Tbl W32 := []
  /-- accumulator flags of tile a in the places of MFLG; default 0 (R57, R176) -/
  accFlags : Tbl (BitVec 6) := []
  /-- matrix queue and array in issue order (R118) -/
  mat : List MatEntry := []
  /-- B buffers (R115) -/
  tiles : TileState := {}
  /-- checked blocks since the last injected test, and the comparator next in turn (R136) -/
  injCount : Nat := 0
  /-- clocks of the matrix-vector path since reset, for R136 -/
  injMv : Nat := 0
  injNext : Nat := 0
  /-- local-store byte; default 0 (R194) -/
  ls : Tbl Byte := []
  /-- local-store bank words (key row 64 + bank) with a multi-bit error (R197) -/
  lsBad : List Nat := []
  /-- next row of the patrol (R198) -/
  scrubRow : Nat := 0
  /-- repaired rows (R199) -/
  repaired : List Nat := []
  /-- the four stream engines; default an idle engine (R200) -/
  eng : Tbl Engine := []
  /-- context table entries read at job start, by tag, until an invalidation of the tag (R252) -/
  held : Tbl (BitVec 128) := []
  /-- CORE_CFG, MXA_CFG and STR_CFG in force since the last job boundary (R106, R143, R220) -/
  cfg : W32 := 0x00000440
  mxaCfg : W32 := 0x00001000
  strCfg : W32 := 0x00001010
  /-- barriers by BID (R183) -/
  bars : Tbl Barrier := []
  /-- words of the held fault record: program counter, address, threads (R107) -/
  fltPc : BitVec 48 := 0
  fltAddr : W64 := 0
  fltMask : Mask := 0
  /-- words of the held check record: program counter, slot, difference and bound (R144) -/
  chkPc : BitVec 48 := 0
  chkSlot : Nat := 0
  chkDiff : W32 := 0
  chkBound : W32 := 0
  /-- words of the held stream record: address, sequence number, tag (R221) -/
  strAddr : W64 := 0
  strSeq : W32 := 0
  strTag : Nat := 0
  /-- words of the held raster record: address and tag (R363) -/
  gfxAddr : W64 := 0
  gfxTag : Nat := 0
  /-- the raster unit -/
  raster : Raster := {}
  /-- core clocks since placement into service, in tenths, up to time `clkAt` (Table 05-10) -/
  clkTenths : Nat := 0
  clkAt : Nat := 0
  /-- times of first mismatches in the last hour (R454) -/
  mismatches : List Nat := []
  /-- the TRANSFER job on this core (R553) -/
  copy : Option Copy := none
deriving DecidableEq, Repr

/-- A line of a system-cache slice (R238, R229). -/
structure SliceLine where
  valid : Bool
  dirty : Bool
  poison : Bool
  line : Nat
deriving DecidableEq, Repr

/-- An eviction-buffer entry (R242): its line, the partition charged, its poison mark, whether its drain has begun. -/
structure EvictEntry where
  line : Nat
  part : Nat
  poison : Bool
  begun : Bool
deriving DecidableEq, Repr

/-- A system-cache slice (R238). -/
structure Slice where
  /-- line at key 16 set + way -/
  lines : Tbl SliceLine := []
  /-- tree bits of a set, bit k for node k; default 0 (R240) -/
  tree : Tbl (BitVec 16) := []
  evict : List EvictEntry := []
  /-- ways of a flush that is walking or draining (R243) -/
  flush : Option (BitVec 16) := none
  idle : Bool := false
  /-- address of the recorded line (R250) -/
  errAddr : Nat := 0
deriving DecidableEq, Repr

/-- A memory channel controller (R228-R233, R247). -/
structure Channel where
  /-- next patrol line of each pseudo-channel (R230) -/
  patrol0 : Nat := 0
  patrol1 : Nat := 0
  /-- recorded line address and requester (R248) -/
  errAddr : Nat := 0
  errReq : Nat := 0
deriving DecidableEq, Repr

/-- A context's state (R278). -/
inductive CtxState where
  | live
  | lost
  | dying
deriving DecidableEq, Repr

/-- A context (R277, R278, R343). -/
structure Context where
  vi : Nat
  part : Nat
  tag : Nat
  state : CtxState := .live
  /-- depth mode recorded by the first DRAW: true for FASTCLR (R343) -/
  dmode : Option Bool := none
deriving DecidableEq, Repr

/-- A queue (R280, R281, R309). The doorbell page's registers are in `regs`. -/
structure Queue where
  ctx : Nat
  /-- L -/
  log2 : Nat
  prio : Nat
  vector : Nat
  /-- ring address, virtual and physical -/
  ring : Nat
  ringPa : Nat
  /-- packets fetched -/
  head : W32 := 0
  /-- SEQ of the last accepted packet, none before the first (R284) -/
  lastSeq : Option W32 := none
  /-- accepted packets in order with whether each has completed, for QUE_DONE (R286) -/
  accepted : List (W32 × Bool) := []
  stopped : Bool := false
  /-- bytes of the last completion record, as words 0 and 1 (R309) -/
  recLo : W64 := 0
  recHi : W64 := 0
deriving DecidableEq, Repr

/-- How far a job has come (R285, R325, R326, R286). -/
inductive JobPhase where
  /-- fetched; waits for its fence or its order -/
  | waiting
  /-- ready since the time given, the key of R325 -/
  | ready (since : Nat)
  /-- chosen by the dispatcher and started on its cores -/
  | started
  /-- its work runs -/
  | running
  /-- saved by pre-emption -/
  | saved
  /-- its work has ended with this status and cause; its completion is to be written -/
  | ended (status : BitVec 8) (cause : BitVec 8)
deriving DecidableEq, Repr

/-- The state of a draw batch (R341-R352). -/
structure Batch where
  /-- render-pass descriptor and draw records as read (Tables 12-2, 12-3) -/
  pass : List W64 := []
  draws : List (List W64) := []
  /-- draws whose triangles have been binned, and the next primitive of the draw in hand -/
  setUp : Nat := 0
  nextPrim : Nat := 0
  /-- triangles in the bin lists, and the entries (bin, draw, primitive) in order (R347) -/
  tris : List Tri := []
  bins : List (Nat × Nat × Nat) := []
  /-- pool blocks in use, heads included, and the last block of each bin's list (R348) -/
  blocks : Nat := 0
  lastBlock : Tbl Nat := []
  /-- binning waits for the pool; the bin phase that runs is a partial render; one has been made in this pass (R349) -/
  stalled : Bool := false
  partialRun : Bool := false
  forceLoad : Bool := false
  binPhase : Bool := false
  /-- bins completed, in all and by logical core (R350) -/
  binsDone : Nat := 0
  nextBins : Tbl Nat := []
  /-- fragment groups launched -/
  fragGroups : Nat := 0
deriving DecidableEq, Repr

/-- A job: an accepted packet (R282). -/
structure Job where
  queue : Nat
  ctx : Nat
  seq : W32
  /-- the packet's eight words -/
  words : List W64
  /-- generation of SSLOT when the packet was checked (R550) -/
  sigGen : BitVec 16 := 0
  phase : JobPhase := .waiting
  /-- time at which the job started (R322) -/
  startAt : Nat := 0
  /-- physical cores on which it has started, lowest logical core first (R325) -/
  cores : List Nat := []
  /-- next group index to launch, and groups resident or to come (R64) -/
  nextGroup : Nat := 0
  liveGroups : Nat := 0
  /-- group count of the phase that runs -/
  groups : Nat := 0
  /-- inherited priority (R329) -/
  inherit : Nat := 0
  /-- draw batch state (R344) -/
  batch : Batch := {}
  /-- a pre-emption has been requested (R326) -/
  yielding : Bool := false
  /-- next tiles of a saved TRANSFER job (R217) -/
  savedCopy : Option (List Nat) := none
  /-- saved groups by (logical core, slot) in launch order, engine states, accumulators with their flags, and declared
  local-store ranges, by logical core (R217, R326, R328) -/
  savedGroups : List (Nat × Nat × Group) := []
  savedEng : List (Nat × Nat × Engine) := []
  savedAcc : List (Nat × Tbl W32 × Tbl (BitVec 6)) := []
  savedLs : List (Nat × Tbl Byte) := []
deriving DecidableEq, Repr

/-- A fence slot (R289, R290). State codes are those of R294. -/
structure Fence where
  owner : Nat
  value : W64
  state : BitVec 2 := 0
  regress : BitVec 16 := 0
  /-- contexts the slot has been granted to by import -/
  grants : List Nat := []
  /-- targets of exports: instance, or device -/
  exportedTo : List (Bool × Nat) := []
  /-- importing devices, which hold proxies (R293) -/
  proxies : List Nat := []
  /-- home device and slot, when the slot is a proxy (R293) -/
  home : Option (Nat × Nat) := none
  /-- the owner has freed it while importers remained (R292) -/
  ownerGone : Bool := false
deriving DecidableEq, Repr

/-- An armed event (R295). -/
structure Arm where
  slot : Nat
  onState : Bool
  value : W64
  vi : Nat
  vector : Nat
deriving DecidableEq, Repr

/-- A hardware semaphore (R184-R186): its context, short attribute as allocated and now, holder (logical core, slot), waiters
(priority, logical core, slot) in order of arrival, and whether the last holder abandoned it. -/
structure Sema where
  ctx : Nat
  short : Bool
  shortNow : Bool
  holder : Option (Nat × Nat) := none
  since : Nat := 0
  waiters : List (Nat × Nat × Nat) := []
  abandoned : Bool := false
deriving DecidableEq, Repr

/-- A virtual function or the physical function as an owner of objects (R300-R303, R310, R555). -/
structure Vinst where
  parts : BitVec 8
  vectors : Nat
  drain : Nat
  /-- commands waiting in its Hub queue, oldest first, eight words each (R302) -/
  cmds : List (List W64) := []
  /-- unread replies, oldest first, four words each (R303) -/
  replies : List (List W64) := []
  resetBusy : Bool := false
  draining : Bool := false
  /-- the time its drain timer ends -/
  drainAt : Nat := 0
  /-- VI_RESET commands that wait for the acknowledgement: instance and REQ (R301) -/
  resetReqs : List (Nat × W32) := []
  /-- VI_DISABLE command that waits: instance and REQ -/
  disableReq : Option (Nat × W32) := none
  disabled : Bool := false
  /-- interrupt vectors with a message pending (R295) -/
  pendingVectors : List Nat := []
  /-- beats completed after a reset stop (R301) -/
  rstBeats : W32 := 0
deriving DecidableEq, Repr

/-- A service graph (R305): its image's SVN and what it names; while it runs, the context and queue of each stage. -/
structure Graph where
  svn : Nat
  plan : GraphPlan
  stages : List (Nat × Nat) := []
  running : Bool := false
  /-- GRAPH_STOP has been taken; the stages stop at their job boundaries -/
  stopping : Bool := false
deriving DecidableEq, Repr

/-- Pages bound to a function (R279). -/
structure Grant where
  first : Nat
  count : Nat
  vi : Nat
deriving DecidableEq, Repr

/-- A range with advice (R272). Kinds: 0 preferred location, 1 read-mostly, 2 accessed-by. -/
structure Advice where
  tag : Nat
  first : Nat
  count : Nat
  kind : Nat
  value : Nat
  /-- read-mostly: leaves whose host page is kept, as (virtual page, address of the entry, host page, pages) -/
  kept : List (Nat × Nat × Nat × Nat) := []
deriving DecidableEq, Repr

/-- A Cadence source (R311-R314). `state`: 0 unbound, 1 running, 2 stopped. -/
structure Source where
  cfg : W32 := 0
  pos : W64 := 0
  state : Nat := 0
  skips : Nat := 0
  repeats : Nat := 0
  /-- media number of the previous frame, none before the first (R314) -/
  media : Option Nat := none
  /-- time of the binding or of the last line, scan line or sample (R313) -/
  lastAt : Nat := 0
deriving DecidableEq, Repr

/-- A trigger slot (R316-R320). `ctl` holds CAD_TRG_CTL, ARM included. -/
structure Trigger where
  ctl : W32 := 0
  pos : W64 := 0
  inc : W32 := 0
  arg : W32 := 0
  dly : W32 := 0
  tpl : Tbl W32 := []
  /-- the values taken when it was armed: position now, and the rest -/
  aPos : W64 := 0
  aInc : W32 := 0
  aArg : W32 := 0
  aDly : W32 := 0
  aTpl : Tbl W32 := []
  /-- firings since it was armed (R318) -/
  firings : Nat := 0
  /-- SEQ of the latest launch (R320) -/
  latest : Option W32 := none
  /-- SEQ captured at the previous firing of this DEADLINE trigger (R320) -/
  captured : Option W32 := none
deriving DecidableEq, Repr

/-- A scheduled deadline check (R320): the DEADLINE trigger, the job it captured, its time, MISS_ACT, and the job's context. -/
structure Check where
  trg : Nat
  queue : Nat
  seq : W32
  due : Nat
  missAct : Bool
deriving DecidableEq, Repr

/-- A channel of the intake blocks (R365-R375): its control and descriptor as read, and its progress. `state`: codes of VIO_CH_STAT. -/
structure VChan where
  ctl : W32 := 0
  descAddr : W64 := 0
  desc : List W64 := []
  state : Nat := 0
  lost : Nat := 0
  /-- whether a frame, a packet or a ready word has come since the enable -/
  begun : Bool := false
  /-- the number of the frame in progress or last; audio: the first sample frame; video out: the next frame time -/
  frame : Nat := 0
  inFrame : Bool := false
  /-- time-stamp of the frame's first packet, RTP and device -/
  stamp : W32 := 0
  frameAt : Nat := 0
  /-- lines landed and lost in this frame, and the bytes seen of lines not yet landed, as (line, byte) -/
  landed : Nat := 0
  lostLines : Nat := 0
  seen : List (Nat × Nat) := []
  /-- audio: next sample frame; video: the RTP time-stamp or frame number last seen, extended -/
  pos : Nat := 0
  /-- ancillary: next entry -/
  entry : Nat := 0
  /-- count of the ready word last read -/
  lastCount : Nat := 0
  /-- out kinds: the bytes last sent at the pins -/
  sent : List Byte := []
deriving DecidableEq, Repr

/-- The PTP servo (R376). -/
structure Ptp where
  good : Nat := 0
  bad : Nat := 0
  locked : Bool := false
  everLocked : Bool := false
  lastSync : Nat := 0
  offset : Int := 0
  delay : Int := 0
deriving DecidableEq, Repr

/-- A display pipe (R377-R385). -/
structure Pipe where
  on : Bool := false
  /-- configuration taken at the enable: CFG, HTIM, VTIM, PCLK -/
  cfg : W32 := 0
  htim : W32 := 0
  vtim : W32 := 0
  pclk : W32 := 0
  /-- pointer-slot address taken at the enable (R507) -/
  ptr : Nat := 0
  frame : Nat := 0
  line : Nat := 0
  line0At : Nat := 0
  /-- descriptor in force, and the one fetched for the next frame -/
  desc : List W64 := []
  next : Option (List W64) := none
  fetched : Bool := false
  applied : Bool := false
  previous : Bool := false
  layersOff : BitVec 8 := 0
  wbStopped : Bool := false
  wbDone : Bool := false
  ptpLocked : Bool := false
  hpd : Bool := false
  rate : Nat := 0
  lanes : Nat := 0
  fltAddr : W64 := 0
deriving DecidableEq, Repr

/-- A ring of a compression engine (R393, R394). -/
structure CprRing where
  ctl : W32 := 0
  /-- CPR_RING_BASE as written, and the ring address taken at the enable (R507) -/
  wbase : W64 := 0
  base : W64 := 0
  head : W32 := 0
  tail : W32 := 0
  fault : Bool := false
deriving DecidableEq, Repr

/-- A compression engine (R394, R403): the ring and descriptor in progress, and its outcome once the operation has run. -/
structure Cpr where
  rings : Tbl CprRing := []
  serving : Nat := 0
  desc : Option (List W64) := none
  /-- status, bytes in and out, CRC, chunks done -/
  outcome : Option (BitVec 8 × Nat × Nat × W32 × Nat) := none
  /-- generation of SSLOT when the descriptor was checked (R550) -/
  gen : BitVec 16 := 0
  fltAddr : W64 := 0
deriving DecidableEq, Repr

/-- A Spoke link (R414-R420). `state`: codes of SPK_STAT.STATE; `lanes`: 0 one, 1 two, 2 four. -/
structure Link where
  state : Nat := 0
  lanes : Nat := 0
  peer : Nat := 0
  expectSeq : Nat := 0
  ackSeq : Nat := 0
  nextSeq : Nat := 0
  /-- the replay buffer: sequence number and the packet that the flit carries, its header (a request's payload stands in memory) -/
  replay : List (Nat × RemotePacket) := []
  /-- answers and forwarded packets that wait for credits or for room in the replay buffer, oldest first, with their slots (R414) -/
  waiting : List (Nat × RemotePacket) := []
  /-- CTR: flits sent under the present keys (R418) -/
  ctr : Nat := 0
  replayRun : Nat := 0
  nakPending : Bool := false
  crReq : Nat := 0
  crRsp : Nat := 0
  crCtl : Nat := 0
  keys : Bool := false
  tagFails : List Nat := []
  sent : W64 := 0
  received : W64 := 0
  lastValid : Nat := 0
  recordAt : W64 := 0
  waking : Bool := false
  retryAt : Nat := 0
deriving DecidableEq, Repr

/-- A remote access that has been sent and is not answered (R423): TAG, link, time of sending, core, slot and job, physical
address, bytes, and its kind: 0 read, 1 write, 2 atomic. -/
structure RemoteAcc where
  tag : Nat
  link : Nat
  since : Nat
  core : Nat
  slot : Nat
  job : Nat
  pa : Nat
  size : Nat
  kind : Nat
deriving DecidableEq, Repr

/-- A power domain (R430-R435). States: 0 Run, 1 Idle, 2 Sleep, 3 Deep sleep. -/
structure Domain where
  /-- TARGET, OP and TEST as PWR_DOM_CTL was last written for the domain -/
  ctl : W32 := 0
  state : Nat := 0
  /-- the state an entry or exit leads to -/
  target : Option Nat := none
  since : Nat := 0
  op : Nat := 0
  /-- operating point requested and waiting for the rail (R439) -/
  opWanted : Option Nat := none
  refuses : Nat := 0
  aborts : Nat := 0
  wake : Bool := false
  test : Option SelfTest := none
deriving DecidableEq, Repr

/-- The core supply rail and the power budget (R438-R443). -/
structure Power where
  /-- rail target, the target last accepted by the regulator, and the last READ_VOUT, in mV -/
  target : Nat := 625
  accepted : Nat := 625
  level : Nat := 0
  slewing : Bool := false
  /-- targets of VOUT_COMMANDs not yet accepted, oldest first, and attempts made with the first (R440) -/
  command : List Nat := []
  tries : Nat := 0
  faulted : Bool := false
  compute : Nat := 0
  graphics : Nat := 0
  hub : Nat := 0
  io : Nat := 0
  total : Nat := 0
  refuserId : W32 := 0
  refuseAt : Nat := 0
  caps : List Nat := []
  /-- device is Off (R437), and the time it entered Off -/
  off : Bool := false
  offAt : Nat := 0
  /-- an I/O class above its cap refuses further enables (R443) -/
  ioHeld : Bool := false
  /-- time of the last measurement (R442) -/
  measuredAt : Nat := 0
  /-- threshold reached: 0 none, 1 warning, 2 limit; and the time since which the temperature has stayed 5 degrees below it (R545) -/
  thermal : Nat := 0
  coolSince : Option Nat := none
deriving DecidableEq, Repr

/-- One of the four domestique pairs (R460-R462). `state`: codes of HUB_STAT. -/
structure Pair where
  state : Nat := 2
  image : Nat := 0
  strikes : Nat := 0
  strikeAt : Nat := 0
  mismatches : Nat := 0
  /-- time at which it stopped (R462) -/
  stoppedAt : Nat := 0
  /-- beats counted up to `beatAt`, from which it has served (Table 18-12) -/
  beats : Nat := 0
  beatAt : Nat := 0
deriving DecidableEq, Repr

/-- A physical core as the health store knows it (R452, R455). Roles: 0 Service, 1 Spare, 2 Retired, 3 Failed. -/
structure CoreRole where
  role : Nat
  strikes : Nat := 0
  strikeAt : Nat := 0
  test : Nat := 0
  testAt : Nat := 0
  repair : Nat := 0
deriving DecidableEq, Repr

/-- A journal record (R466). -/
structure Record where
  time : Nat
  page : Nat
  kind : Nat
  severity : Nat
  seq : Nat
  info : List Byte
deriving DecidableEq, Repr

/-- A state copy of the health store (R465, R467). -/
structure StateCopy where
  gen : Nat
  upTo : Nat
  map : Tbl Nat
  roles : Tbl CoreRole
  pairs : Tbl Pair
  health : Nat
  /-- repaired rows of each core -/
  rows : Tbl (List Nat)
deriving DecidableEq, Repr

/-- Reliability: health store, journal, rotation (R459, R463-R469). -/
structure Rel where
  hbmRing : List Record := []
  hsRing : List Record := []
  /-- records waiting for the health store, oldest first (at most 16, R469) -/
  hsPending : List Record := []
  nextSeq : Nat := 0
  copyA : Option StateCopy := none
  copyB : Option StateCopy := none
  tokens : Nat := 64
  /-- time of the last token (R468) -/
  tokenAt : Nat := 0
  /-- physical cores that Fragan is to move off (R454) -/
  moveOff : List Nat := []
  rotSteps : Nat := 0
  /-- rotation step in progress: logical core and spare; and, after its move, the logical core and the physical core that it
  vacated, until that one's test has ended (R459) -/
  rotating : Option (Nat × Nat) := none
  vacated : Option (Nat × Nat) := none
  /-- time at which the last rotation step began -/
  rotatedAt : Nat := 0
  /-- real-time partitions that are owed a logical core (R464) -/
  owed : List Nat := []
  bistRow : Nat := 0
  bistBank : Nat := 0
  bistBit : Nat := 0
  pfail : Bool := false
deriving DecidableEq, Repr

/-- A boot image as it stands in a flash slot or is staged (Table 18-4), with its header bytes and body. -/
structure Image where
  header : List Byte
  body : List Byte
deriving DecidableEq, Repr

/-- A directory copy (R477). -/
structure Directory where
  gen : Nat
  slot : Nat
deriving DecidableEq, Repr

/-- Flash, fuses, start-up and security (R475-R490). -/
structure Boot where
  fuses : Tbl Bool := []
  dir0 : Option Directory := none
  dir1 : Option Directory := none
  slotA : Option Image := none
  slotB : Option Image := none
  /-- integrator configuration and graphs in flash -/
  config : Option Image := none
  graphImage : Option Image := none
  fails : Nat := 0
  cause : Nat := 0
  minReason : Nat := 0
  up : Bool := false
  upAt : Nat := 0
  /-- time of the ROM's hand-over (R481) -/
  startedAt : Nat := 0
  minimal : Bool := false
  slot : Nat := 0
  appliance : Bool := false
  nocfg : Bool := false
  /-- BOOT_STAT.UPD -/
  upd : Nat := 0
  glitch : Nat := 0
  /-- the image that runs -/
  running : Option Image := none
  configSvn : Nat := 0
  staged : Option Image := none
  /-- when the last roll ended (Table 18-7) -/
  rolledAt : Option Nat := none
  started : Bool := false
  glitches : List Nat := []
  glitchTotal : Nat := 0
  rngFailed : Bool := false
  dbgLevel : Nat := 0
  dbgMask : BitVec 8 := 0
  challenge : Option (BitVec 256) := none
  dbgFails : Nat := 0
  lockUntil : Nat := 0
  /-- corrected fuse errors, and 64-bit groups of fuses with an uncorrectable one (R475) -/
  fuseFixes : Nat := 0
  fuseLost : List Nat := []
deriving DecidableEq, Repr

/-- A programmable counter (R520). -/
structure Counter where
  sel : W32 := 0
  value : BitVec 48 := 0
deriving DecidableEq, Repr

/-- The five fixed counters of a logical core (R525). -/
structure SlotCounts where
  clk : BitVec 48 := 0
  ret : BitVec 48 := 0
  waste : BitVec 48 := 0
  front : BitVec 48 := 0
  back : BitVec 48 := 0
deriving DecidableEq, Repr

/-- The performance-counter collector (R518-R524). -/
structure Pmc where
  counters : Tbl Counter := []
  fixed : Tbl SlotCounts := []
  ovf : BitVec 64 := 0
  fovf : Mask := 0
  frozen : Bool := false
  snapSeq : BitVec 8 := 0
  shadow : Tbl Counter := []
  shadowFixed : Tbl SlotCounts := []
  shadowOvf : BitVec 64 := 0
  shadowAt : Nat := 0
deriving DecidableEq, Repr

/-- The pins and the power order of the always-on block (R535-R542, R545). Pins read true when high. -/
structure Pins where
  svcReqN : Bool := true
  amberBlink : Bool := false
  thermTripN : Bool := true
  railEn : BitVec 7 := 0x7F
  /-- failed power-up attempts, the time of the last, and the step that failed, until a start has journalled it (R539) -/
  attempts : Nat := 0
  failedAt : Nat := 0
  failStep : Option Nat := none
  /-- the rails are up and internal reset is released -/
  powered : Bool := true
  /-- the power-up order is to run or runs (R538) -/
  rising : Bool := false
  /-- a wake latched during the power-down order (Table 21-9) -/
  wakeLatched : Bool := false
  /-- last reading of the always-on sensor; a thermal trip keeps the rails off; the time since which the sensor has read below
  the restart temperature (R545, R546) -/
  aonTemp : Int := 0
  tripped : Bool := false
  coolSince : Option Nat := none
  /-- seconds-base of the always-on domain (R515) -/
  aonSince : Nat := 0
deriving DecidableEq, Repr

/-- A held mailbox capture (R509, R510): its words, VALID, EARLY, NW and SEQ. -/
structure Mailbox where
  words : List W32 := []
  valid : Bool := false
  early : Bool := false
  nw : Nat := 0
  seq : BitVec 8 := 0
deriving DecidableEq, Repr

/-- The state of the device. -/
structure State where
  /-- commands waiting to be performed, first in, first out (the model's own field) -/
  pending : List Instr
  /-- number of free values taken so far (the model's own field) -/
  free : Nat
  /-- data of the last register read; none: Unsupported Request (R502, R503) -/
  rdata : Option W32
  /-- device timestamp in ns (R157, R376) -/
  now : Nat
  /-- 32-bit registers at key page x 0x1000 + offset; default the register's reset value (R8, R497) -/
  regs : Tbl W32
  /-- voted fields of which all three copies differ: page, offset, and 32 times the entry of a windowed register plus the field's
  lowest bit (R451) -/
  unvoted : List (Nat × Nat × Nat)
  /-- mailboxes by page (R509) -/
  mbx : Tbl Mailbox
  /-- physical memory: HBM and the host's memory behind its sub-windows; default 0 (R222, R245, R264) -/
  mem : Tbl Byte
  /-- poisoned lines by line address (R229) -/
  poison : List Nat
  /-- HBM channels that are trained (R245) -/
  trained : Mask
  /-- key slots that hold a key: partitions 0-7 and, at 8, the service area (R226, R227) -/
  keys : BitVec 9
  parts : Tbl Partition
  /-- logical-to-physical map; default: withdrawn 0x3F (R16, R464) -/
  map : Tbl Nat
  /-- roles of the physical cores (R452) -/
  roles : Tbl CoreRole
  cores : Tbl Core
  slices : Tbl Slice
  chans : Tbl Channel
  /-- context table by tag; default 0 (R252) -/
  ctxTab : Tbl (BitVec 128)
  ctxRead : BitVec 128
  /-- range caches by unit: core p at p, requester r of Table 08-2 at 0x100 + r; default empty (R254, R258) -/
  rangeCache : Tbl (List RangeEntry)
  /-- invalidations waiting, and the one running (R268) -/
  invQueue : List Nat
  invRun : Option Nat
  doneTag : Nat
  /-- words of the held translation fault record (R276) -/
  xltAddr : W64
  xltEntry : W64
  contexts : Tbl Context
  grants : List Grant
  queues : Tbl Queue
  jobs : Tbl Job
  nextJob : Nat
  /-- fence slots in use (R289) -/
  fences : Tbl Fence
  /-- generation of each fence slot; default 0 (R289) -/
  fenceGen : Tbl (BitVec 16)
  arms : List Arm
  semas : Tbl Sema
  vis : Tbl Vinst
  /-- number of virtual functions enabled (R502) -/
  numVfs : Nat
  graphs : Tbl Graph
  /-- migration pools: tag, host kind, first page, size in pages (R271) -/
  pools : List (Nat × Bool × Nat × Nat)
  advice : List Advice
  sources : Tbl Source
  triggers : Tbl Trigger
  /-- triggers that have fired and whose action waits, in firing order: slot, time, and the trigger as it stood (R317) -/
  fired : List (Nat × Nat × Trigger)
  checks : List Check
  /-- sequence numbers of jobs to be ended when fetched (R321): queue and SEQ -/
  doomed : List (Nat × W32)
  missSeq : W32
  missAt : Nat
  vchans : Tbl VChan
  vioAddr : Tbl W64
  ptp : Ptp
  pipes : Tbl Pipe
  cprs : Tbl Cpr
  links : Tbl Link
  members : List (Nat × BitVec 384)
  /-- function that opened an outbound Spoke window (R554) -/
  winOwner : Tbl Nat
  /-- time since which a member has been unreachable (R420) -/
  unreachable : Tbl Nat
  remotes : List RemoteAcc
  nextTag : Nat
  domains : Tbl Domain
  power : Power
  pairs : Tbl Pair
  rel : Rel
  boot : Boot
  pmc : Pmc
  pins : Pins
  /-- AER header log of the held record (R517) -/
  aerLog : BitVec 128
  /-- record words of DEV_ACC_INFO: byte offset and write data (R515) -/
  accOffset : Nat
  accData : W32
deriving DecidableEq, Repr

/-- The state right after a device reset with the parts of the start that Fragan performs not yet done: no context,
queue, fence, source or trigger (R307, R336), caches and buffers empty (R245, R273, R220), every link down (R426),
every domain in Run at OP0 (R445), the map n to n and cores 32-35 spare (R18). Values the spec does not state are
named in notes/assumptions. -/
def State.reset : State where
  pending := []
  free := 0
  rdata := some 0
  now := 0
  regs := []
  unvoted := []
  mbx := []
  mem := []
  poison := []
  trained := 0
  keys := 0
  parts := []
  map := (List.range 32).map fun n => (n, n)
  roles := (List.range 36).map fun p => (p, { role := if p < 32 then 0 else 1 })
  cores := []
  slices := []
  chans := []
  ctxTab := []
  ctxRead := 0
  rangeCache := []
  invQueue := []
  invRun := none
  doneTag := 0
  xltAddr := 0
  xltEntry := 0
  contexts := []
  grants := []
  queues := []
  jobs := []
  nextJob := 0
  fences := []
  fenceGen := []
  arms := []
  semas := []
  vis := []
  numVfs := 0
  graphs := []
  pools := []
  advice := []
  sources := []
  triggers := []
  fired := []
  checks := []
  doomed := []
  missSeq := 0
  missAt := 0
  vchans := []
  vioAddr := []
  ptp := {}
  pipes := []
  cprs := []
  links := []
  members := []
  winOwner := []
  unreachable := []
  remotes := []
  nextTag := 0
  domains := []
  power := {}
  pairs := []
  rel := {}
  boot := {}
  pmc := {}
  pins := {}
  aerLog := 0
  accOffset := 0
  accData := 0

end Sys2Proof.Machine
end

