-- ==== Sys2Proof/Machine/Regs.lean ====
section
/-! DEFINITION. The register space as the blocks use it: reading and writing a register's stored value, counters,
interrupt bits, info registers and the journal. The paths by which software reaches it are in RegAccess.lean. -/
namespace Sys2Proof.Machine

/-- The outcome of a meaning. -/
abbrev Out := Host.Outcome State Fault Refusal

/-- `r` when the unit named by the operands exists; a fault otherwise. -/
def onUnit (ok : Bool) (r : Out) : Out := if ok then r else .fault .absentUnit

/-- `f s` when the event's condition holds in `s`; otherwise nothing happens. -/
def whenever (c : Bool) (s : State) (f : State) : Out := if c then .next f else .next s

/-- Key of a register in the table `regs`. -/
def rkey (page off : Nat) : Nat := page * 0x1000 + off

/-- The stored value of a register. -/
def rget (s : State) (page off : Nat) : W32 := tget (resetOf page off) s.regs (rkey page off)

/-- The state with the register's stored value replaced. -/
def rset (s : State) (page off : Nat) (v : W32) : State :=
  { s with regs := tset (resetOf page off) s.regs (rkey page off) v }

/-- Bits [hi:lo] of a register's stored value. -/
def rbits (s : State) (page off hi lo : Nat) : Nat := bits (rget s page off) hi lo

/-- The state with bits [hi:lo] of a register replaced. -/
def rput (s : State) (page off hi lo v : Nat) : State := rset s page off (putBits (rget s page off) hi lo v)

/-- `n` added to the saturating counter in bits [hi:lo] of a register. -/
def rbump (s : State) (page off hi lo n : Nat) : State :=
  rput s page off hi lo (satAdd (2 ^ (hi + 1 - lo) - 1) (rbits s page off hi lo) n)

/-- `n` added to the 32-bit counter of a register, saturating at 0xFFFF_FFFF. -/
def rcount (s : State) (page off : Nat) (n : Nat := 1) : State := rbump s page off 31 0 n

/-- `n` added to the 32-bit counter of a register, which wraps. -/
def rwrap (s : State) (page off : Nat) (n : Nat := 1) : State :=
  rset s page off (rget s page off + BitVec.ofNat 32 n)

/-- Whether the field whose lowest bit is `lo` of a voted register holds no majority (R451); `sel` is the entry of a windowed
register, else 0. -/
def noMajority (s : State) (page off sel lo : Nat) : Bool := s.unvoted.contains (page, off, 32 * sel + lo)

/-- ERR_CNT of a page counts one refused or invalid write, and STAT.ERR is set (Table 19-4, R505). -/
def errCount (s : State) (page : Nat) : State :=
  rput (rbump s page 0x14 15 0 1) page 0x08 31 31 1

/-- A function's record: before any VI_CONFIG the physical function may use every partition and holds 64 vectors, a virtual
function none (R555). -/
def viOf (s : State) (fn : Nat) : Vinst :=
  tget (if fn = 0 then { parts := 0xFF, vectors := 64, drain := 0x64 } else { parts := 0, vectors := 0, drain := 0x64 }) s.vis fn

/-- The state with a function's record updated. -/
def viUpd (s : State) (fn : Nat) (f : Vinst → Vinst) : State := { s with vis := tput s.vis fn (f (viOf s fn)) }

/-- The function whose interrupt vector a QUE or VI page uses, and the vector (R295, R505); none for other pages. -/
def pageVector (s : State) (page : Nat) : Option (Nat × Nat) :=
  match pageKind page with
  | .que =>
    match tfind s.queues (page - 0x400) with
    | some q => match tfind s.contexts q.ctx with
      | some c => some (c.vi, q.vector)
      | none => none
    | none => none
  | .vi => some (page - 0x10000, 0)
  | _ => none

/-- A message of vector `v` is sent by function `fn`, merged with one that is pending; in appliance mode the event goes to Fragan
(R295). -/
def sendVector (s : State) (fn v : Nat) : State :=
  if s.boot.appliance then s else viUpd s fn fun x => { x with pendingVectors := if x.pendingVectors.contains v then x.pendingVectors else x.pendingVectors ++ [v] }

/-- Bit `b` of IRQ_STAT is set; on a QUE or VI page whose interrupt output is enabled for it, the message is sent (R505). -/
def raiseIrq (s : State) (page b : Nat) : State :=
  let s1 := rset s page 0x10 (setBit (rget s page 0x10) b)
  if bit (rget s page 0x04) 31 && bit (rget s page 0x0C) b then
    match pageVector s page with
    | some (fn, v) => sendVector s1 fn v
    | none => s1
  else s1

/-- Whether an info register holds a record: VALID, bit [31]. -/
def infoHeld (s : State) (page off : Nat) : Bool := bit (rget s page off) 31

/-- A record arrives at an info register with VALID in bit [31] and MULTI in bit `mb`: it is held with the given
other bits when none is held, and otherwise only sets MULTI. -/
def capture (s : State) (page off mb : Nat) (fields : Nat) : State :=
  if infoHeld s page off then rset s page off (setBit (rget s page off) mb)
  else rset s page off (BitVec.ofNat 32 (0x80000000 + fields))

/-- Records of the HBM ring and of the health store ring (R466). -/
def hbmRingSize : Nat := 4096
def hsRingSize : Nat := 256

/-- A record joins the HBM ring; when the ring is full its oldest record is overwritten and counted (R466, Table 01-5). -/
def journalHbm (s : State) (r : Record) : State :=
  if s.rel.hbmRing.length < hbmRingSize then { s with rel := { s.rel with hbmRing := s.rel.hbmRing ++ [r] } }
  else rbump { s with rel := { s.rel with hbmRing := s.rel.hbmRing.tail ++ [r] } } 4 0x12C 31 16 1

/-- A record is queued for the health store (R466, R469). -/
def journalHs (s : State) (r : Record) : State :=
  { s with rel := { s.rel with hsPending := s.rel.hsPending ++ [r] } }

/-- A journal record of the given source page, kind and severity (R466, R468): every record goes to HBM; one of
severity 3 also to the health store; one of severity 2 also, if a token is left, and otherwise it is counted in
REL_JRN_STAT.DEFER. -/
def journalAs (s : State) (page kind severity : Nat) (info : List Byte) : State :=
  let r : Record := { time := s.now, page, kind, severity, seq := s.rel.nextSeq % 2 ^ 32, info := info.take 32 }
  let s1 := journalHbm { s with rel := { s.rel with nextSeq := s.rel.nextSeq + 1 } } r
  if severity = 3 then journalHs s1 r
  else if severity = 2 then
    if s1.rel.tokens > 0 then journalHs { s1 with rel := { s1.rel with tokens := s1.rel.tokens - 1 } } r
    else rbump s1 4 0x12C 7 0 1
  else s1

/-- What marks a STATE record in the model, outside the codes of one byte; the code that the device gives it is `Config.stateCode`. -/
def stateKind : Nat := 0x100

/-- A STATE record (R467): it goes to HBM and to the health store. -/
def journalState (s : State) (info : List Byte) : State :=
  let r : Record := { time := s.now, page := 4, kind := stateKind, severity := 3, seq := s.rel.nextSeq % 2 ^ 32, info := info.take 32 }
  journalHs (journalHbm { s with rel := { s.rel with nextSeq := s.rel.nextSeq + 1 } } r) r

/-- The journal record that a rule calls for without giving its kind and severity: both are free values. -/
def journal (s : State) (page event : Nat) (info : List Byte := []) : State :=
  journalAs s page (Config.journalKind page event % 256) (Config.journalSeverity page event % 4) info

/-- Register pages of the blocks (Table 19-10). -/
def pgHub (n : Nat) : Nat := 0x8 + n
def pgMem (c : Nat) : Nat := 0x10 + c
def pgSyc (n : Nat) : Nat := 0x30 + n
def pgCore (p : Nat) : Nat := 0x100 + 4 * p
def pgMxa (p : Nat) : Nat := 0x101 + 4 * p
def pgStr (p : Nat) : Nat := 0x102 + 4 * p
def pgGfx (p : Nat) : Nat := 0x103 + 4 * p
def pgSpk (n : Nat) : Nat := 0x210 + n
def pgCmp (n : Nat) : Nat := 0x230 + n
def pgCpr (n : Nat) : Nat := 0x240 + n
def pgQue (q : Nat) : Nat := 0x400 + q
def pgVi (fn : Nat) : Nat := 0x10000 + fn

/-- The physical core `p`; a core that has done nothing since reset is idle. -/
def coreOf (s : State) (p : Nat) : Core := tget {} s.cores p

/-- The state with physical core `p` replaced. -/
def setCore (s : State) (p : Nat) (c : Core) : State := { s with cores := tput s.cores p c }

/-- The state with physical core `p` updated. -/
def updCore (s : State) (p : Nat) (f : Core → Core) : State := setCore s p (f (coreOf s p))

/-- The physical core that holds logical core `L`, if it is not withdrawn (R16, R464). -/
def physOf (s : State) (L : Nat) : Option Nat :=
  let p := tget 0x3F s.map L
  if p < 36 then some p else none

/-- The logical core that a physical core holds, if any. -/
def logicalOf (s : State) (p : Nat) : Option Nat :=
  (List.range 32).find? fun L => tget 0x3F s.map L == p

/-- The role record of a physical core (R452). -/
def roleOf (s : State) (p : Nat) : CoreRole := tget { role := 3 } s.roles p

/-- The job of an identifier. -/
def jobOf (s : State) (j : Nat) : Option Job := tfind s.jobs j

/-- The state with job `j` updated. -/
def updJob (s : State) (j : Nat) (f : Job → Job) : State :=
  match tfind s.jobs j with
  | some x => { s with jobs := tput s.jobs j (f x) }
  | none => s

/-- Memory: the byte at a physical address, and `n` bytes from one, and the state with bytes written (R222). -/
def memByte (s : State) (a : Nat) : Byte := tget 0 s.mem a
def memRead (s : State) (a n : Nat) : List Byte := treads 0 s.mem a n
def memNat (s : State) (a n : Nat) : Nat := leNat (memRead s a n)
def memWrite (s : State) (a : Nat) (bs : List Byte) : State := { s with mem := twrites 0 s.mem a bs }

end Sys2Proof.Machine
end

