-- ==== Sys2Proof/Machine/Counting.lean ====
section
/-! DEFINITION. Counting of events by the performance-counter collector (R518-R523). An event that a command brings about offers its
increment when the command is performed; what a block offers in each of its clocks is a free value (notes/assumptions). -/
namespace Sys2Proof.Machine

/-- Page of the collector. -/
def pmcPage : Nat := 6

/-- Events that a block offers in its clocks, of which no command tells: clocks, squashed grants, waits (Tables 20-2, 20-3). -/
def clockDriven (kind evt : Nat) : Bool :=
  (kind == 0 && [0x00, 0x05, 0x10, 0x11, 0x12, 0x13, 0x15, 0x21, 0x22, 0x31].contains evt) || (kind == 3 && evt == 3)

/-- Whether counter `k` counts such an event, by itself or as the high half of a chained pair (R521). -/
def clockCounter (t : Tbl Counter) (k : Nat) : Bool :=
  let own (v : W32) : Bool := bit v 31 && clockDriven (bits v 27 24) (bits v 7 0)
  let low := (tget {} t (k - 1)).sel
  if k % 2 == 1 && bit low 29 then own low else own (tget {} t k).sel

/-- Counters whose increments come clock by clock hold free values from here on: the slot counters of R525 and the programmable
counters that count such events; which of them have wrapped is free as well. -/
def pmcRefresh (s : State) : State :=
  let f := s.free
  let chained (k : Nat) : Bool := k % 2 == 0 && bit (tget {} s.pmc.counters k).sel 29
  let wrapped := (List.range 64).filter fun k => clockCounter s.pmc.counters k && !chained k && Config.clockWraps f k
  { s with
    free := f + 1
    pmc := { s.pmc with
      counters := (List.range 64).foldl (fun t k =>
        if clockCounter t k then tput t k { tget {} t k with value := Config.clockCount f k } else t) s.pmc.counters
      fixed := (List.range 32).map fun L => (L, { clk := Config.slotCount f L 0, ret := Config.slotCount f L 1
                                                  waste := Config.slotCount f L 2, front := Config.slotCount f L 3
                                                  back := Config.slotCount f L 4 })
      ovf := wrapped.foldl setBit s.pmc.ovf
      fovf := s.pmc.fovf ||| Config.slotWraps f } }

/-- A cause freezes the performance counters when PMC_CFG enables it: bit 29 overflow, 28 miss, 27 retirement (R523). -/
def pmcFreezeOn (s : State) (b : Nat) : State :=
  if bit (rget s pmcPage 0x100) b && !s.pmc.frozen then
    let s1 := pmcRefresh s
    raiseIrq { rset s1 pmcPage 0x100 (setBit (rget s1 pmcPage 0x100) 31) with pmc := { s1.pmc with frozen := true } } pmcPage 1
  else s

/-- A programmable counter, and the fields of its event selection (Table 20-8). -/
def pmcCtr (s : State) (k : Nat) : Counter := tget {} s.pmc.counters k
def setCtr (s : State) (k : Nat) (x : Counter) : State := { s with pmc := { s.pmc with counters := tput s.pmc.counters k x } }
def evEn (v : W32) : Bool := bit v 31
def evEdge (v : W32) : Bool := bit v 30
def evChain (v : W32) : Bool := bit v 29
def evKind (v : W32) : Nat := bits v 27 24
def evInst (v : W32) : Nat := bits v 21 16
def evCode (v : W32) : Nat := bits v 7 0

/-- Whether counter `k` is the high half of a chained pair (R521). -/
def pmcHigh (s : State) (k : Nat) : Bool := k % 2 == 1 && evChain (pmcCtr s (k - 1)).sel

/-- Whether counter `k` counts an event. -/
def pmcCounts (s : State) (kind inst evt k : Nat) : Bool :=
  let v := (pmcCtr s k).sel
  evEn v && !pmcHigh s k && evKind v == kind && evInst v == inst && evCode v == evt

/-- An overflow bit is set, with IRQ_STAT.OVF and the freeze it may cause. -/
def pmcOverflow (s : State) (k : Nat) : State :=
  pmcFreezeOn (raiseIrq { s with pmc := { s.pmc with ovf := setBit s.pmc.ovf k } } pmcPage 0) 29

/-- The collector is looked at: what has counted clock by clock is brought up to date, unless it is frozen. -/
def pmcTouch (s : State) : State :=
  if s.pmc.frozen then s
  else
    let s1 := pmcRefresh s
    if s1.pmc.ovf = s.pmc.ovf then s1 else pmcFreezeOn (raiseIrq s1 pmcPage 0) 29

/-- Counter `k` takes an increment: it wraps with its overflow bit, or carries into the high counter of its pair (R520, R521). -/
def pmcAdd (s : State) (k n : Nat) : State :=
  let x := pmcCtr s k
  let sum := x.value.toNat + n
  let s1 := setCtr s k { x with value := BitVec.ofNat 48 sum }
  let carry := sum / 2 ^ 48
  if carry = 0 then s1
  else if evChain x.sel && k % 2 == 0 then
    let y := pmcCtr s1 (k + 1)
    let high := y.value.toNat + carry
    let s2 := setCtr s1 (k + 1) { y with value := BitVec.ofNat 48 high }
    if high / 2 ^ 48 = 0 then s2 else pmcOverflow s2 (k + 1)
  else pmcOverflow s1 k

/-- An event of a source offers `n` (R519); with counting frozen nothing changes (R523). Edge counting takes one. -/
def pmcEvent (s : State) (kind inst evt n : Nat) : State :=
  if s.pmc.frozen || n = 0 then s
  else ((List.range 64).filter (pmcCounts s kind inst evt)).foldl
    (fun s k => pmcAdd s k (if evEdge (pmcCtr s k).sel then 1 else n)) s

/-- An event of physical core `p`, named by its logical core (R518). -/
def pmcCore (s : State) (p evt n : Nat) : State :=
  match logicalOf s p with
  | some L => pmcEvent s 0 L evt n
  | none => s

end Sys2Proof.Machine
end

