-- ==== Sys2Proof/Machine/Xlt.lean ====
section
/-! DEFINITION. Address translation (09_address_translation.md): partitions' regions, the context table, range
translation, paged translation with the TLBs of a core, and the record of a translation fault. -/
namespace Sys2Proof.Machine

/-- HBM of the device, 48 GiB (R222, R495). -/
def hbmTop : Nat := 0xC00000000
/-- Bases of the host and Spoke window regions, and the sizes of a sub-window and of an outbound window (R264, R265). -/
def hostBase : Nat := 0x100000000000
def spokeBase : Nat := 0x200000000000
def hostSize : Nat := 0x4000000000
def spokeSize : Nat := 0x10000000000

/-- Size of a partition's region: 768 MiB for each pseudo-channel (R25). -/
def partSize (p : Partition) : Nat := popCount 64 p.pcs.toNat * 0x30000000

/-- Base of partition `i`'s region: the sum of the sizes of those before it (R223). -/
def partBase (s : State) (i : Nat) : Nat :=
  s.parts.foldl (fun a e => if e.1 < i then a + partSize e.2 else a) 0

/-- Top of partition `i`'s region. -/
def partTop (s : State) (i : Nat) : Nat :=
  match tfind s.parts i with
  | some p => partBase s i + partSize p
  | none => partBase s i

/-- The partition that holds the service area: the highest-numbered best-effort one, else the highest-numbered (R225). -/
def servicePart (s : State) : Option Nat :=
  match (s.parts.filter fun e => !e.2.realTime).getLast? with
  | some e => some e.1
  | none => s.parts.getLast?.map (·.1)

/-- Size of the service area in partition `i`: 64 MiB or none (R225). -/
def serviceSize (s : State) (i : Nat) : Nat := if servicePart s = some i then 0x4000000 else 0

/-- Pre-emption depth of partition `i`, from CAD_PART_DEPTH (R326). -/
def partDepth (s : State) (i : Nat) : Nat := rbits s 5 0x108 (3 * i + 2) (3 * i)

/-- Bottom of the range-table area of partition `i` (R253), and of its pre-emption save area (R326). -/
def rangeAreaLo (s : State) (i : Nat) : Nat := partTop s i - serviceSize s i - 0x400000
def saveAreaLo (s : State) (i : Nat) : Nat :=
  match tfind s.parts i with
  | some p => rangeAreaLo s i - popCount 32 p.cores.toNat * partDepth s i * 0x4C0000
  | none => rangeAreaLo s i

/-- Whether the bytes from `a` up, `n` of them, touch a range-table area, a save area or the service area. -/
def touchesReserved (s : State) (a n : Nat) : Bool :=
  s.parts.any fun e => decide (a < partTop s e.1) && decide (saveAreaLo s e.1 < a + n)

/-- Fields of a context table entry (Table 09-1). -/
def ctV (e : BitVec 128) : Bool := bit e 63
def ctPart (e : BitVec 128) : Nat := bits e 62 60
def ctVi (e : BitVec 128) : Nat := bits e 59 54
def ctRoot (e : BitVec 128) : Nat := bits e 45 12 * 0x1000
def ctRtb (e : BitVec 128) : Nat := bits e 99 64 * 0x400

/-- The context table entry of a tag (R252). -/
def ctxEntry (s : State) (tag : Nat) : BitVec 128 := tget 0 s.ctxTab tag

/-- The entry of a tag as a core holds it since its job started, else as the table holds it (R252). -/
def coreEntry (s : State) (p tag : Nat) : BitVec 128 :=
  match tfind (coreOf s p).held tag with
  | some e => e
  | none => ctxEntry s tag

/-- XLT_OWINw of an outbound window. -/
def owin (s : State) (w : Nat) : W32 := rget s 0x42 (0x100 + 4 * w)

/-- Whether the bytes from `a` up, `n` of them, lie wholly in HBM, in the host sub-window of function `vi`, or in an
outbound window open to partition `part` (R260, R257). -/
def inHbm (a n : Nat) : Bool := decide (a + n ≤ hbmTop)
def inHost (vi a n : Nat) : Bool :=
  decide (hostBase + vi * hostSize ≤ a) && decide (a + n ≤ hostBase + (vi + 1) * hostSize)
def inSpoke (s : State) (part a n : Nat) : Bool :=
  (List.range 16).any fun w =>
    bit (owin s w) 31 && bits (owin s w) 30 28 == part &&
    decide (spokeBase + w * spokeSize ≤ a) && decide (a + n ≤ spokeBase + (w + 1) * spokeSize)

/-- A physical address is behind a host window, or behind a Spoke window. -/
def isHost (pa : Nat) : Bool := decide (hostBase ≤ pa) && decide (pa < spokeBase)
def isSpoke (pa : Nat) : Bool := decide (spokeBase ≤ pa) && decide (pa < 0x300000000000)

/-- The line that holds a physical address. -/
def lineOf (pa : Nat) : Nat := pa / 128 * 128

/-- Whether a line is poisoned (R229). -/
def poisoned (s : State) (pa : Nat) : Bool := s.poison.contains (lineOf pa)

/-! ### Translation faults -/

/-- A translation fault: the cause of Table 03-4, the kind of XLT_FLT_INFO, the level, and the table entry. -/
structure XFault where
  cause : Nat
  kind : Nat
  level : Nat
  entry : W64
deriving DecidableEq, Repr

/-- A translation fault is recorded in XLT_FLT_INFO (Table 09-11, R260, R276): the first is held, later ones only set
MULTI and are journalled; all are counted and raise FAULT. -/
def xltRecord (s : State) (f : XFault) (paged : Bool) (req tag addr : Nat) : State :=
  let held := infoHeld s 0x41 0x100
  let fields := f.kind * 2 ^ 27 + f.level * 2 ^ 25 + (if paged then 2 ^ 24 else 0) + req * 2 ^ 18 + tag
  let s1 := raiseIrq (rcount (capture s 0x41 0x100 30 fields) 0x41 0x104) 0x41 0
  if held then journal s1 0x41 0 (natLe 8 addr)
  else { s1 with xltAddr := BitVec.ofNat 64 addr, xltEntry := f.entry }

/-- Requester number of a range-cache unit: a core's logical core, or an edge requester (Table 08-2). -/
def unitReq (s : State) (unit : Nat) : Nat := if unit < 36 then (logicalOf s unit).getD 0 else unit - 0x100

/-! ### Paged translation (R259-R262) -/

/-- Fields of a page-table entry (Table 09-4). -/
def pteV (e : W64) : Bool := bit e 0
def pteLeaf (e : W64) : Bool := bit e 1
def pteAttr (e : W64) : BitVec 8 := BitVec.ofNat 8 (bits e 7 0)
def ptePage (e : W64) : Nat := bits e 45 12

/-- Pages of 4 KiB in a leaf of a level. -/
def levelPages : Nat → Nat
  | 0 => 1
  | 1 => 512
  | _ => 262144

/-- Whether an entry with V = 1 is malformed at a level, for the tag's entry `c` (R260). -/
def pteMalformed (s : State) (c : BitVec 128) (level : Nat) (e : W64) : Bool :=
  let reserved := bits e 63 46 != 0 || bit e 7 || bit e 2
  let leaf := pteLeaf e
  let pages := levelPages level
  let a := ptePage e * 0x1000
  let n := pages * 0x1000
  reserved || (leaf && level == 3) || (!leaf && level == 0)
  || (!leaf && bits e 6 3 != 0)
  || (leaf && bits e 5 3 == 0)
  || (leaf && ptePage e % pages != 0)
  || (leaf && !(inHbm a n || inHost (ctVi c) a n || inSpoke s (ctPart c) a n))
  || (leaf && touchesReserved s a n)

/-- The result of a walk: a fault, or a leaf with its level and the address of its entry. -/
inductive Walk where
  | fault (f : XFault)
  | leaf (level : Nat) (e : W64) (at_ : Nat)
deriving DecidableEq, Repr

/-- Address of the entry for `va` in the table at `table` of a level. -/
def pteAddr (table level va : Nat) : Nat := table + 8 * (va / 2 ^ (12 + 9 * level) % 512)

/-- A walk of the page tables from the table of a level downwards (R259, R260). -/
def walkFrom (s : State) (c : BitVec 128) (va : Nat) : Nat → Nat → Walk
  | level, table =>
    let at_ := pteAddr table level va
    let e : W64 := BitVec.ofNat 64 (memNat s at_ 8)
    if poisoned s at_ then .fault { cause := 3, kind := 4, level, entry := e }
    else if !pteV e then .fault { cause := 3, kind := 1, level, entry := e }
    else if pteMalformed s c level e then .fault { cause := 3, kind := 3, level, entry := e }
    else if pteLeaf e then .leaf level e at_
    else match level with
      | 0 => .fault { cause := 3, kind := 3, level, entry := e }
      | l + 1 => walkFrom s c va l (ptePage e * 0x1000)

/-- The walk for an address of a tag's space. -/
def walk (s : State) (c : BitVec 128) (va : Nat) : Walk :=
  if !ctV c then .fault { cause := 3, kind := 1, level := 0, entry := 0 }
  else walkFrom s c va 3 (ctRoot c)

/-- The entries of the line that holds a leaf, with which a run may be merged (R262). -/
def lineEntry (s : State) (at_ i : Nat) : W64 := BitVec.ofNat 64 (memNat s (at_ / 128 * 128 + 8 * i) 8)

/-- How many entries after `i` (up to `fuel`) continue the run in steps of one page. -/
def runUp (s : State) (c : BitVec 128) (at_ level : Nat) (e0 : W64) (i0 : Nat) : Nat → Nat → Nat
  | 0, _ => 0
  | fuel + 1, i =>
    let e := lineEntry s at_ i
    if i < 16 && pteV e && pteLeaf e && !pteMalformed s c level e && pteAttr e == pteAttr e0
        && ptePage e == ptePage e0 + (i - i0) * levelPages level
    then 1 + runUp s c at_ level e0 i0 fuel (i + 1) else 0

/-- How many entries before `i0` (up to `fuel`), from distance `d` on, continue the run. -/
def runDown (s : State) (c : BitVec 128) (at_ level : Nat) (e0 : W64) (i0 : Nat) : Nat → Nat → Nat
  | 0, _ => 0
  | fuel + 1, d =>
    let e := lineEntry s at_ (i0 - d)
    if d ≤ i0 && pteV e && pteLeaf e && !pteMalformed s c level e && pteAttr e == pteAttr e0
        && ptePage e + d * levelPages level == ptePage e0
    then 1 + runDown s c at_ level e0 i0 fuel (d + 1) else 0

/-- The TLB entry that a walk installs: the longest run of the leaf's line that meets R262. -/
def mergedEntry (s : State) (c : BitVec 128) (tag va level : Nat) (e : W64) (at_ : Nat) : TlbEntry :=
  let pages := levelPages level
  let i0 := at_ % 128 / 8
  let up := runUp s c at_ level e i0 15 (i0 + 1)
  let down := runDown s c at_ level e i0 15 1
  let vpn0 := va / 0x1000 / pages * pages
  { tag, vpn := vpn0 - down * pages, pages := (up + down + 1) * pages,
    ppn := ptePage e - down * pages, attr := pteAttr e, level }

/-- Whether a TLB entry covers an address of a tag. -/
def tlbHits (tag va : Nat) (e : TlbEntry) : Bool :=
  e.tag == tag && decide (e.vpn ≤ va / 0x1000) && decide (va / 0x1000 < e.vpn + e.pages)

/-- The TLB entry of a core for an address, from the first or the second level (R261). -/
def tlbFind (c : Core) (tag va : Nat) : Option TlbEntry :=
  match c.tlb1.find? (tlbHits tag va) with
  | some e => some e
  | none => c.tlb2.find? (tlbHits tag va)

/-- Whether bits [7:0] of a leaf grant a permission (Table 09-4). -/
def grants (attr : BitVec 8) (p : Perm) : Bool :=
  match p with
  | .r => bit attr 3
  | .w => bit attr 4
  | .x => bit attr 5
  | .rw => bit attr 3 && bit attr 4

/-- The outcome of paged translation: a physical address with its no-allocate attribute, a miss, or a fault. -/
inductive Xlate where
  | ok (pa : Nat) (na : Bool)
  | miss
  | fault (f : XFault)
deriving DecidableEq, Repr

/-- Paged translation on a core through its TLBs (R260, R261). -/
def xlate (s : State) (p tag va : Nat) (perm : Perm) : Xlate :=
  if va ≥ 2 ^ 48 then .fault { cause := 3, kind := 1, level := 0, entry := 0 }
  else match tlbFind (coreOf s p) tag va with
    | none => .miss
    | some e =>
      if grants e.attr perm then .ok ((e.ppn + (va / 0x1000 - e.vpn)) * 0x1000 + va % 0x1000) (bit e.attr 6)
      else .fault { cause := 4, kind := 2, level := e.level, entry := 0 }

/-- Entries that a TLB level and the walk cache hold (R261). -/
def tlb1Size : Nat := 64
def tlb2Size : Nat := 2048
def walkCacheSize : Nat := 32

/-- A list with a new entry at its head; when it is full the entry at a free place leaves (replacement is not stated). -/
def installAt {α : Type} (size : Nat) (victim : Nat) (x : α) (xs : List α) : List α :=
  if xs.length < size then x :: xs else x :: removeAt xs (victim % size)

/-! ### Range translation (R255-R258) -/

/-- A range entry as its two words (Table 09-3). -/
def reLen (w0 : W64) : Nat := bits w0 63 36
def reVpn (w0 : W64) : Nat := bits w0 35 0
def reV (w1 : W64) : Bool := bit w1 39
def reNa (w1 : W64) : Bool := bit w1 38
def reW (w1 : W64) : Bool := bit w1 37
def reR (w1 : W64) : Bool := bit w1 36
def rePpn (w1 : W64) : Nat := bits w1 33 0

/-- Entry `i` of the range table at `rtb` (R255). -/
def rangeAt (s : State) (rtb i : Nat) : W64 × W64 :=
  (BitVec.ofNat 64 (memNat s (rtb + 16 * i) 8), BitVec.ofNat 64 (memNat s (rtb + 16 * i + 8) 8))

/-- Whether a range entry covers an address (R256). -/
def rangeHits (w0 w1 : W64) (va : Nat) : Bool :=
  reV w1 && decide (reVpn w0 ≤ va / 0x1000) && decide (va / 0x1000 < reVpn w0 + reLen w0)

/-- The entry of the range table that covers an address. -/
def rangeFind (s : State) (rtb va : Nat) : Option (Nat × W64 × W64) :=
  (List.range 64).findSome? fun i =>
    let (w0, w1) := rangeAt s rtb i
    if rangeHits w0 w1 va then some (i, w0, w1) else none

/-- Range caches by requester (Table 09-2): core p at p, an edge requester r of Table 08-2 at 0x100 + r. -/
def rangeCacheSize : Nat := 32

/-- A range-cache entry that covers an address. -/
def rangeCached (s : State) (unit tag va : Nat) : Option RangeEntry :=
  (tget [] s.rangeCache unit).find? fun e => e.tag == tag && rangeHits e.w0 e.w1 va

/-- The covering entry moved to the front as the most recently used, or installed there; the least recently used leaves
when the cache is full (R258). -/
def rangeTouch (s : State) (unit : Nat) (e : RangeEntry) : State :=
  let old := (tget [] s.rangeCache unit).filter fun x => !(x.tag == e.tag && x.index == e.index)
  { s with rangeCache := tset [] s.rangeCache unit ((e :: old).take rangeCacheSize) }

/-- The physical address that an entry gives. -/
def rangePa (w0 w1 : W64) (va : Nat) : Nat := rePpn w1 * 0x1000 + va - reVpn w0 * 0x1000

/-- Range translation of one address by a unit: a cached entry if the cache holds one, else the table's (R256, R258).
The permission is R, W or both. -/
def rangeXlate (s : State) (unit tag va : Nat) (perm : Perm) : Except XFault (Nat × Bool × RangeEntry) :=
  let c := ctxEntry s tag
  let miss : XFault := { cause := 3, kind := 1, level := 0, entry := 0 }
  let found : Option RangeEntry :=
    match rangeCached s unit tag va with
    | some e => some e
    | none =>
      if !ctV c then none
      else match rangeFind s (ctRtb c) va with
        | some (i, w0, w1) => some { tag, index := i, w0, w1 }
        | none => none
  if va ≥ 2 ^ 48 then .error miss
  else match found with
    | none => .error miss
    | some e =>
      let ok := match perm with
        | .r => reR e.w1 | .w => reW e.w1 | .x => false | .rw => reR e.w1 && reW e.w1
      if ok then .ok (rangePa e.w0 e.w1 va, reNa e.w1, e)
      else .error { cause := 4, kind := 2, level := 0, entry := e.w1 }

/-- The context's table of a job or queue. -/
def ctxOf (s : State) (ctx : Nat) : Option Context := tfind s.contexts ctx
def tagOf (s : State) (ctx : Nat) : Nat := match ctxOf s ctx with | some c => c.tag | none => 0
def jobTag (s : State) (j : Nat) : Nat := match jobOf s j with | some x => tagOf s x.ctx | none => 0

end Sys2Proof.Machine
end

