-- ==== Sys2Proof/Machine/StreamDesc.lean ====
section
/-! DEFINITION. Stream descriptors (R203), their checks (R204, R207, R208), the addresses of a tile's bytes (R205-R207),
and access to the local store of a core (R194, R197). -/
namespace Sys2Proof.Machine

/-- Size of the local store (R194). -/
def lsSize : Nat := 0x400000

/-- A local-store byte, `n` bytes, and the core with bytes written; a bank word written whole has fresh ECC. -/
def lsByte (c : Core) (a : Nat) : Byte := tget 0 c.ls a
def lsRead (c : Core) (a n : Nat) : List Byte := treads 0 c.ls a n
def lsNat (c : Core) (a n : Nat) : Nat := leNat (lsRead c a n)
def lsWrite (c : Core) (a : Nat) (bs : List Byte) : Core :=
  { c with ls := twrites 0 c.ls a bs
           lsBad := c.lsBad.filter fun w => !(decide (a ≤ 16 * w) && decide (16 * w + 16 ≤ a + bs.length)) }

/-- The bank word of a byte: row x 64 + bank (R194); whether a read of it meets a multi-bit error (R197). -/
def lsWord (a : Nat) : Nat := a / 16
def lsMulti (c : Core) (a : Nat) : Bool := c.lsBad.contains (lsWord a)

/-- The declared local-store ranges of a job as (first byte, bytes) (Table 10-2). -/
def jobRanges (j : Job) : List (Nat × Nat) :=
  match bits (j.words.getD 0 0) 63 56 with
  | 1 =>
    let w := j.words.getD 7 0
    [(bits w 9 0 * 0x1000, bits w 20 10 * 0x1000), (bits w 30 21 * 0x1000, bits w 41 31 * 0x1000)]
  | 2 =>
    let w := j.words.getD 7 0
    [(bits w 9 0 * 0x1000, bits w 20 10 * 0x1000), (bits w 30 21 * 0x1000, bits w 41 31 * 0x1000)]
  | _ => []

/-- The first address from `a` up that no range of `rs` holds, `k` ranges being crossed at most. -/
def endFrom (rs : List (Nat × Nat)) : Nat → Nat → Nat
  | 0, a => a
  | k + 1, a =>
    match rs.find? fun r => decide (r.1 ≤ a) && decide (a < r.1 + r.2) with
    | some r => endFrom rs k (r.1 + r.2)
    | none => a

/-- The first of the `n` bytes from `a` up that lies outside the declared ranges (R112, R166, R204). -/
def firstOut (rs : List (Nat × Nat)) (a n : Nat) : Option Nat :=
  let e := endFrom rs rs.length a
  if a + n ≤ e then none else some e

/-- Whether `n` bytes from `a` lie in the declared ranges. -/
def inRanges (rs : List (Nat × Nat)) (a n : Nat) : Bool := n == 0 || (firstOut rs a n).isNone

/-- A word of a descriptor. -/
def dw (d : List W64) (i : Nat) : W64 := d.getD i 0

/-- A bit field as a signed number. -/
def sbits {n : Nat} (w : BitVec n) (hi lo : Nat) : Int :=
  let v := bits w hi lo
  if v.testBit (hi - lo) then (v : Int) - 2 ^ (hi + 1 - lo) else v

/-- Descriptor fields (Table 07-1). -/
def dOp (d : List W64) : Nat := bits (dw d 0) 63 60
def dDims (d : List W64) : Nat := bits (dw d 0) 59 58
def dEsize (d : List W64) : Nat := 2 ^ bits (dw d 0) 57 56
def dPad (d : List W64) : Nat := bits (dw d 0) 55 54
def dCw (d : List W64) : Bool := bit (dw d 0) 53
def dScl (d : List W64) : Nat := bits (dw d 0) 52 51
def dOuten (d : List W64) : Bool := bit (dw d 0) 50
def dStopw (d : List W64) : Bool := bit (dw d 0) 49
def dPassa (d : List W64) : Bool := bit (dw d 0) 48
def dCount (d : List W64) : Nat := bits (dw d 0) 47 32
def dPadval (d : List W64) : Nat := bits (dw d 0) 31 0
def dLscale (d : List W64) : Nat := bits (dw d 0) 21 0
def dE0 (d : List W64) : Nat := bits (dw d 1) 63 48
def dDev (d : List W64) : Nat := bits (dw d 1) 47 0
def dE1 (d : List W64) : Nat := bits (dw d 2) 63 48
def dOut (d : List W64) : Nat := bits (dw d 2) 43 22
def dLsa (d : List W64) : Nat := bits (dw d 2) 21 0
def dPadb (d : List W64) : Nat := bits (dw d 3) 63 56
def dPadt (d : List W64) : Nat := bits (dw d 3) 55 48
def dPadr (d : List W64) : Nat := bits (dw d 3) 47 40
def dPadl (d : List W64) : Nat := bits (dw d 3) 39 32
def dE3 (d : List W64) : Nat := bits (dw d 3) 31 16
def dE2 (d : List W64) : Nat := bits (dw d 3) 15 0
def dS2 (d : List W64) : Int := sbits (dw d 4) 63 32
def dS1 (d : List W64) : Int := sbits (dw d 4) 31 0
def dY0 (d : List W64) : Nat := bits (dw d 4) 63 32
def dX0 (d : List W64) : Nat := bits (dw d 4) 31 0
def dDstep (d : List W64) : Int := sbits (dw d 5) 63 32
def dS3 (d : List W64) : Int := sbits (dw d 5) 31 0
def dRing (d : List W64) : Nat := bits (dw d 6) 58 54
def dTstep (d : List W64) : Nat := bits (dw d 6) 53 32
def dLpitch (d : List W64) : Nat := bits (dw d 6) 21 0
def dCsrc (d : List W64) : Nat := bits (dw d 7) 63 58
def dLine0 (d : List W64) : Nat := bits (dw d 7) 57 42
def dLinc (d : List W64) : Nat := bits (dw d 7) 41 32
def dFrame (d : List W64) : Nat := bits (dw d 7) 31 0

/-- Local rows of one dimension-2 and -3 slice, rows per tile, and the row width in bytes (R204 item 5). With SF4 scale
handling the local row holds the element bytes only (R207). -/
def dSlice (d : List W64) : Nat := dPadt d + dE1 d + dPadb d
def dRows (d : List W64) : Nat := dSlice d * dE2 d * dE3 d
def dWidth (d : List W64) : Nat :=
  if dScl d = 0 then (dPadl d + dE0 d + dPadr d) * dEsize d else 32 * (dE0 d / 33)

/-- A local address reduced into the ring window that contains `anchor` (R205, R207). -/
def ringAddr (d : List W64) (anchor a : Nat) : Nat :=
  if dRing d = 0 then a else anchor / 2 ^ dRing d * 2 ^ dRing d + a % 2 ^ dRing d

/-- Device byte address (or local source of a COPY) of element (i0, i1, i2, i3) of tile t (R205). -/
def dDevAddr (d : List W64) (t i0 i1 i2 i3 : Nat) : Nat :=
  let v : Int := dDev d + t * dDstep d + i0 * dEsize d + i1 * dS1 d + i2 * dS2 d + i3 * dS3 d
  (v % 2 ^ 64).toNat

/-- Local address of column byte `b` of local row `r` of tile `t`, before the ring (R205). -/
def dLocal (d : List W64) (t r b : Nat) : Nat := ringAddr d (dLsa d) (dLsa d + t * dTstep d + r * dLpitch d + b)

/-- Local address of scale byte `j` of row `r` of tile `t` (R207). -/
def dScaleAddr (d : List W64) (t r j : Nat) : Nat :=
  let a := if dScl d = 1 then dLscale d + 64 * r + j else dLscale d + dE0 d / 33 * r + j
  ringAddr d (dLscale d) (a + t * dTstep d)

/-- Where a local byte of a tile takes its value: a device byte, or a constant of the padding. -/
inductive TileSrc where
  | dev (va : Nat)
  | const (b : Byte)
deriving DecidableEq, Repr

/-- An index clamped to the real elements of a dimension, and whether it lies outside them. -/
def clampIdx (i lo n : Nat) : Nat × Bool :=
  if i < lo then (0, true) else if i < lo + n then (i - lo, false) else (n - 1, true)

/-- The bytes of tile `t` without SF4 scale handling, in element order: each local byte with its source (R205, R206). -/
def tilePlain (d : List W64) (t : Nat) : List (TileSrc × Nat) :=
  (List.range (dRows d)).flatMap fun r =>
    let q := r / dSlice d
    let (i1, out1) := clampIdx (r % dSlice d) (dPadt d) (dE1 d)
    (List.range (dPadl d + dE0 d + dPadr d)).flatMap fun c =>
      let (i0, out0) := clampIdx c (dPadl d) (dE0 d)
      (List.range (dEsize d)).map fun b =>
        let src := if (out0 || out1) && dPad d == 1
          then TileSrc.const (BitVec.ofNat 8 (dPadval d >>> (8 * b)))
          else TileSrc.dev ((dDevAddr d t i0 i1 (q % dE2 d) (q / dE2 d) + b) % 2 ^ 64)
        (src, dLocal d t r (c * dEsize d + b))

/-- The bytes of tile `t` of SF4 blocks: 32 element bytes, then the scale byte (R207). -/
def tileScaled (d : List W64) (t : Nat) : List (TileSrc × Nat) :=
  (List.range (dRows d)).flatMap fun r =>
    let q := r / dSlice d
    (List.range (dE0 d)).map fun i0 =>
      let j := i0 / 33
      let o := i0 % 33
      (TileSrc.dev (dDevAddr d t i0 (r % dSlice d) (q % dE2 d) (q / dE2 d)),
        if o < 32 then dLocal d t r (32 * j + o) else dScaleAddr d t r j)

/-- The bytes of tile `t` of a LOAD, STORE or COPY with the other side of each local byte. -/
def tileBytes (d : List W64) (t : Nat) : List (TileSrc × Nat) :=
  if dScl d = 0 then tilePlain d t else tileScaled d t

/-- Every code is a listed one and every rule of R204, R207 and R208 holds; otherwise STRQ raises cause 0x01. -/
def descLegal (d : List W64) : Bool :=
  let es := dEsize d
  let signedMul (v : Int) : Bool := v % es == 0
  let op := dOp d
  -- item 1
  decide (op ≤ 3) && decide (dDims d ≤ 2) && decide (dPad d ≤ 2) && decide (dScl d ≤ 2)
  && bits (dw d 2) 47 44 == 0 && bits (dw d 6) 63 59 == 0 && bits (dw d 6) 31 22 == 0
  && (dRing d == 0 || (decide (12 ≤ dRing d) && decide (dRing d ≤ 22)))
  && (dScl d == 0 || bits (dw d 0) 31 22 == 0)
  && dCount d != 0 && dE0 d != 0 && dE1 d != 0
  -- item 2
  && (if dDims d = 0 then dE2 d == 1 && dE3 d == 1 && (op == 3 || dS2 d == 0) && dS3 d == 0
      else if dDims d = 1 then dE2 d != 0 && dE3 d == 1 && dS3 d == 0
      else dE2 d != 0 && dE3 d != 0)
  -- item 3
  && (if op ≤ 1 then dDev d % es == 0 && signedMul (dS1 d) && signedMul (dS2 d) && signedMul (dS3 d) && signedMul (dDstep d)
      else if op = 2 then bits (dw d 1) 47 22 == 0 else true)
  -- item 4
  && dLsa d % 16 == 0 && dOut d % 16 == 0 && dLpitch d % 16 == 0 && dTstep d % 16 == 0 && (dOuten d || dOut d == 0)
  -- item 5
  && decide (dWidth d ≤ dLpitch d)
  && decide ((dRows d - 1) * dLpitch d + dWidth d ≤ (if dRing d = 0 then lsSize else 2 ^ dRing d))
  -- item 6, and R206: no padding counts with PAD = 0b00
  && (if op = 1 || op = 2 then dPad d == 0 && dPadl d + dPadr d + dPadt d + dPadb d == 0
      else dPad d != 0 || dPadl d + dPadr d + dPadt d + dPadb d == 0)
  -- item 7
  && (if op = 1 || op = 2 then !dCw d else !dCw d || decide (dLine0 d + (dCount d - 1) * dLinc d ≤ 65535))
  -- R207, R208
  && (dScl d == 0 || (es == 1 && dE0 d % 33 == 0 && decide (dE0 d ≤ 2112) && dPad d == 0))
  && (op != 3 || dDims d == 0)

/-- The first local byte outside the declared ranges that the transfer can touch, in the order of R204: the tiles, the RING window, the
outcome record, the scale bytes, the source of a COPY. -/
def descOut (rs : List (Nat × Nat)) (d : List W64) : Option Nat :=
  let tiles := List.range (dCount d)
  let rows := List.range (dRows d)
  let main :=
    if dRing d = 0 then tiles.findSome? fun t => rows.findSome? fun r => firstOut rs (dLocal d t r 0) (dWidth d)
    else firstOut rs (dLsa d / 2 ^ dRing d * 2 ^ dRing d) (2 ^ dRing d)
  let out := if dOuten d then firstOut rs (dOut d) 8 else none
  let scale := if dScl d = 0 then none else tiles.findSome? fun t => rows.findSome? fun r =>
    (List.range (dE0 d / 33)).findSome? fun j => firstOut rs (dScaleAddr d t r j) 1
  let copy := if dOp d ≠ 2 then none else tiles.findSome? fun t => (tileBytes d t).findSome? fun x =>
    match x.1 with | .dev a => firstOut rs a 1 | .const _ => none
  main <|> out <|> scale <|> copy

end Sys2Proof.Machine
end

