-- ==== Sys2Proof/Machine/Group.lean ====
section
/-! DEFINITION. The register state of a thread group (R67-R71, R76-R79), and a core's near cache as an invalidation sees it. -/
namespace Sys2Proof.Machine

/-- The 32 lanes. -/
def lanes32 : List Nat := List.range 32
/-- The lanes of a mask, ascending. -/
def lanesOf (m : Mask) : List Nat := lanes32.filter fun t => m.getLsbD t

/-- Scalar registers: s0 reads as zero and discards writes (R67). -/
def sGet (g : Group) (r : Nat) : W64 := if r = 0 then 0 else tget 0 g.s r
def sSet (g : Group) (r : Nat) (v : W64) : Group := if r = 0 then g else { g with s := tset 0 g.s r v }

/-- Vector register `r` of lane `t` (R68). -/
def vGet (g : Group) (r t : Nat) : W64 := tget 0 g.v (32 * r + t)
def vSet (g : Group) (r t : Nat) (v : W64) : Group := { g with v := tset 0 g.v (32 * r + t) v }

/-- Predicate registers: p0 reads as true and discards writes (R71). -/
def pGet (g : Group) (r : Nat) : Mask := if r = 0 then BitVec.allOnes 32 else tget 0 g.p r
def pSet (g : Group) (r : Nat) (v : Mask) : Group := if r = 0 then g else { g with p := tset 0 g.p r v }

/-- p[d] of the threads of `m` only, from `v` (R156). -/
def pSetIn (g : Group) (r : Nat) (m v : Mask) : Group := pSet g r ((pGet g r &&& ~~~ m) ||| (v &&& m))

/-- Convergence barriers cb0-cb3 and the threads that wait on each (R79). -/
def cbGet (g : Group) (n : Nat) : Mask := tget 0 g.cb n
def cbSet (g : Group) (n : Nat) (v : Mask) : Group := { g with cb := tset 0 g.cb n v }
def cvgGet (g : Group) (n : Nat) : Mask := tget 0 g.cvg n
def cvgSet (g : Group) (n : Nat) (v : Mask) : Group := { g with cvg := tset 0 g.cvg n v }

/-- Threads stopped at a convergence wait. -/
def cvgWaiting (g : Group) : Mask := cvgGet g 0 ||| cvgGet g 1 ||| cvgGet g 2 ||| cvgGet g 3

/-- Sticky flags of lane `t`: read, and set more (R43). -/
def flagsGet (g : Group) (t : Nat) : Flags := tget 0 g.flags t
def flagsOr (g : Group) (t : Nat) (f : Flags) : Group :=
  if f = 0 then g else { g with flags := tset 0 g.flags t (flagsGet g t ||| f) }
def flagsClear (g : Group) (t : Nat) (f : Flags) : Group :=
  { g with flags := tset 0 g.flags t (flagsGet g t &&& ~~~ f) }

/-- Program counter of lane `t`. -/
def pcGet (g : Group) (t : Nat) : W64 := tget 0 g.pc t
def pcSet (g : Group) (t : Nat) (v : W64) : Group := { g with pc := tset 0 g.pc t v }
/-- The program counters of the threads of `m` set to `v`. -/
def pcSetIn (g : Group) (m : Mask) (v : W64) : Group := (lanesOf m).foldl (fun g t => pcSet g t v) g

/-- Threads that have not exited. -/
def alive (g : Group) : Mask := ~~~ g.exited
/-- Threads that may issue: not exited and not at a convergence wait (R76). -/
def candidates (g : Group) : Mask := alive g &&& ~~~ cvgWaiting g

/-- Threads of a mask at a program counter. -/
def atPc (g : Group) (m : Mask) (v : W64) : Mask := maskOf fun t => m.getLsbD t && pcGet g t == v

/-- The lowest program counter among the candidates (R76). -/
def lowestPc (g : Group) : Option (W64) :=
  (lanesOf (candidates g)).foldl (fun o t =>
    let v := pcGet g t
    match o with | none => some v | some w => if v.toNat < w.toNat then some v else some w) none

/-- The group record in slot `g` of core `p`, and its update. -/
def groupOf (s : State) (p g : Nat) : Option Group := tfind (coreOf s p).groups g
def setGroup (s : State) (p g : Nat) (x : Group) : State :=
  updCore s p fun c => { c with groups := tput c.groups g x }
def updGroup (s : State) (p g : Nat) (f : Group → Group) : State :=
  match groupOf s p g with
  | some x => setGroup s p g (f x)
  | none => s

/-- A blocked wait ends with a status in s[rd]: every thread of the group goes on behind the wait (R180-R187). -/
def resumeGroup (g : Group) (rd : BitVec 7) (status : Nat) : Group :=
  let g1 := sSet g rd.toNat (BitVec.ofNat 64 status)
  let m := alive g
  let g2 := (lanesOf m).foldl (fun x t => pcSet x t (pcGet x t + 8)) g1
  { g2 with block := .none, deadline := none }

/-- The near cache is invalidated whole: valid bits clear, tree bits stay, fills requested before are not installed
(R88, R549). -/
def nearInvalidate (c : Core) : Core :=
  { c with near := c.near.map (fun e => (e.1, { e.2 with valid := false })),
           fills := c.fills.map fun f => { f with stale := true } }

/-- The state with core `p`'s near cache invalidated. -/
def nearInvalidateAt (s : State) (p : Nat) : State := updCore s p nearInvalidate

/-- The physical cores in order. -/
def allCores : List Nat := List.range 36

/-- Every resident group of every core passed through `f`. -/
def mapGroups (s : State) (f : Nat → Nat → Group → Group) : State :=
  { s with cores := s.cores.map fun c =>
      (c.1, { c.2 with groups := c.2.groups.map fun g => (g.1, f c.1 g.1 g.2) }) }

end Sys2Proof.Machine
end

