-- ==== Sys2Proof/Machine/Jobs.lean ====
section
/-! DEFINITION. Fences, semaphores, jobs and contexts as every unit acts on them (10_contexts_queues_fences.md): signals
and waits, the completion of a job, the killing of a job's work, context loss and process death, and the exception of a
group (R99-R102). -/
namespace Sys2Proof.Machine

/-! ### Memory as the agents of the device write it -/

/-- Bytes written to device memory; a line of which every byte is written loses its poison mark (R229). -/
def storeBytes (s : State) (xs : List (Nat × Byte)) : State :=
  let s1 : State := { s with mem := xs.foldl (fun m x => tset 0 m x.1 x.2) s.mem }
  { s1 with poison := s1.poison.filter fun l => !((List.range 128).all fun i => xs.any fun x => x.1 == l + i) }

/-- Consecutive bytes written to device memory. -/
def storeAt (s : State) (a : Nat) (bs : List Byte) : State :=
  storeBytes s ((List.range bs.length).zip bs |>.map fun x => (a + x.1, x.2))

/-- A line becomes poisoned (R229). -/
def poisonLine (s : State) (pa : Nat) : State :=
  if poisoned s pa then s else { s with poison := lineOf pa :: s.poison }

/-! ### Packets (Tables 10-1, 10-2) -/

/-- Fields of a packet's common words (Table 10-1). -/
def pkW (j : Job) (i : Nat) : W64 := j.words.getD i 0
def pkType (w : List W64) : Nat := bits (w.getD 0 0) 63 56
def pkEvt (w : List W64) : Bool := bit (w.getD 0 0) 52
def pkSigen (w : List W64) : Bool := bit (w.getD 0 0) 51
def pkWaiten (w : List W64) : Bool := bit (w.getD 0 0) 50
def pkOrder (w : List W64) : Bool := bit (w.getD 0 0) 49
def pkRestart (w : List W64) : Bool := bit (w.getD 0 0) 48
def pkWslot (w : List W64) : Nat := bits (w.getD 0 0) 47 32
def pkSeq (w : List W64) : W32 := BitVec.ofNat 32 (bits (w.getD 0 0) 31 0)
def pkWval (w : List W64) : W64 := w.getD 1 0
def pkSval (w : List W64) : W64 := w.getD 2 0
def pkSslot (w : List W64) : Nat := bits (w.getD 3 0) 63 48
def pkCpl (w : List W64) : Nat := bits (w.getD 3 0) 47 0
/-- The logical-core mask of a KERNEL or DRAW packet, or of a TRANSFER (Table 10-2). -/
def pkCores (w : List W64) : Mask :=
  match pkType w with
  | 1 => BitVec.ofNat 32 (bits (w.getD 6 0) 63 32)
  | 2 => BitVec.ofNat 32 (bits (w.getD 6 0) 63 32)
  | 3 => BitVec.ofNat 32 (bits (w.getD 7 0) 31 0)
  | _ => 0

/-! ### Fences (R187-R190, R289-R297) -/

/-- State codes of a fence (R294). -/
def fsValue : BitVec 2 := 0
def fsError : BitVec 2 := 1
def fsExhausted : BitVec 2 := 2
def fsAbandoned : BitVec 2 := 3

/-- The status of a wait for `v` on a fence, none while it blocks (Table 10-5). -/
def fenceStatus (f : Fence) (v : W64) : Option Nat :=
  let reached := decide (v.toNat ≤ f.value.toNat)
  if f.state = fsValue then (if reached then some 0 else none)
  else if f.state = fsError then (if reached then some 0 else some 1)
  else if f.state = fsExhausted then some 2
  else some 3

/-- The status of a wait on a slot: a free slot answers as an abandoned fence (R292). -/
def slotStatus (s : State) (slot : Nat) (v : W64) : Option Nat :=
  match tfind s.fences slot with
  | some f => fenceStatus f v
  | none => some 3

/-- Whether every job accepted before this one has completed (R285). -/
def orderOk (s : State) (x : Job) : Bool :=
  match tfind s.queues x.queue with
  | some q => (q.accepted.takeWhile fun e => e.1 != pkSeq x.words).all (·.2)
  | none => true

/-- What a job that waits becomes: ready once its fence has been reached and its order allows it; ended with status 0x07 when
its wait ends in any other status (R285). -/
def waitOver (s : State) (x : Job) : JobPhase :=
  match (if pkWaiten x.words then slotStatus s (pkWslot x.words) (pkWval x.words) else some 0) with
  | none => .waiting
  | some 0 => if pkOrder x.words && !orderOk s x then .waiting else .ready s.now
  | some _ => .ended 7 0

/-- Every job whose wait is over leaves it. -/
def settleWaits (s : State) : State :=
  { s with jobs := s.jobs.map fun j => (j.1, if j.2.phase = .waiting then { j.2 with phase := waitOver s j.2 } else j.2) }

/-- Every group blocked in FWAIT on a slot whose wait has a status is released with it; status 0 is an acquire (R187). A group
whose FSIG waits on a proxy that is abandoned goes on with status 2 (R424). -/
def releaseFence (s : State) (slot : Nat) : State :=
  let woken (g : Group) : Option (BitVec 7 × Nat) :=
    match g.block with
    | .fwait n v rd => if n = slot then (slotStatus s slot v).map fun st => (rd, st) else none
    | .fsig n _ rd => if n = slot && slotStatus s slot 0 == some 3 then some (rd, 2) else none
    | _ => none
  settleWaits { s with cores := s.cores.map fun c =>
      let acquires := c.2.groups.any fun g => match woken g.2 with | some (_, st) => st == 0 | none => false
      let c1 := { c.2 with groups := c.2.groups.map fun g =>
        (g.1, match woken g.2 with | some (rd, st) => resumeGroup g.2 rd st | none => g.2) }
      (c.1, if acquires then nearInvalidate c1 else c1) }

/-- Whether an armed event's condition holds (R295). -/
def armHolds (s : State) (a : Arm) : Bool :=
  match tfind s.fences a.slot with
  | some f => if a.onState then f.state == BitVec.ofNat 2 a.value.toNat else decide (a.value.toNat ≤ f.value.toNat)
  | none => false

/-- Arms of a slot whose condition holds fire once and are freed; each sends its vector (R295). -/
def fireArms (s : State) (slot : Nat) : State :=
  let hit := s.arms.filter fun a => a.slot == slot && armHolds s a
  hit.foldl (fun s a => sendVector s a.vi a.vector)
    { s with arms := s.arms.filter fun a => !(a.slot == slot && armHolds s a) }

/-- A fence takes a new record; its waiters and arms are served. -/
def setFence (s : State) (slot : Nat) (f : Fence) : State :=
  fireArms (releaseFence { s with fences := tput s.fences slot f } slot) slot

/-- The generation of a slot (R289). -/
def genOf (s : State) (slot : Nat) : BitVec 16 := tget 0 s.fenceGen slot

/-- A signal of value `v` (R188): the status, and the fence afterwards. `packet`: a refused signal is counted (R291). -/
def signalFence (s : State) (slot : Nat) (v : W64) (packet : Bool) : State × Nat :=
  match tfind s.fences slot with
  | none => (s, 2)
  | some f =>
    let more : Fence := { f with regress := BitVec.ofNat 16 (satAdd 0xFFFF f.regress.toNat 1) }
    let refuse (st : Nat) : State × Nat :=
      (if packet then { s with fences := tput s.fences slot more } else s, st)
    if f.state = fsValue then
      if v.toNat < f.value.toNat then ({ s with fences := tput s.fences slot more }, 1)
      else if v = f.value then (s, 0)
      else if v = BitVec.allOnes 64 then (setFence s slot { f with value := v, state := fsExhausted }, 0)
      else (setFence s slot { f with value := v }, 0)
    else if f.state = fsExhausted then refuse 3
    else refuse 2

/-- A fence enters ERROR, its value unchanged (R297); an exhausted or abandoned fence stays (R290). -/
def fenceError (s : State) (slot : Nat) : State :=
  match tfind s.fences slot with
  | some f => if f.state = fsValue then setFence s slot { f with state := fsError } else s
  | none => s

/-- A fence becomes ABANDONED from any other state (R290). -/
def fenceAbandon (s : State) (slot : Nat) : State :=
  match tfind s.fences slot with
  | some f => if f.state = fsAbandoned then s else setFence s slot { f with state := fsAbandoned }
  | none => s

/-- A slot is freed: its generation increments and its waiters are released as for an abandoned fence (R292). -/
def fenceFreeSlot (s : State) (slot : Nat) : State :=
  let s1 := { s with fences := tdel s.fences slot, fenceGen := tset 0 s.fenceGen slot (genOf s slot + 1),
                     arms := s.arms.filter fun a => a.slot != slot }
  releaseFence s1 slot

/-- Importers of a slot: contexts it was granted to by import, and devices that hold proxies. -/
def hasImporters (f : Fence) : Bool := !f.grants.isEmpty || !f.proxies.isEmpty

/-- Whether a slot is granted to a context (R289). -/
def granted (s : State) (slot ctx : Nat) : Bool :=
  match tfind s.fences slot with
  | some f => (f.owner == ctx && !f.ownerGone && f.home.isNone) || f.grants.contains ctx
  | none => false

/-- A context drops its grant of another owner's slot; an abandoned slot whose owner has gone is freed with its last
grant (R292). A proxy is freed with its last grant. -/
def dropGrant (s : State) (slot ctx : Nat) : State :=
  match tfind s.fences slot with
  | some f =>
    let f1 := { f with grants := f.grants.filter (· != ctx) }
    if !hasImporters f1 && (f1.ownerGone || f1.home.isSome) then fenceFreeSlot s slot
    else { s with fences := tput s.fences slot f1 }
  | none => s

/-! ### Semaphores (R184-R186) -/

/-- Whether a group of a job, resident or saved, holds a semaphore. -/
def jobHolds (s : State) (j n : Nat) : Bool :=
  (s.cores.any fun c => c.2.groups.any fun g => g.2.job == j && g.2.semas.contains n)
  || (match tfind s.jobs j with | some x => x.savedGroups.any fun g => g.2.2.semas.contains n | none => false)

/-- Inherited priorities last until the semaphore is released: each is the highest priority that waits on one still held
(R329). -/
def settleInherits (s : State) : State :=
  { s with jobs := s.jobs.map fun j =>
      if j.2.inherit = 0 then j
      else (j.1, { j.2 with inherit := s.semas.foldl (fun n x =>
        if jobHolds s j.1 x.1 then x.2.waiters.foldl (fun n w => max n w.1) n else n) 0 }) }

/-- The next waiter takes a released semaphore, else it is free; a holder that went away leaves status 1 to the next
acquirer (R185). The acquire invalidates the waiter's near cache (R184). -/
def semaRelease (s : State) (n : Nat) (gone : Bool) : State := settleInherits <|
  match tfind s.semas n with
  | none => s
  | some x =>
    match x.waiters with
    | [] => { s with semas := tput s.semas n { x with holder := none, abandoned := gone, shortNow := x.short } }
    | (_, L, g) :: rest =>
      let s1 := { s with
        semas := tput s.semas n { x with holder := some (L, g), waiters := rest, since := s.now, abandoned := false, shortNow := x.short } }
      match physOf s L with
      | some p =>
        let rd : BitVec 7 := match groupOf s p g with
          | some gr => (match gr.block with | .sema _ rd => rd | _ => 0)
          | none => 0
        nearInvalidateAt (updGroup s1 p g fun gr =>
          let gr1 := resumeGroup gr rd (if gone then 1 else 0)
          { gr1 with semas := gr1.semas ++ [n] }) p
      | none => s1

/-! ### Removing a job's work (R100, R185, R191, R218) -/

/-- A group leaves its slot: its semaphores are released as abandoned, and its place among waiters is dropped. -/
def dropGroup (s : State) (p g : Nat) : State :=
  match groupOf s p g with
  | none => s
  | some gr =>
    let s1 := updCore s p fun c =>
      { c with groups := tdel c.groups g, order := c.order.filter (· != g),
               bars := c.bars.map fun b => (b.1, { b.2 with slots := b.2.slots.filter (· != g) }) }
    let s2 := match logicalOf s p with
      | some L => { s1 with semas := s1.semas.map fun x =>
          (x.1, { x.2 with waiters := x.2.waiters.filter fun w => !(w.2.1 == L && w.2.2 == g) }) }
      | none => s1
    gr.semas.foldl (fun s n => semaRelease s n true) s2

/-- Bytes of a stopped tile that were accepted before the stop land; which ones is free (R218). -/
def landPartial (s : State) (p : Nat) (trans : Tbl Nat) (d : List W64) (t : Nat) : State :=
  let sel := Config.stopLanded s.free
  let beats := Config.stopBeats s.free
  let s0 := rcount { s with free := s.free + 1 } (pgStr p) 0x114 beats
  let cells := (List.range (tileBytes d t).length).zip (tileBytes d t)
  let chosen := cells.filter fun x => sel x.1
  let devAt (va : Nat) : Option Nat := (tfind trans (va / 0x1000)).map fun pp => pp * 0x1000 + va % 0x1000
  match dOp d with
  | 1 => storeBytes s0 (chosen.filterMap fun x => match x.2.1 with
      | .dev va => (devAt va).map fun pa => (pa, lsByte (coreOf s p) x.2.2)
      | .const _ => none)
  | 3 => updCore s0 p fun c => chosen.foldl (fun c x => lsWrite c x.2.2 [Config.stopByte s.free x.1]) c
  | op => updCore s0 p fun c => chosen.foldl (fun c x => match x.2.1 with
      | .const b => lsWrite c x.2.2 [b]
      | .dev va =>
        if op = 2 then lsWrite c x.2.2 [lsByte (coreOf s p) va]
        else match devAt va with | some pa => lsWrite c x.2.2 [memByte s pa] | none => c) c

/-- A stream engine's transfers of a job stop at once; the tile that moves may be left partly written (R218). -/
def stopEngine (s : State) (p j e : Nat) : State :=
  let en := tget {} (coreOf s p).eng e
  let s1 := match en.queue with
    | t :: _ => if t.job = j && t.started then landPartial s p t.trans t.desc t.tile else s
    | [] => s
  updCore s1 p fun c =>
    let en := tget {} c.eng e
    if en.queue.any (fun t => t.job == j) || en.failed.any (fun f => f.1 == j) || en.ended.any (fun f => f.job == j) then
      let rest := en.queue.filter fun t => t.job != j
      { c with eng := tput c.eng e { en with
          queue := rest
          failed := en.failed.filter fun f => f.1 != j
          ended := en.ended.filter fun f => f.job != j
          last := (match rest with | t :: _ => t.seq - 1 | [] => en.next - 1)
          any := true } }
    else c

/-- Bytes of tile `i` of a TRANSFER job: offsets in the copy (R553). -/
def copyTile (words : List W64) (i : Nat) : Nat × Nat :=
  let len := bits (words.getD 6 0) 39 0
  (65536 * i, min 65536 (len - 65536 * i))

/-- A virtual address through held translations. -/
def heldPa (trans : Tbl Nat) (va : Nat) : Option Nat :=
  (tfind trans (va / 0x1000)).map fun pp => pp * 0x1000 + va % 0x1000

/-- The pairs (source, destination) of physical addresses of a copy tile. -/
def copyPairs (words : List W64) (src dst : Tbl Nat) (i : Nat) : List (Nat × Nat) :=
  let (o, n) := copyTile words i
  (List.range n).filterMap fun k =>
    match heldPa src (bits (words.getD 4 0) 47 0 + o + k), heldPa dst (bits (words.getD 5 0) 47 0 + o + k) with
    | some a, some b => some (a, b)
    | _, _ => none

/-- The tiles of a TRANSFER job that have begun stop at once and may be left partly written (R218, R553). -/
def stopCopy (s : State) (p j : Nat) : State :=
  match (coreOf s p).copy, jobOf s j with
  | some x, some jb =>
    if x.job ≠ j then s
    else
      ((List.range 4).zip x.begun).foldl (fun s b =>
        match b.2 with
        | some (src, dst) =>
          let s1 := rcount { s with free := s.free + 1 } (pgStr p) 0x114 (Config.stopBeats s.free)
          let pairs := copyPairs jb.words src dst (x.next.getD b.1 0)
          storeBytes s1 (((List.range pairs.length).zip pairs).filterMap fun y =>
            if Config.stopLanded s.free y.1 then some (y.2.2, memByte s y.2.1) else none)
        | none => s) s
  | _, _ => s

/-- Matrix instructions leave the queue and the array without trace; a started MMA among them leaves no resident tile (R115,
R140). -/
def dropMat (c : Core) (f : MatEntry → Bool) : Core :=
  { c with mat := c.mat.filter fun m => !f m
           tiles := if c.mat.any (fun m => f m && m.op == .mma && m.phase != .queued) then { c.tiles with resident := none } else c.tiles }

/-- Everything of job `j` on core `p` is removed: groups, matrix instructions, barriers, transfers, raster work. -/
def clearCore (s : State) (p j : Nat) : State :=
  let slots := ((coreOf s p).groups.filter fun g => g.2.job == j).map (·.1)
  let s1 := slots.foldl (fun s g => dropGroup s p g) s
  let s2 := stopCopy ([0, 1, 2, 3].foldl (fun s e => stopEngine s p j e) s1) p j
  updCore s2 p fun c =>
    { dropMat c (fun m => m.job == j) with
             bars := c.bars.filter (fun b => b.2.job != j),
             raster := if c.raster.job = some j then {} else c.raster,
             copy := match c.copy with | some x => if x.job = j then none else some x | none => none,
             jobs := c.jobs.filter (· != j) }

/-- The cores on which anything of a job stands. -/
def coresWith (s : State) (j : Nat) : List Nat :=
  allCores.filter fun p =>
    match tfind s.cores p with
    | some c => c.jobs.contains j || c.groups.any (fun g => g.2.job == j) || c.mat.any (fun m => m.job == j)
        || c.eng.any (fun e => e.2.queue.any fun t => t.job == j)
    | none => false

/-- A job's work is removed from every core. -/
def clearJob (s : State) (j : Nat) : State := (coresWith s j).foldl (fun s p => clearCore s p j) s

/-- A job ends with a status and a cause; its completion is still to be written (R286). A job that has ended stays so. -/
def endJob (s : State) (j : Nat) (status cause : Nat) : State :=
  match jobOf s j with
  | some x => match x.phase with
    | .ended _ _ => s
    | _ => updJob (clearJob s j) j fun x =>
        { x with phase := .ended (BitVec.ofNat 8 status) (BitVec.ofNat 8 cause) }
  | none => s

/-! ### Completion (R286-R288, R296, R297) -/

/-- The physical address of `n` bytes at a virtual address that one range entry of a tag covers with W permission. -/
def rangeCovers (s : State) (tag va n : Nat) (write : Bool) : Option Nat :=
  let c := ctxEntry s tag
  if !ctV c then none
  else match rangeFind s (ctRtb c) va with
    | some (_, w0, w1) =>
      if decide ((va + n - 1) / 0x1000 < reVpn w0 + reLen w0) && (if write then reW w1 else reR w1)
      then some (rangePa w0 w1 va) else none
    | none => none

/-- The 16 bytes of a completion record (Table 10-3). -/
def recordBytes (s : State) (q : Nat) (seq : W32) (status cause : Nat) : List Byte :=
  natLe 4 seq.toNat ++ natLe 1 status ++ natLe 1 (if status = 1 then cause else 0) ++ natLe 2 q ++ natLe 8 s.now

/-- The completion record is written to CPL; with an unusable CPL none is written and NOREC counts it (R283, R286). -/
def writeRecord (s : State) (q tag : Nat) (w : List W64) (status cause : Nat) : State :=
  let bs := recordBytes s q (pkSeq w) status cause
  let s1 := { s with queues := match tfind s.queues q with
    | some x => tput s.queues q { x with recLo := BitVec.ofNat 64 (leNat (bs.take 8)), recHi := BitVec.ofNat 64 (leNat (bs.drop 8)) }
    | none => s.queues }
  if pkCpl w = 0 then s1
  else match rangeCovers s tag (pkCpl w) 16 true with
    | some pa => storeAt s1 pa bs
    | none => rbump s (pgQue q) 0x110 15 0 1

/-- Serial comparison: `a` is later than `b` within half the range of 32 bits (R284). -/
def seqLater (a b : W32) : Bool := let d := (a - b).toNat; 0 < d && d < 2 ^ 31

/-- An accepted packet is marked completed, and QUE_DONE takes the highest SEQ up to which all are complete (R286). -/
def updateDone (s : State) (q : Nat) (seq : W32) : State :=
  match tfind s.queues q with
  | none => s
  | some x =>
    let acc := x.accepted.map fun e => if e.1 = seq then (e.1, true) else e
    let done := acc.takeWhile (·.2)
    let s1 := { s with queues := tput s.queues q { x with accepted := acc.dropWhile (·.2) } }
    match done.getLast? with
    | some e => rset s1 (pgQue q) 0x10C e.1
    | none => s1

/-- The fence outcome of a completed packet: its signal for status 0x00, the error state otherwise (R286 item 3, R291,
R297). A signal whose slot has been freed since the check is dropped (R550). -/
def fenceOutcome (s : State) (w : List W64) (gen : BitVec 16) (status : Nat) : State :=
  if !pkSigen w then s
  else if (tfind s.fences (pkSslot w)).isNone || genOf s (pkSslot w) != gen then s
  else if status = 0 then (signalFence s (pkSslot w) (pkSval w) true).1
  else fenceError s (pkSslot w)

/-- The steps of R286 for a packet of queue `q`. -/
def completePacket (s : State) (q tag : Nat) (w : List W64) (gen : BitVec 16) (accepted : Bool) (status cause : Nat) : State :=
  let s1 := writeRecord s q tag w status cause
  let s2 := if accepted then updateDone s1 q (pkSeq w) else s1
  let s3 := fenceOutcome s2 w gen status
  settleWaits (if pkEvt w then raiseIrq s3 (pgQue q) 0 else s3)

/-- A job that has ended completes: its record, QUE_DONE, its fence and its event; it leaves the table of jobs. -/
def completeJob (s : State) (j : Nat) : State :=
  match jobOf s j with
  | some x => match x.phase with
    | .ended st cause =>
      completePacket { s with jobs := tdel s.jobs j } x.queue (tagOf s x.ctx) x.words x.sigGen true st.toNat cause.toNat
    | _ => s
  | none => s

/-- A fetched packet that has not started is discarded: no record, and its SIGEN fence enters ERROR (R298, R551). -/
def discardJob (s : State) (j : Nat) : State :=
  match jobOf s j with
  | some x =>
    let s1 := { s with jobs := tdel s.jobs j }
    if pkSigen x.words && genOf s1 (pkSslot x.words) == x.sigGen then fenceError s1 (pkSslot x.words) else s1
  | none => s

/-- Whether a job has started and not ended. -/
def jobActive (x : Job) : Bool :=
  match x.phase with
  | .started => true
  | .running => true
  | .saved => true
  | _ => false

/-- Whether a job has been fetched and has not started. -/
def jobWaiting (x : Job) : Bool :=
  match x.phase with
  | .waiting => true
  | .ready _ => true
  | _ => false

/-- Identifiers of jobs that satisfy `f`, ascending. -/
def jobsWhere (s : State) (f : Job → Bool) : List Nat := (s.jobs.filter fun e => f e.2).map (·.1)

/-- Queue indices of a context. -/
def queuesOf (s : State) (ctx : Nat) : List Nat := (s.queues.filter fun e => e.2.ctx == ctx).map (·.1)

/-! ### Invalidation of a tag (R268, R269) -/

/-- Every unit drops its entries and prefetched translations of a tag. -/
def dropTag (s : State) (tag : Nat) : State :=
  { s with
    cores := s.cores.map fun c => (c.1, { c.2 with
      tlb1 := c.2.tlb1.filter fun e => e.tag != tag
      tlb2 := c.2.tlb2.filter fun e => e.tag != tag
      walks := c.2.walks.filter fun e => e.tag != tag
      held := tdel c.2.held tag
      eng := c.2.eng.map fun e => (e.1, { e.2 with ahead := e.2.ahead.filter fun a => a.1 != tag }) })
    rangeCache := (s.rangeCache.map fun u => (u.1, u.2.filter fun e => e.tag != tag)).filter fun u => !u.2.isEmpty }

/-- An invalidation completes: DONE_TAG, XLT_INV_SEQ and INV_DONE (R269). -/
def invalidated (s : State) (tag : Nat) : State :=
  raiseIrq (rwrap { s with doneTag := tag } 0x40 0x11C) 0x40 0

/-- A whole invalidation of a tag, as Fragan's commands make it. -/
def invalidateTag (s : State) (tag : Nat) : State := invalidated (dropTag s tag) tag

/-! ### Context loss, process death (R278, R298) -/

/-- Removing the range entries of a tag's table: every entry reads zero. -/
def clearRangeTable (s : State) (tag : Nat) : State :=
  let c := ctxEntry s tag
  if ctV c then storeAt s (ctRtb c) (List.replicate 1024 0) else s

/-- Whether an armed LAUNCH trigger (ACTION 0b001) names a queue (Table 11-3). -/
def launchesOn (q : Nat) (x : Trigger) : Bool := bit x.ctl 31 && bits x.ctl 30 28 == 1 && bits x.aArg 9 0 == q

/-- Every trigger that names a queue is disarmed, when the queue is destroyed or its context leaves LIVE (R318). -/
def disarmOn (s : State) (q : Nat) : State :=
  { s with triggers := s.triggers.map fun t => (t.1, if launchesOn q t.2 then { t.2 with ctl := clrBit t.2.ctl 31 } else t.2) }

/-- The objects of a queue leave the device: QUE_CFG.V reads 0, and every trigger that names it is disarmed (R551, R318). -/
def destroyQueue (s : State) (q : Nat) : State :=
  let s1 := disarmOn ((jobsWhere s fun x => x.queue == q && jobWaiting x).foldl discardJob s) q
  rset (rset { s1 with queues := tdel s1.queues q } (pgQue q) 0x100 0) (pgQue q) 0x110 0

/-- Slots that a context owns, and slots granted to it by import. -/
def ownedFences (s : State) (ctx : Nat) : List Nat :=
  (s.fences.filter fun f => f.2.owner == ctx && f.2.home.isNone && !f.2.ownerGone).map (·.1)
def importedFences (s : State) (ctx : Nat) : List Nat := (s.fences.filter fun f => f.2.grants.contains ctx).map (·.1)

/-- Step 3 of R298 for one context: owned fences are abandoned or freed (all abandoned when `keep`, R300), grants dropped. -/
def dropFences (s : State) (ctx : Nat) (keep : Bool) : State :=
  let s1 := (ownedFences s ctx).foldl (fun s n => match tfind s.fences n with
    | some f =>
      if keep || hasImporters f then
        let s1 := fenceAbandon s n
        match tfind s1.fences n with
        | some f => { s1 with fences := tput s1.fences n { f with ownerGone := true } }
        | none => s1
      else fenceFreeSlot s n
    | none => s) s
  (importedFences s1 ctx).foldl (fun s n => dropGrant s n ctx) s1

/-- Whether a LIVE context holds a tag. -/
def tagLive (s : State) (tag : Nat) : Bool := s.contexts.any fun c => c.2.tag == tag && c.2.state == .live

/-- Once no LIVE context holds a tag, the edge engines bound to it issue no new beat: its channels read off, every layer of its
pipes turns off, and its compression rings stop, a descriptor in progress writing no record (R387, R406). -/
def stopEdges (s : State) (tag : Nat) : State :=
  if tagLive s tag then s
  else { s with
    vchans := s.vchans.map fun c =>
      (c.1, if bits c.2.ctl 11 0 == tag then { c.2 with ctl := clrBit c.2.ctl 31, state := 0, inFrame := false } else c.2)
    pipes := s.pipes.map fun c =>
      (c.1, if bits c.2.cfg 11 0 == tag then { c.2 with layersOff := 0xFF, wbStopped := true } else c.2)
    cprs := s.cprs.map fun c =>
      let stops (n : Nat) : Bool := match tfind c.2.rings n with | some r => bits r.ctl 11 0 == tag | none => false
      (c.1, { c.2 with
        rings := c.2.rings.map fun r => (r.1, if bits r.2.ctl 11 0 == tag then { r.2 with ctl := clrBit r.2.ctl 31 } else r.2)
        desc := if stops c.2.serving then none else c.2.desc
        outcome := if stops c.2.serving then none else c.2.outcome }) }

/-- Step 4 of R298: the tag is invalidated; with its last context the range entries go, the entry and the tag are free. -/
def releaseTag (s : State) (ctx : Nat) : State :=
  match ctxOf s ctx with
  | none => s
  | some c =>
    let s1 := invalidateTag s c.tag
    let s2 := (queuesOf s1 ctx).foldl destroyQueue s1
    let shared := s2.contexts.any fun e => e.1 != ctx && e.2.tag == c.tag
    let s3 := if shared then s2
      else
        let s3 := clearRangeTable s2 c.tag
        { s3 with ctxTab := tset 0 s3.ctxTab c.tag 0,
                  pools := s3.pools.filter (fun x => x.1 != c.tag), advice := s3.advice.filter (fun a => a.tag != c.tag) }
    { s3 with contexts := tdel s3.contexts ctx,
              semas := s3.semas.filter fun x => x.2.ctx != ctx }

/-- The sequence of process death for one context (R298): queues stop and unstarted packets are discarded; running jobs are
killed and complete with status 0x04; fences, tag, queues and the context go. `quiet`: unstarted packets complete with
status 0x04 instead of being discarded (R300, R301). -/
def killContext (s : State) (ctx : Nat) (abandonAll quiet : Bool) : State :=
  match ctxOf s ctx with
  | none => s
  | some c =>
    let s0 := stopEdges { s with contexts := tput s.contexts ctx { c with state := .dying } } c.tag
    let s1 := (jobsWhere s0 fun x => x.ctx == ctx && jobWaiting x).foldl
      (fun s j => if quiet then completeJob (endJob s j 4 0) j else discardJob s j) s0
    let s2 := (jobsWhere s1 fun x => x.ctx == ctx).foldl (fun s j => completeJob (endJob s j 4 0x0A) j) s1
    releaseTag (dropFences s2 ctx abandonAll) ctx

/-- The lowest number below `top` that `used` does not hold. -/
def lowestFree (top : Nat) (used : Nat → Bool) : Option Nat := (List.range top).find? fun n => !used n

/-- Whether a tag is in use, or has an invalidation waiting or running (R251, R270). -/
def tagBusy (s : State) (t : Nat) : Bool :=
  s.contexts.any (fun c => c.2.tag == t) || s.invQueue.contains t || s.invRun == some t

/-- Address of the range table of a tag in partition `i`: Fragan places it in the area, at place `tag` (R253; the place is a
DESIGN CHOICE, notes/assumptions/12.md). -/
def rangeTableAt (s : State) (i tag : Nat) : Nat := rangeAreaLo s i + tag * 0x400

/-- A context with a new tag in partition `i` and a root page (R251, R252). -/
def newContext (s : State) (ctx tag vi i root : Nat) : State :=
  let e : BitVec 128 := BitVec.ofNat 128
    (2 ^ 63 + i * 2 ^ 60 + vi * 2 ^ 54 + root + (rangeTableAt s i tag / 0x400) * 2 ^ 64)
  let s1 := { s with ctxTab := tset 0 s.ctxTab tag e }
  { clearRangeTable s1 tag with contexts := tput s1.contexts ctx { vi, part := i, tag } }

/-- A queue comes into being: its page shows it, its counts are zero, and its interrupt output is enabled (R280, R505). -/
def newQueue (s : State) (n : Nat) (q : Queue) : State :=
  let cfg := 2 ^ 31 + q.prio * 2 ^ 28 + (q.log2 - 4) * 2 ^ 24 + q.ctx
  let s1 := rset { s with queues := tput s.queues n q } (pgQue n) 0x100 (BitVec.ofNat 32 cfg)
  rset (rset ([0x104, 0x10C, 0x110, 0x114].foldl (fun s off => rset s (pgQue n) off 0) s1) (pgQue n) 0x04 0x80000000) (pgQue n) 0x0C 0xF

/-- Range entries of a tag, from entry `i` of its table up. -/
def putRanges (tag : Nat) : Nat → List (W64 × W64) → State → State
  | _, [], s => s
  | i, (w0, w1) :: rest, s =>
    if i < 64 then putRanges tag (i + 1) rest (storeAt s (ctRtb (ctxEntry s tag) + 16 * i) (natLe 8 w0.toNat ++ natLe 8 w1.toNat)) else s

/-- Fragan creates the context of a stage, of function 0, and its queue (R305): their numbers, or the status of a refusal. -/
def makeStage (s : State) (st : StagePlan) : Except Nat (State × Nat × Nat) :=
  if (tfind s.parts st.part).isNone || st.log2 < 4 || decide (16 < st.log2) then .error 2
  else match lowestFree 4096 (tagBusy s), lowestFree 4096 (fun n => (tfind s.contexts n).isSome),
      lowestFree 1024 (fun n => (tfind s.queues n).isSome) with
    | some tag, some ctx, some q =>
      let s1 := putRanges tag 0 st.ranges (newContext s ctx tag 0 st.part (st.root % 2 ^ 46 / 0x1000 * 0x1000))
      .ok (newQueue s1 q { ctx, log2 := st.log2, prio := st.prio % 8, vector := st.vector % 64, ring := st.ring, ringPa := st.ringPa }, ctx, q)
    | _, _, _ => .error 1

/-- Whether a context belongs to a stage of a running service graph, and which. -/
def stageOf (s : State) (ctx : Nat) : Option (Nat × Graph × Nat) :=
  (s.graphs.find? fun g => g.2.running && g.2.stages.any fun st => st.1 == ctx).bind fun g =>
    (g.2.stages.findIdx? fun st => st.1 == ctx).map fun k => (g.1, g.2, k)

/-- A stage of a running service graph whose context is lost: Fragan destroys the context and creates it afresh with a new
tag and its queue again (R305); the triggers of the stage launch on the new queue; it writes a journal record. -/
def restartStage (s : State) (ctx : Nat) : State :=
  match stageOf s ctx with
  | none => s
  | some (gn, gr, k) =>
    match gr.stages[k]?, gr.plan.stages[k]? with
    | some st, some plan =>
      let launched := (s.triggers.filter fun t => launchesOn st.2 t.2).map (·.1)
      let s1 := killContext s ctx false false
      match makeStage s1 plan with
      | .error _ => s1
      | .ok (s2, ctx', q') =>
        let again (x : Trigger) : Trigger := { x with
          ctl := setBit x.ctl 31, arg := putBits x.arg 9 0 q', aArg := putBits x.aArg 9 0 q' }
        journal { s2 with
          triggers := s2.triggers.map fun t => (t.1, if launched.contains t.1 then again t.2 else t.2)
          graphs := tput s2.graphs gn { gr with stages := modifyAt gr.stages k fun _ => (ctx', q') } } 4 1 (natLe 2 ctx)
    | _, _ => s

/-- The context of a job that faulted becomes LOST: its other running jobs are killed with status 0x02, its packets
fetched but not started are not run, and LOST is raised in each of its queues (R278, R295). -/
def loseContext (s : State) (ctx : Nat) : State :=
  match ctxOf s ctx with
  | some c =>
    if c.state ≠ .live then s
    else
      let s1 := stopEdges { s with contexts := tput s.contexts ctx { c with state := .lost } } c.tag
      let s2 := (jobsWhere s1 fun x => x.ctx == ctx && (jobActive x || jobWaiting x)).foldl (fun s j => endJob s j 2 0) s1
      let stage := (stageOf s2 ctx).isSome
      let s3 := (queuesOf s2 ctx).foldl (fun s q => raiseIrq (if stage then s else disarmOn s q) (pgQue q) 1) s2
      restartStage s3 ctx
  | none => s

/-- A job ends with a fault: its other groups are killed, it completes with status 0x01 and the cause, and its context is
lost (R100, R296). -/
def faultJob (s : State) (j cause : Nat) : State :=
  match jobOf s j with
  | some x => loseContext (endJob s j 1 cause) x.ctx
  | none => s

/-- A stopped job under R135, R212 and R229: a restartable one (RESTART = 1) starts again from its beginning, unless
`never`; another completes with the hardware-error status 0x03. The context stays LIVE. -/
def stopJob (s : State) (j : Nat) (never : Bool) : State :=
  match jobOf s j with
  | some x =>
    match x.phase with
    | .ended _ _ => s
    | _ =>
      if pkRestart x.words && !never then
        updJob (clearJob s j) j fun x =>
          { x with phase := .ready s.now, cores := [], nextGroup := 0, liveGroups := 0, batch := {},
                   savedGroups := [], savedEng := [], savedAcc := [], savedLs := [] }
      else endJob s j 3 0
  | none => s

/-! ### The exception of a group (R98-R102) -/

/-- The fault record of a core (R102, R107): held when none is, else MULTI is set and it is journalled only. -/
def recordFault (s : State) (p g cause : Nat) (pc : W64) (addr : W64) (mask : Mask) : State :=
  let held := infoHeld s (pgCore p) 0x110
  let s1 := capture s (pgCore p) 0x110 30 (g * 2 ^ 24 + cause * 2 ^ 16)
  if held then journal s1 (pgCore p) 0 (natLe 8 pc.toNat ++ natLe 8 addr.toNat)
  else updCore s1 p fun c => { c with fltPc := pc.setWidth 48, fltAddr := addr, fltMask := mask }

/-- Taking an exception in slot `g` of core `p` (R99-R101): the faulting instruction has no effect; the fault is
recorded; for causes 0x01-0x08 the job ends with a fault and the context is lost. -/
def takeException (s : State) (p g cause : Nat) (pc : W64) (addr : W64) (mask : Mask) : State :=
  match groupOf s p g with
  | some gr =>
    let s1 := recordFault s p g cause pc addr mask
    if cause = 9 then updGroup s1 p g fun x => { x with block := .breakpoint }
    else faultJob s1 gr.job cause
  | none => s

end Sys2Proof.Machine
end

