-- ==== Sys2Proof/Machine/Operands.lean ====
section
/-! DEFINITION. The operand forms of core instructions: register kinds (R146), the MOD layouts (R149, R172), and the
field checks that the instructions share (R147, R150, R158). -/
namespace Sys2Proof.Machine

/-- Legal values of the register kinds (Table 05-2, R70). -/
def kS (x : BitVec 7) : Bool := decide (x.toNat < 64)
def kV (g : Group) (x : BitVec 7) : Bool := decide (x.toNat < g.vregs)
def kP (x : BitVec 7) : Bool := decide (x.toNat < 8)
def kC (x : BitVec 7) : Bool := decide (x.toNat < 4)
def kA (x : BitVec 7) : Bool := decide (x.toNat < 4)
def kU (x : BitVec 7) : Bool := x == 0

/-- Bits [hi:lo] of MOD. -/
def md (w : InsnWord) (hi lo : Nat) : Nat := bits w.md hi lo

/-- Format R fields (Table 05-3). -/
def mRM (w : InsnWord) : Nat := md w 23 21
def mSAT (w : InsnWord) : Bool := bit w.md 20
def mBS (w : InsnWord) : Bool := bit w.md 19
def mTYPE (w : InsnWord) : Nat := md w 18 16
def mSUB (w : InsnWord) : Nat := md w 15 12
def mELEM (w : InsnWord) : Nat := md w 11 8
def mPDST (w : InsnWord) : Bool := bit w.md 7
/-- Format S fields. -/
def mCOND (w : InsnWord) : Nat := md w 23 20
def mIMM (w : InsnWord) : Bool := bit w.md 19
def mIMM19 (w : InsnWord) : Int := sbits w.md 18 0
/-- Format I and B fields. -/
def mIMM24 (w : InsnWord) : Nat := w.md.toNat
def mOFF24 (w : InsnWord) : Int := w.md.toInt
/-- Format C fields. -/
def mSRC (w : InsnWord) : Nat := md w 19 16
def mDST (w : InsnWord) : Nat := md w 15 12
def mPOS (w : InsnWord) : Nat := md w 11 9
/-- Format M fields. -/
def mSCOPE (w : InsnWord) : Nat := md w 23 22
def mORD (w : InsnWord) : Nat := md w 21 20
def mSIZE (w : InsnWord) : Nat := 2 ^ md w 19 18
def mSX (w : InsnWord) : Bool := bit w.md 17
def mSPACE (w : InsnWord) : Bool := bit w.md 16
def mAOP (w : InsnWord) : Nat := md w 15 12
def mOFF10 (w : InsnWord) : Int := sbits w.md 9 0
/-- Format X, E, D and Y fields (Table 06-3). -/
def mFMT (w : InsnWord) : Nat := md w 23 20
def mAFMT (w : InsnWord) : Nat := md w 19 16
def mMPREC (w : InsnWord) : Nat := md w 15 14
def mBSRC (w : InsnWord) : Nat := md w 13 12
def mACC (w : InsnWord) : Bool := bit w.md 11
def mEOP (w : InsnWord) : Nat := md w 23 20
def mITYPE (w : InsnWord) : Bool := bit w.md 19
def mENG (w : InsnWord) : Nat := md w 21 20
def mBID (w : InsnWord) : Nat := md w 19 16
def mTMO (w : InsnWord) : Nat := md w 15 0

/-- Bits [hi:lo] of MOD are zero. -/
def mz (w : InsnWord) (hi lo : Nat) : Bool := md w hi lo == 0

/-- The element width of TYPE (Table 05-4). -/
def typeWidth (t : Nat) : Nat :=
  match t with | 0 => 32 | 1 => 16 | 2 => 32 | 3 => 16 | _ => 8
/-- Elements per thread of TYPE. -/
def typeCount (t : Nat) : Nat := 64 / typeWidth t

/-- Whether TYPE is an integer type, or a floating type. -/
def typeInt (t : Nat) : Bool := decide (2 ≤ t) && decide (t ≤ 5)
def typeFloat (t : Nat) : Bool := decide (t ≤ 1)
/-- The integer and floating formats of TYPE. -/
def typeIFmt (t : Nat) : IFmt := { w := typeWidth t, signed := t != 5 }
def typeFmt (t : Nat) : Fmt := if t = 0 then binary32 else binary16

/-- Element `i` of width `w` of a register, and a register of its elements. -/
def elem (w : Nat) (x : W64) (i : Nat) : Nat := nbits x.toNat (w * i + w - 1) (w * i)
def pack (w : Nat) (xs : List Nat) : W64 :=
  BitVec.ofNat 64 (xs.foldr (fun x a => a * 2 ^ w + x % 2 ^ w) 0)

/-- Field B of kind S when BS = 1 and of kind V otherwise (R150). -/
def kB (g : Group) (w : InsnWord) : Bool := if mBS w then kS w.b else kV g w.b

/-- Element `i` of operand b: of v[b], or bits [w-1:0] of s[b] for every element (R150). -/
def bElem (g : Group) (w : InsnWord) (t i : Nat) : Nat :=
  let wd := typeWidth (mTYPE w)
  if mBS w then (sGet g w.b.toNat).toNat % 2 ^ wd else elem wd (vGet g w.b.toNat t) i
def aElem (g : Group) (w : InsnWord) (t i : Nat) : Nat := elem (typeWidth (mTYPE w)) (vGet g w.a.toNat t) i
def cElem (g : Group) (w : InsnWord) (t i : Nat) : Nat := elem (typeWidth (mTYPE w)) (vGet g w.c.toNat t) i

/-- Operand b of format S: s[b], or IMM19 sign-extended (05_instruction_encoding.md, before Table 05-8). -/
def sB (g : Group) (w : InsnWord) : W64 :=
  if mIMM w then BitVec.ofInt 64 (mIMM19 w) else sGet g w.b.toNat
/-- Field B of format S: kind S, or unused when IMM = 1. -/
def kSB (w : InsnWord) : Bool := if mIMM w then kU w.b else kS w.b

/-- ELEM and PDST of a comparison (R158). -/
def cmpElemLegal (w : InsnWord) : Bool :=
  if mPDST w then decide (mELEM w < typeCount (mTYPE w)) || mELEM w == 8 || mELEM w == 9 else mELEM w == 0
/-- Field D of a comparison: kind P when PDST = 1, else V. -/
def cmpDest (g : Group) (w : InsnWord) : Bool := if mPDST w then kP w.d else kV g w.d

/-- Integer outcome of a comparison code, 0x0-0x5, on values of a format (Table 05-11): UINT8 compares unsigned under
every code. -/
def icompare (f : IFmt) (cond x y : Nat) : Bool :=
  let sx := f.val x
  let sy := f.val y
  match cond with
  | 0 => x == y
  | 1 => x != y
  | 2 => decide (sx < sy)
  | 3 => decide (sx ≤ sy)
  | 4 => decide (x < y)
  | _ => decide (x ≤ y)

end Sys2Proof.Machine
end

