-- ==== Sys2Proof/Machine/Issue.lean ====
section
/-! DEFINITION. The issue of one instruction by one group: choosing the issue set (R76-R78), fetching (R152, R153), the
field check (R147), participation (R148), and moving the program counters behind it. Every core instruction's meaning is
this shell with the instruction's own field check and effect. -/
namespace Sys2Proof.Machine

/-- Tenths of core clocks per nanosecond at an operating point, OP0-OP3 (0.4, 0.8, 1.2, 1.6 GHz). -/
def opRate (op : Nat) : Nat := 4 * (op + 1)

/-- Core clocks since the core was last placed into service, in tenths (SRD selector 0x02). -/
def coreTenths (s : State) (p : Nat) : Nat :=
  (coreOf s p).clkTenths + (s.now - (coreOf s p).clkAt) * opRate (tget {} s.domains p).op

/-- An instruction about to take effect: core, slot, group, job and tag, issue set, its program counter, the
participating threads, and the word. -/
structure Iss where
  p : Nat
  g : Nat
  gr : Group
  job : Nat
  tag : Nat
  set : Mask
  pc : W64
  part : Mask
  w : InsnWord
deriving DecidableEq, Repr

/-- What an instruction does: its result in the group's registers, or in the whole state; the same with the program
counters already moved; nothing yet (it issues again later); or an exception. -/
inductive Eff where
  | reg (g : Group)
  | done (s : State)
  | movedG (g : Group)
  | moved (s : State)
  | held (s : State)
  | trap (cause : Nat) (addr : W64) (mask : Mask)

/-- Threads of the issue set for which p[PRED] XOR NEG is true (R148). -/
def partMask (g : Group) (w : InsnWord) (set : Mask) : Mask :=
  let p := pGet g w.pred.toNat
  set &&& (if w.neg then ~~~ p else p)

/-- What happens before the instruction is checked: nothing can issue; the fetch stops it and leaves this state; or it
goes on. -/
inductive Prep where
  | idle
  | stop (s : State)
  | go (i : Iss)

/-- The forward-progress threshold of R77 in force. -/
def fwdThreshold (c : Core) : Nat := 2 ^ (bits c.cfg 11 8 + 4)

/-- The program counter whose issue set issues: the granted one, else the lowest (R76, R77); none when no thread is a
candidate or a grant of R77 is due. -/
def issuePc (c : Core) (g : Group) : Option W64 :=
  match g.granted with
  | some v => if atPc g (candidates g) v = 0 then lowestPc g else some v
  | none => if g.issueRun ≥ fwdThreshold c then none else lowestPc g

/-- Operations in flight of slot `g` (R80): its instructions in the matrix queue or array, and its stores that have not left the
core. -/
def inFlightOf (c : Core) (g : Nat) : Nat :=
  (c.mat.filter fun m => m.slot == g).length
  + (((c.merge.filter fun e => !e.sent).flatMap fun e => e.stores).filter fun x => x.1 == g).eraseDups.length

/-- Issue set, fetch and participation for slot `g` of core `p` (R73, R76, R148, R152, R153). -/
def prepare (s : State) (p g : Nat) (w : InsnWord) : Prep :=
  match groupOf s p g with
  | none => .idle
  | some gr =>
    match jobOf s gr.job, issuePc (coreOf s p) gr with
    | some j, some pc =>
      if gr.block ≠ .none || inFlightOf (coreOf s p) g ≥ 128 || j.phase ≠ .running then .idle
      else
        let set := atPc gr (candidates gr) pc
        let tag := tagOf s j.ctx
        match xlate s p tag pc.toNat .x with
        | .miss =>
          match gr.xfault with
          | some (page, cause) =>
            if page = pc.toNat / 0x1000 then .stop (takeException s p g cause pc pc set)
            else .stop (setGroup s p g { gr with block := .walk pc .x })
          | none => .stop (setGroup s p g { gr with block := .walk pc .x })
        | .fault f =>
          .stop (takeException (xltRecord s f true (logicalOf s p |>.getD 0) tag pc.toNat) p g f.cause pc pc set)
        | .ok _ _ =>
          if (coreOf s p).icache.contains (tag, pc.toNat / 128) then
            .go { p, g, gr, job := gr.job, tag, set, pc, part := partMask gr w set, w }
          else .stop (setGroup s p g { gr with block := .fetch pc })
    | _, _ => .idle

/-- The group after an issue: the grant and the boost of the slot class end, and the count of R77 goes on. -/
def afterIssue (i : Iss) (cls : Nat) (g : Group) : Group :=
  let others := candidates i.gr &&& ~~~ i.set
  { g with
    granted := none
    released := false
    xfault := none
    boost := clrBit g.boost cls
    issueRun := if others = 0 then 0 else if i.set = i.gr.lastSet then i.gr.issueRun + 1 else 1
    lastSet := i.set
    issues := i.gr.issues + 1
    lastIssue := (lanesOf i.set).foldl (fun t l => tset 0 t l (i.gr.issues + 1)) g.lastIssue }

/-- The issue set moves to the next instruction. -/
def advance (i : Iss) (g : Group) : Group := pcSetIn g i.set (i.pc + 8)

/-- The commitment of an instruction of class `cls` is counted (Table 20-2); one that took a matrix-queue entry since `s` is counted
when the entry commits. -/
def countIssue (s : State) (i : Iss) (cls : Nat) (s' : State) : State :=
  if (coreOf s' i.p).mat.length > (coreOf s i.p).mat.length then s' else pmcCore s' i.p (1 + cls) 1

/-- The state after an instruction's effect. -/
def finish (s : State) (i : Iss) (cls : Nat) : Eff → State
  | .reg g => pmcCore (setGroup s i.p i.g (afterIssue i cls (advance i g))) i.p (1 + cls) 1
  | .movedG g => pmcCore (setGroup s i.p i.g (afterIssue i cls g)) i.p (1 + cls) 1
  | .done s' => countIssue s i cls (updGroup s' i.p i.g fun g => afterIssue i cls (advance i g))
  | .moved s' => countIssue s i cls (updGroup s' i.p i.g fun g => afterIssue i cls g)
  | .held s' => s'
  | .trap cause addr mask => takeException s i.p i.g cause i.pc addr mask

/-- One issue: nothing, a stop of the fetch, cause 0x01 for an illegal word, cause 0x06 for a bad register, or the
instruction's effect. -/
def issueAt (s : State) (p g : Nat) (w : InsnWord) (cls : Nat) (legal : Group → InsnWord → Bool)
    (body : Iss → State → Eff) : State :=
  match prepare s p g w with
  | .idle => s
  | .stop s' => s'
  | .go i =>
    if !legal i.gr w then takeException s p g 1 i.pc 0 i.set
    else if w.flaw = .register ∧ i.part ≠ 0 then takeException s p g 6 i.pc 0 i.part
    else finish s i cls (body i s)

/-- The meaning of a core instruction of issue class `cls` (0 vector, 1 scalar, 2 memory, 3 matrix). -/
def issue (p g : Nat) (w : InsnWord) (cls : Nat) (legal : Group → InsnWord → Bool) (body : Iss → State → Eff)
    (s : State) : Out :=
  onUnit (decide (p < 36) && decide (g < 48)) (.next (issueAt s p g w cls legal body))

/-- A result that is written once when at least one thread participates (R78). -/
def once (f : Iss → Group) (i : Iss) (_ : State) : Eff := if i.part = 0 then .reg i.gr else .reg (f i)

/-- A result for each participating thread, in ascending lane order; each lane reads the registers as they were. -/
def perLane (f : Iss → Group → Nat → Group) (i : Iss) (_ : State) : Eff :=
  .reg ((lanesOf i.part).foldl (fun g t => f i g t) i.gr)

end Sys2Proof.Machine
end

