-- ==== Sys2Proof/Machine/Caches.lean ====
section
/-! DEFINITION. The near cache, the merging buffer and the window accesses of a core as loads and stores use them
(R81-R89, R93, R549, R264, R422), and the record of a local-store data error (R197, R212). -/
namespace Sys2Proof.Machine

/-! ### Tree pseudo-LRU (R240, R549) -/

/-- The tree after an access to way `v` of 2^levels ways: each node on the way's path points away from it. -/
def plruTouch {n : Nat} (tree : BitVec n) (v : Nat) : Nat → Nat → BitVec n
  | 0, _ => tree
  | l + 1, k =>
    let up := v.testBit l
    plruTouch (if up then clrBit tree k else setBit tree k) v l (2 * k + (if up then 1 else 0))

/-- Whether the subtree of node `k`, with `l` levels below it, holds a way that `ok` allows. -/
def plruHas (ok : Nat → Bool) (k l ways : Nat) : Bool :=
  (List.range (2 ^ l)).any fun j => ok (k * 2 ^ l + j - ways)

/-- The victim way under the tree, among the ways that `ok` allows. -/
def plruVictim {n : Nat} (tree : BitVec n) (ok : Nat → Bool) (ways : Nat) : Nat → Nat → Nat
  | 0, k => k - ways
  | l + 1, k =>
    let up := bit tree k
    let up := if plruHas ok (2 * k + (if up then 1 else 0)) l ways then up else !up
    plruVictim tree ok ways l (2 * k + (if up then 1 else 0))

/-! ### The near cache (R549) -/

/-- Set and tag of a line. -/
def nearSet (pa : Nat) : Nat := pa / 128 % 128
def nearTag (pa : Nat) : Nat := pa / 16384

/-- The way of a set that holds the line of `pa`. -/
def nearWay (c : Core) (pa : Nat) : Option Nat :=
  (List.range 8).find? fun w =>
    match tfind c.near (8 * nearSet pa + w) with
    | some l => l.valid && l.tag == nearTag pa
    | none => false

/-- The tree of a line's set points away from way `w`. -/
def nearTouch (c : Core) (pa w : Nat) : Core :=
  { c with nearTree := tset 0 c.nearTree (nearSet pa) (plruTouch (tget 0 c.nearTree (nearSet pa)) w 3 1) }

/-- The core after a hit on the line of `pa`. -/
def nearHit (c : Core) (pa : Nat) : Core :=
  match nearWay c pa with | some w => nearTouch c pa w | none => c

/-- A byte that the near cache holds. -/
def nearByte (c : Core) (pa : Nat) : Option Byte :=
  match nearWay c pa with
  | some w => (tfind c.near (8 * nearSet pa + w)).map fun l => tget 0 l.bytes (pa % 128)
  | none => none

/-- A store that hits updates the cached line (R85). -/
def nearStore (c : Core) (pa : Nat) (bs : List Byte) : Core :=
  match nearWay c pa with
  | some w =>
    let k := 8 * nearSet pa + w
    match tfind c.near k with
    | some l => nearTouch { c with near := tput c.near k { l with bytes := twrites 0 l.bytes (pa % 128) bs } } pa w
    | none => c
  | none => c

/-- A fill is placed: the lowest invalid way, else the victim of the tree (R549). -/
def nearFill (c : Core) (pa : Nat) (bs : List Byte) : Core :=
  let free := (List.range 8).find? fun w =>
    match tfind c.near (8 * nearSet pa + w) with | some l => !l.valid | none => true
  let w := match free with
    | some w => w
    | none => plruVictim (tget 0 c.nearTree (nearSet pa)) (fun _ => true) 8 3 1
  nearTouch { c with near := tput c.near (8 * nearSet pa + w) { valid := true, tag := nearTag pa, bytes := twrites 0 [] 0 bs } } pa w

/-- One line leaves the near cache. -/
def nearDrop (c : Core) (pa : Nat) : Core :=
  match nearWay c pa with
  | some w =>
    match tfind c.near (8 * nearSet pa + w) with
    | some l => { c with near := tput c.near (8 * nearSet pa + w) { l with valid := false } }
    | none => c
  | none => c

/-! ### The merging buffer (R85) -/

/-- Entries of the buffer that have not been drained. -/
def openEntries (c : Core) : List MergeEntry := c.merge.filter fun e => !e.sent
/-- Entries that the buffer holds. -/
def mergeSize : Nat := 16

/-- A byte that waits in the buffer (R86). -/
def mergeByte (c : Core) (pa : Nat) : Option Byte :=
  match (openEntries c).find? fun e => e.line == lineOf pa with
  | some e => if e.mask.contains (pa % 128) then some (tget 0 e.bytes (pa % 128)) else none
  | none => none

/-- Bytes merged into an entry, by the store `n` of slot `g`; a later store to a byte replaces the earlier one. -/
def mergeInto (e : MergeEntry) (off : Nat) (bs : List Byte) (g n : Nat) : MergeEntry :=
  { e with
    bytes := twrites 0 e.bytes off bs
    mask := e.mask ++ (((List.range bs.length).map (off + ·)).filter fun o => !e.mask.contains o)
    stores := if e.stores.contains (g, n) then e.stores else e.stores ++ [(g, n)] }

/-- A store enters the buffer: into the open entry of its line, or a new one. -/
def mergeStore (c : Core) (pa : Nat) (bs : List Byte) (na : Bool) (g n : Nat) : Core :=
  if (openEntries c).any fun e => e.line == lineOf pa then
    { c with merge := c.merge.map fun e => if !e.sent && e.line == lineOf pa then mergeInto e (pa % 128) bs g n else e }
  else
    { c with
      merge := c.merge ++ [mergeInto { serial := c.mergeNext, line := lineOf pa, bytes := [], mask := [], na } (pa % 128) bs g n]
      mergeNext := c.mergeNext + 1 }

/-- An entry's bytes reach the system cache (R85, R89, R229). -/
def drainEntry (s : State) (e : MergeEntry) (err : Bool) : State :=
  let s1 := storeBytes s (e.mask.map fun o => (e.line + o, tget 0 e.bytes o))
  if err then poisonLine s1 e.line else s1

/-- Request tags in use on a core (R81): fills, drains not acknowledged, and window accesses not answered. -/
def tagsUsed (s : State) (p : Nat) : Nat :=
  let c := coreOf s p
  let waits := c.groups.foldl (fun n g => n + match g.2.block with
    | .load l => (l.missing.filter fun a => a ≥ hbmTop).length
    | _ => 0) 0
  c.fills.length + (c.merge.filter fun e => e.sent).length + waits
  + (s.remotes.filter fun r => r.core == p && r.kind == 1).length

/-- Tags free to thread groups: the group reserve and the shared pool (R81, R82). -/
def groupTagsFree (s : State) (p : Nat) : Nat := 768 - tagsUsed s p

/-! ### Window accesses (R264, R265, R414, R421-R423) -/

/-- The link that the route of a destination names (R421). -/
def routeOf (s : State) (dst : Nat) : Option Nat :=
  let n := if dst < 8 then rbits s 0x210 0x184 (4 * dst + 3) (4 * dst) else rbits s 0x210 0x188 (4 * (dst - 8) + 3) (4 * (dst - 8))
  if n < 8 then some n else none

/-- The record of a link. -/
def linkOf (s : State) (n : Nat) : Link := tget {} s.links n
def setLink (s : State) (n : Nat) (l : Link) : State := { s with links := tput s.links n l }

/-- Link states (Table 15-5). -/
def lkDown : Nat := 0
def lkTraining : Nat := 1
def lkTrained : Nat := 2
def lkUp : Nat := 3
def lkRetraining : Nat := 4

/-- The UP link that carries traffic to a Spoke window address, if there is one. -/
def spokeLink (s : State) (pa : Nat) : Option Nat :=
  let w := (pa - spokeBase) / spokeSize
  match routeOf s (bits (owin s w) 11 8) with
  | some n => if (linkOf s n).state = lkUp then some n else none
  | none => none

/-- This device's Tandem ID (R419). -/
def ownId (s : State) : Nat := rbits s 0x210 0x180 3 0

/-- Flits that the replay buffer holds (R415). -/
def replaySize : Nat := 256

/-- CTR of a link would wrap with its next flit: it retrains and takes new keys first (R418). -/
def ctrSpent (l : Link) : Bool := decide (2 ^ 48 - 1 ≤ l.ctr)

/-- A packet of `slots` slots leaves over a link that holds the credits of its virtual channel for it (R413, R414), in a flit of its
own that the replay buffer keeps (R415); none when it has to wait. -/
def linkSend (s : State) (n slots : Nat) (pk : RemotePacket) : Option State :=
  let l := linkOf s n
  let credits := if pk.vc = 0 then l.crReq else if pk.vc = 1 then l.crRsp else l.crCtl
  if credits < slots || decide (replaySize ≤ l.replay.length) || ctrSpent l then none
  else some (setLink (pmcEvent s 8 n 0 1) n { l with
    crReq := if pk.vc = 0 then l.crReq - slots else l.crReq
    crRsp := if pk.vc = 1 then l.crRsp - slots else l.crRsp
    crCtl := if pk.vc = 0 || pk.vc = 1 then l.crCtl else l.crCtl - slots
    replay := l.replay ++ [(l.nextSeq, pk)]
    nextSeq := (l.nextSeq + 1) % 4096
    ctr := l.ctr + 1
    sent := l.sent + 1 })

/-- An access to a Spoke window is sent and waits for its answer (R422, R423). -/
def sendRemote (s : State) (p g j pa size kind : Nat) : Option State :=
  match spokeLink s pa with
  | none => none
  | some n =>
    let w := (pa - spokeBase) / spokeSize
    let slots := if kind = 0 then 1 else 2
    let pk : RemotePacket := { op := kind, src := ownId s, dst := bits (owin s w) 11 8, win := bits (owin s w) 3 0, srcWin := w,
                               offset := pa % spokeSize, len := slots - 1, tag := s.nextTag % 2 ^ 16 }
    (linkSend s n slots pk).map fun s1 =>
      { s1 with
        remotes := s1.remotes ++ [{ tag := s1.nextTag % 2 ^ 16, link := n, since := s1.now, core := p, slot := g, job := j, pa, size, kind }]
        nextTag := s1.nextTag + 1 }

/-- Several accesses sent one after another; none when a credit is missing. -/
def sendRemotes (s : State) (p g j size kind : Nat) (pas : List Nat) : Option State :=
  pas.foldl (fun o pa => match o with | some s => sendRemote s p g j pa size kind | none => none) (some s)

/-! ### Source data errors (R197, R212) -/

/-- A stream or local-store record (Table 07-8, R221): the first is held; others set MULTI and are journalled. -/
def strRecord (s : State) (p eng kind tile : Nat) (addr : W64) (seq : W32) (tag : Nat) : State :=
  let held := infoHeld s (pgStr p) 0x108
  let s1 := capture s (pgStr p) 0x108 30 (eng * 2 ^ 28 + kind * 2 ^ 24 + tile % 2 ^ 16)
  if held then journal s1 (pgStr p) 0 (natLe 8 addr.toNat)
  else updCore s1 p fun c => { c with strAddr := addr, strSeq := seq, strTag := tag }

/-- A multi-bit error in a local-store word that a thread group or a matrix path of job `j` reads: a record of kind 0x3, a
journal record, DATA_ERR, and the job is stopped (R197, R212). The engine, tile and sequence number of the record are free:
no rule gives them for such a reader. -/
def lsDataError (s : State) (p j addr : Nat) : State :=
  let s1 := strRecord { s with free := s.free + 2 } p (Config.noEngine s.free % 4) 3 (Config.noTile s.free)
    (BitVec.ofNat 64 addr) (BitVec.ofNat 32 (Config.noTile (s.free + 1))) (jobTag s j)
  stopJob (raiseIrq (journal s1 (pgStr p) 1 (natLe 8 addr)) (pgStr p) 1) j false

end Sys2Proof.Machine
end

