-- ==== Sys2Proof/Machine/Health.lean ====
section
/-! DEFINITION. Roles of the physical cores and the health state, as every unit that
reports a failure uses them (R135, R452-R455, R463, R467). -/
namespace Sys2Proof.Machine

/-- Roles (Table 17-2). -/
def rlService : Nat := 0
def rlSpare : Nat := 1
def rlRetired : Nat := 2
def rlFailed : Nat := 3

/-- A domestique pair; codes of HUB_STAT: 0 reset, 1 test, 2 service, 3 stopped, 4 retired. -/
def pairOf (s : State) (i : Nat) : Pair := tget {} s.pairs i
def setPair (s : State) (i : Nat) (x : Pair) : State := { s with pairs := tput s.pairs i x }
def allPairs : List Nat := [0, 1, 2, 3]
def pairsInService (s : State) : Nat := ((List.range 4).filter fun i => (pairOf s i).state == 2).length

/-- Spares, the most repair rows used by one core, and whether a logical core is withdrawn. -/
def spareCount (s : State) : Nat := (allCores.filter fun p => (roleOf s p).role == rlSpare).length
def worstRepair (s : State) : Nat := allCores.foldl (fun n p => max n (roleOf s p).repair) 0
def anyWithdrawn (s : State) : Bool := (List.range 32).any fun L => (physOf s L).isNone

/-- The conditions of Table 17-6 as REL_HEALTH shows them. -/
def healthWord (s : State) : W32 :=
  let spares := spareCount s
  let worst := worstRepair s
  let pairs := pairsInService s
  let rep := decide (worst ≥ rbits s 4 0x100 12 8)
  let wd := anyWithdrawn s
  let state := if wd || pairs ≤ 1 then 2 else if spares ≤ 1 || rep || pairs ≤ 2 then 1 else 0
  let b (x : Bool) (n : Nat) : Nat := if x then 2 ^ n else 0
  BitVec.ofNat 32 (state * 2 ^ 30 + b (decide (spares ≤ 1)) 29 + b rep 28 + b (decide (pairs ≤ 2)) 27 + b wd 26
    + min spares 4 * 2 ^ 20 + pairs * 2 ^ 17 + min worst 32)

/-- SVC_REQ_N follows the state (Table 17-6): high, blinking, or low. -/
def svcPins (s : State) (state : Nat) : State :=
  { s with pins := { s.pins with svcReqN := decide (state ≠ 2), amberBlink := state == 1 } }

/-- Fragan sets the health state from the roles, the repairs and the pairs; a change of STATE sets IRQ_STAT.HEALTH and writes
a journal record (R463). -/
def updateHealth (s : State) : State :=
  let w := healthWord s
  let changed := bits w 31 30 != rbits s 4 0x104 31 30
  let s1 := svcPins (rset s 4 0x104 w) (bits w 31 30)
  if changed then raiseIrq (journal s1 4 2 (natLe 4 w.toNat)) 4 0 else s1

/-! ### STATE records (R467). The first byte says what has changed; the layout within the 32 bytes is the model's own. -/

/-- A core's role record, a map entry, a pair's record, and a repaired row as STATE records hold them. -/
def roleBytes (p : Nat) (r : CoreRole) : List Byte :=
  natLe 1 0 ++ natLe 1 p ++ natLe 1 r.role ++ natLe 1 r.strikes ++ natLe 1 r.test ++ natLe 1 r.repair ++ natLe 8 r.strikeAt ++ natLe 8 r.testAt
def mapBytes (L p : Nat) : List Byte := natLe 1 1 ++ natLe 1 L ++ natLe 1 p
def pairBytes (i : Nat) (x : Pair) : List Byte :=
  natLe 1 2 ++ natLe 1 i ++ natLe 1 (if x.state = 4 then 1 else 0) ++ natLe 1 x.strikes ++ natLe 8 x.strikeAt
def rowBytes (p row : Nat) : List Byte := natLe 1 3 ++ natLe 1 p ++ natLe 2 row

/-- A role record or an entry of the map is replaced without a STATE record, as a passing rotation step does (R467). -/
def putRole (s : State) (p : Nat) (r : CoreRole) : State := updateHealth { s with roles := tput s.roles p r }
def putMap (s : State) (L p : Nat) : State := updateHealth { s with map := tput s.map L p }

/-- A role record is replaced: the change is committed as a STATE record, and the health state follows (R452, R467). -/
def setRole (s : State) (p : Nat) (r : CoreRole) : State := updateHealth (journalState { s with roles := tput s.roles p r } (roleBytes p r))

/-- An entry of the logical-to-physical map is written, and committed (R464, R467). -/
def setMap (s : State) (L p : Nat) : State := updateHealth (journalState { s with map := tput s.map L p } (mapBytes L p))

/-- A pair's record is replaced, and committed (R462, R467). -/
def commitPair (s : State) (i : Nat) (x : Pair) : State := updateHealth (journalState (setPair s i x) (pairBytes i x))

/-- Whether the matrix array of a core is retired (Table 04-13). -/
def retired (s : State) (p : Nat) : Bool := bit (rget s (pgMxa p) 0x104) 31

/-- A core is retired (R135, R136): RETIRED and IRQ_STAT.RETIRE are set, every job with groups on the core is stopped, and the
physical core becomes Retired. -/
def retireCore (s : State) (p : Nat) : State :=
  let s1 := raiseIrq (rset s (pgMxa p) 0x104 (setBit (rget s (pgMxa p) 0x104) 31)) (pgMxa p) 1
  let jobs := (((coreOf s1 p).groups.map fun g => g.2.job) ++ (coreOf s1 p).jobs).eraseDups
  let s2 := jobs.foldl (fun s j => stopJob s j false) s1
  let s3 := updCore s2 p fun c => { dropMat c (fun _ => true) with tiles := {} }
  pmcFreezeOn (setRole s3 p { roleOf s3 p with role := rlRetired }) 27

/-! ### Self-test results (R455, R458, R459) -/

/-- Thirty days in nanoseconds. -/
def days30 : Nat := 2592000000000000

/-- The result of a self-test: 1 pass, 2 pass with repair, 3 fail (R458). -/
def testCode (c : Core) (t : SelfTest) : Nat :=
  if t.unit != 0 || decide (32 < (c.repaired ++ t.rows).eraseDups.length) then 3 else if t.rows.isEmpty then 1 else 2

/-- REL_BIST_INFO (Table 17-12): the first record is held; later ones set MULTI and are journalled only. -/
def bistRecord (s : State) (p code : Nat) (t : SelfTest) : State :=
  let held := infoHeld s 4 0x118
  let unit := if t.rows.isEmpty then t.unit else 1
  let s1 := capture s 4 0x118 30 (p * 2 ^ 24 + code * 2 ^ 22 + unit % 16 * 2 ^ 18 + min (t.rows.length + t.words) 255 * 2 ^ 10)
  let s2 := if held then journal s1 4 3 (natLe 1 p ++ natLe 1 code)
    else { s1 with rel := { s1.rel with bistRow := t.rows.headD 0, bistBank := t.bank, bistBit := t.bit } }
  if code = 3 then raiseIrq s2 4 2 else s2

/-- What becomes of a core's role after a test (R455, R459): a failed core is Failed; a Retired one becomes a Spare with a strike, or
Failed when it holds a strike less than 30 days old; any other unmapped core becomes a Spare. -/
def roleAfterTest (s : State) (p code : Nat) (r : CoreRole) : CoreRole :=
  let r1 := { r with test := code, testAt := s.now }
  if code = 3 then { r1 with role := rlFailed }
  else if r.role = rlRetired then
    if r.strikes > 0 && decide (s.now < r.strikeAt + days30) then { r1 with role := rlFailed }
    else { r1 with role := rlSpare, strikes := 1, strikeAt := s.now }
  else if r.role = rlService && (logicalOf s p).isNone then { r1 with role := rlSpare }
  else r1

/-- The result of a self-test is recorded: failing rows are repaired and committed, the role follows, RETIRED of the array is cleared
for a core that becomes a Spare. A rotation step whose vacated core passes writes no STATE record (R467). -/
def selfTestResult (s : State) (p : Nat) (t : SelfTest) : State :=
  let code := testCode (coreOf s p) t
  let rows := if code = 3 then [] else t.rows.filter fun r => !(coreOf s p).repaired.contains r
  let s1 := updCore (bistRecord s p code t) p fun c => { c with repaired := c.repaired ++ rows }
  let s2 := rows.foldl (fun s r => journalState s (rowBytes p r)) s1
  let r := { roleAfterTest s2 p code (roleOf s2 p) with repair := (coreOf s2 p).repaired.length }
  let s3 := if r.role = rlSpare && (roleOf s p).role = rlRetired then rset s2 (pgMxa p) 0x104 (clrBit (rget s2 (pgMxa p) 0x104) 31) else s2
  match s.rel.vacated with
  | some (L, q) =>
    if q ≠ p then setRole s3 p r
    else
      let passed := r.role == rlSpare
      let s4 := rwrap { s3 with rel := { s3.rel with vacated := none, rotSteps := if passed then s3.rel.rotSteps + 1 else s3.rel.rotSteps } } 4 0x124
      if passed && rows.isEmpty then putRole s4 p r
      else setRole (journalState s4 (mapBytes L (tget 0x3F s4.map L))) p r
  | none => setRole s3 p r

/-! ### A withdrawn core of a real-time partition (R464) -/

/-- Logical cores of a partition. -/
def partLogical (s : State) (i : Nat) : List Nat := match tfind s.parts i with | some p => setBits p.cores 32 | none => []

/-- The best-effort partition that owns the most cores, the lowest on a tie, if it owns more than one. -/
def donorPart (s : State) : Option Nat :=
  (s.parts.filter fun e => !e.2.realTime).foldl (fun o e =>
    let n := (partLogical s e.1).length
    match o with
    | none => if 1 < n then some e.1 else none
    | some j => if (partLogical s j).length < n then some e.1 else some j) none

/-- A logical core of a partition at a job boundary: mapped, with no job on it; the lowest. -/
def idleCoreOf (s : State) (i : Nat) : Option Nat :=
  (partLogical s i).find? fun L => match physOf s L with | some p => (coreOf s p).jobs.isEmpty | none => false

/-- Each partition that is owed a core gets one from the donor as soon as one of its cores stands at a job boundary. -/
def settleOwed (s : State) : State :=
  s.rel.owed.foldl (fun s i =>
    match donorPart s with
    | none => { s with rel := { s.rel with owed := s.rel.owed.erase i } }
    | some d => match idleCoreOf s d, tfind s.parts d, tfind s.parts i with
      | some L, some x, some y =>
        journal { s with
          parts := tput (tput s.parts d { x with cores := clrBit x.cores L }) i { y with cores := setBit y.cores L }
          rel := { s.rel with owed := s.rel.owed.erase i } } 4 4 (natLe 1 L)
      | _, _, _ => s) s

/-- A first mismatch of a core is counted; at REPLAY_THR within one hour Fragan will move off it (R454). -/
def countMismatch (s : State) (p : Nat) : State :=
  let hour := 3600000000000
  let times := ((coreOf s p).mismatches.filter fun t => s.now < t + hour) ++ [s.now]
  let s1 := updCore s p fun c => { c with mismatches := times }
  if times.length ≥ rbits s 4 0x100 27 24 && !s.rel.moveOff.contains p then
    { s1 with rel := { s1.rel with moveOff := s1.rel.moveOff ++ [p] } }
  else s1

end Sys2Proof.Machine
end

