-- ==== Sys2Proof/Machine/Control.lean ====
section
/-! DEFINITION. Control and convergence instructions (Tables 05-6, 05-7, R79, R154, R155). -/
namespace Sys2Proof.Machine

/-- All register fields and MOD are unused. -/
def bareLegal (_ : Group) (w : InsnWord) : Bool := kU w.d && kU w.a && kU w.b && kU w.c && mz w 23 0

/-- NOP -/
def execNop (p g : Nat) (w : InsnWord) (s : State) : Out :=
  issue p g w 1 bareLegal (fun i _ => .reg i.gr) s

/-- The target of a relative branch. -/
def braTarget (i : Iss) : W64 := i.pc + BitVec.ofInt 64 (8 * mOFF24 i.w)

/-- The threads of `taken` go to the target and the rest of the issue set to the next instruction (R154). -/
def branch (i : Iss) (g : Group) (taken : Mask) (target : W64) : Group :=
  pcSetIn (pcSetIn g (i.set &&& ~~~ taken) (i.pc + 8)) taken target

/-- BRA -/
def braBody (i : Iss) (_ : State) : Eff := .movedG (branch i i.gr i.part (braTarget i))
def braLegal (_ : Group) (w : InsnWord) : Bool := kU w.d && kU w.a && kU w.b && kU w.c
def execBra (p g : Nat) (w : InsnWord) (s : State) : Out := issue p g w 1 braLegal braBody s

/-- BRR: a misaligned target raises cause 0x02 when a thread's condition holds, and moves no thread. -/
def brrBody (i : Iss) (_ : State) : Eff :=
  let target := sGet i.gr i.w.a.toNat
  if i.part ≠ 0 && target.toNat % 8 ≠ 0 then .trap 2 target i.part
  else .movedG (branch i i.gr i.part target)
def brrLegal (_ : Group) (w : InsnWord) : Bool := kU w.d && kS w.a && kU w.b && kU w.c && mz w 23 0
def execBrr (p g : Nat) (w : InsnWord) (s : State) : Out := issue p g w 1 brrLegal brrBody s

/-- CALL: as BRA; s[d] takes PC + 8 when the condition holds for at least one thread. -/
def callBody (i : Iss) (_ : State) : Eff :=
  let g := if i.part = 0 then i.gr else sSet i.gr i.w.d.toNat (i.pc + 8)
  .movedG (branch i g i.part (braTarget i))
def callLegal (_ : Group) (w : InsnWord) : Bool := kS w.d && kU w.a && kU w.b && kU w.c
def execCall (p g : Nat) (w : InsnWord) (s : State) : Out := issue p g w 1 callLegal callBody s

/-- When every thread that cbN names has arrived at its wait or exited, the waiting threads resume together behind the
CVG.WAIT and cbN is cleared (R79). -/
def reconverge1 (g : Group) (n : Nat) : Group :=
  let waiting := cvgGet g n
  if waiting ≠ 0 && cbGet g n &&& ~~~ waiting = 0 then
    let g1 := cvgSet (cbSet g n 0) n 0
    (lanesOf waiting).foldl (fun x t => pcSet x t (pcGet x t + 8)) g1
  else g
def reconverge (g : Group) : Group := [0, 1, 2, 3].foldl reconverge1 g

/-- Threads exit: they leave cb0-cb3, and a wait that they held up may end (R79). -/
def exitThreads (g : Group) (m : Mask) : Group :=
  reconverge ([0, 1, 2, 3].foldl (fun x n => cbSet x n (cbGet x n &&& ~~~ m)) { g with exited := g.exited ||| m })

/-- The last groups of a job's phase have ended when none is resident or to be launched; a transfer that faulted and that no
group waited on then ends the job with a fault (R180). -/
def unwaitedFault (s : State) (j : Nat) : Option (Nat × W64 × Nat) :=
  (coresWith s j).findSome? fun p =>
    (coreOf s p).eng.findSome? fun e =>
      (e.2.ended.find? fun f => f.job == j && f.cause != 0).map fun f => (f.cause.toNat, f.addr, p)

/-- A group ends: it leaves its slot and the launch list, its granules are free, and semaphores it still holds are
released as abandoned (R63, R65, R69, R185). -/
def endGroup (s : State) (p g j : Nat) : State :=
  let s1 := dropGroup s p g
  let s2 := updJob s1 j fun x => { x with liveGroups := x.liveGroups - 1 }
  match jobOf s2 j with
  | some x =>
    if x.liveGroups = 0 && x.nextGroup ≥ x.groups then
      match unwaitedFault s2 j with
      | some (cause, addr, p') => faultJob (recordFault s2 p' g cause 0 addr 0) j cause
      | none => s2
    else s2
  | none => s2

/-- EXIT: participating threads exit; the others go on; the group ends with its last thread. -/
def exitBody (i : Iss) (s : State) : Eff :=
  let g1 := exitThreads (pcSetIn i.gr (i.set &&& ~~~ i.part) (i.pc + 8)) i.part
  if alive g1 = 0 then .moved (endGroup (setGroup s i.p i.g g1) i.p i.g i.job)
  else .movedG g1
def execExit (p g : Nat) (w : InsnWord) (s : State) : Out := issue p g w 1 bareLegal exitBody s

/-- TRAP -/
def trapBody (i : Iss) (_ : State) : Eff := if i.part = 0 then .reg i.gr else .trap 8 0 i.part
def execTrap (p g : Nat) (w : InsnWord) (s : State) : Out := issue p g w 1 bareLegal trapBody s

/-- CVG.SET: cbN takes the mask of the issue set. A wait on cbN that the new mask already satisfies ends. -/
def cvgSetLegal (_ : Group) (w : InsnWord) : Bool :=
  kC w.d && kU w.a && kU w.b && kU w.c && mz w 23 0 && w.pred == 0 && !w.neg
def cvgSetBody (i : Iss) (_ : State) : Eff :=
  .movedG (reconverge1 (pcSetIn (cbSet i.gr i.w.d.toNat i.set) i.set (i.pc + 8)) i.w.d.toNat)
def execCvgSet (p g : Nat) (w : InsnWord) (s : State) : Out := issue p g w 1 cvgSetLegal cvgSetBody s

/-- CVG.WAIT: threads that cbN names stop until all of them have arrived or exited; the others go on at once. -/
def cvgWaitLegal (_ : Group) (w : InsnWord) : Bool :=
  kU w.d && kC w.a && kU w.b && kU w.c && mz w 23 0 && w.pred == 0 && !w.neg
def cvgWaitBody (i : Iss) (_ : State) : Eff :=
  let n := i.w.a.toNat
  let named := i.set &&& cbGet i.gr n
  let g1 := pcSetIn i.gr (i.set &&& ~~~ named) (i.pc + 8)
  .movedG (reconverge1 (cvgSet g1 n (cvgGet g1 n ||| named)) n)
def execCvgWait (p g : Nat) (w : InsnWord) (s : State) : Out := issue p g w 1 cvgWaitLegal cvgWaitBody s

end Sys2Proof.Machine
end

