-- ==== Sys2Proof/Machine/Domains.lean ====
section
/-! DEFINITION. Power domains as the dispatcher and the power commands use them: numbers, states, operating points, the core rail
and wakes (16_power_management.md, R430-R441). -/
namespace Sys2Proof.Machine

/-- The PWR page. -/
def pgPwr : Nat := 3

/-- Domain numbers (Table 16-1). -/
def domIsCore (d : Nat) : Bool := decide (d < 36)
def domIsSlice (d : Nat) : Bool := decide (0x30 ≤ d) && decide (d < 0x40)
def domIsEth (d : Nat) : Bool := decide (0x40 ≤ d) && decide (d < 0x44)
def domIsPipe (d : Nat) : Bool := decide (0x48 ≤ d) && decide (d < 0x4C)
def domIsLink (d : Nat) : Bool := decide (0x50 ≤ d) && decide (d < 0x58)
def domIsHbm (d : Nat) : Bool := decide (d = 0x58) || decide (d = 0x59)

/-- States that a domain may take (Table 16-1): 0 Run, 1 Idle, 2 Sleep, 3 Deep sleep; none for a number that is not listed. -/
def domStates (d : Nat) : List Nat :=
  if domIsCore d || domIsLink d then [0, 1, 2, 3]
  else if domIsSlice d then [0, 1]
  else if domIsEth d || decide (d = 0x44) || decide (d = 0x45) || domIsPipe d || decide (d = 0x4C) then [0, 1, 2]
  else if decide (d = 0x4D) || domIsHbm d then [0, 2]
  else if d = 0x60 then [0]
  else if d = 0x7F then [0]
  else []

/-- A domain's record, and its update. -/
def domOf (s : State) (d : Nat) : Domain := tget {} s.domains d
def setDom (s : State) (d : Nat) (x : Domain) : State := { s with domains := tput s.domains d x }
def updDom (s : State) (d : Nat) (f : Domain → Domain) : State := setDom s d (f (domOf s d))

/-- The state of a domain: a slice that has gone idle by itself is in Idle (R431). -/
def domState (s : State) (d : Nat) : Nat :=
  if domIsSlice d && (tget {} s.slices (d - 0x30) : Slice).idle then 1 else (domOf s d).state

/-- A transition of the domain runs. -/
def domBusy (s : State) (d : Nat) : Bool := (domOf s d).target.isSome

/-! ### Operating points (R30, R31, R438, R439) -/

/-- Voltage of an operating point in mV (R438, Table 01-4). -/
def opVolt : Nat → Nat
  | 0 => 600
  | 1 => 650
  | 2 => 720
  | _ => 800

/-- Nominal operating point and budget in mW of the power profile in force (Tables 01-4, 16-9). -/
def profileOf (s : State) : Nat := rbits s pgPwr 0x100 1 0
def nominalOp (profile : Nat) : Nat := profile + 1
def budgetMw : Nat → Nat
  | 0 => 95000
  | 1 => 140000
  | _ => 190000

/-- The partition that owns a logical core. -/
def corePart (s : State) (L : Nat) : Option Partition := (s.parts.find? fun e => bit e.2.cores L).map (·.2)

/-- The partition of a physical core, if it is mapped. -/
def physPart (s : State) (p : Nat) : Option Partition := (logicalOf s p).bind (corePart s)

/-- Whether a core domain belongs to no real-time partition. -/
def bestEffort (s : State) (p : Nat) : Bool := match physPart s p with | some x => !x.realTime | none => true

/-- The rail target: the highest voltage that a core domain in Run or Idle has or is to get, plus the headroom, at most 0.90 V
(R438). -/
def railTarget (s : State) : Nat :=
  let volts := (allCores.filter fun p => (domOf s p).state ≤ 1).map fun p => opVolt (match (domOf s p).opWanted with
    | some o => max o (domOf s p).op
    | none => (domOf s p).op)
  min 900 (volts.foldl max 0 + rbits s pgPwr 0x118 15 8)

/-- The rail target is computed afresh; a new one is sent with VOUT_COMMAND (R439, R441). With no core domain in Run or Idle, and
while the rail is faulted, the target stays. -/
def aimRail (s : State) : State :=
  let t := railTarget s
  if t = s.power.target || s.power.faulted || (allCores.all fun p => decide (1 < (domOf s p).state)) then s
  else { s with power := { s.power with target := t, command := s.power.command ++ [t] } }

/-- Core clocks of `p` are brought up to now before its rate changes (SRD selector 0x02). -/
def bankClocks (s : State) (p : Nat) : State :=
  updCore s p fun c => { c with clkTenths := coreTenths s p, clkAt := s.now }

/-- The clock of core `p` switches to operating point `op`. -/
def switchOp (s : State) (p op : Nat) : State := updDom (bankClocks s p) p fun x => { x with op, opWanted := none }

/-- Whether the rail stands high enough for an operating point: it has settled at a target that covers it. -/
def railCovers (s : State) (op : Nat) : Bool :=
  decide (opVolt op + rbits s pgPwr 0x118 15 8 ≤ s.power.accepted) && !s.power.slewing && s.power.command.isEmpty

/-- A change of a core's operating point (R439): to lower it, the clock switches first and the rail follows; to raise it, the rail is
raised first, and the clock switches once the rail covers it. A faulted rail, a hold of R31 on raises, and an operating point
without a majority hold it (R440, R451). -/
def changeOp (s : State) (p op : Nat) : State :=
  let x := domOf s p
  if s.power.faulted || noMajority s pgPwr 0x10C p 24 then s
  else if op ≤ x.op then aimRail (switchOp s p op)
  else if railCovers (updDom s p fun x => { x with opWanted := some op }) op then switchOp s p op
  else aimRail (updDom s p fun x => { x with opWanted := some op })

/-- The operating point at which a logical core's partition runs. -/
def partOp (s : State) (L : Nat) : Nat := match corePart s L with | some x => x.op | none => 0

/-! ### Wakes and exits (R431, R435, R436) -/

/-- Time that an exit takes in ns (Table 16-2): 64 domain clocks from Idle, 5 us from Sleep; from Deep sleep 180 us and 4,096 core
clocks for a core, 300 us for a link. -/
def exitTime (s : State) (d : Nat) : Nat :=
  let rate := if domIsCore d then opRate (domOf s d).op else 16
  match (domOf s d).state with
  | 0 => 0
  | 1 => ceilDiv 640 rate
  | 2 => 5000
  | _ => if domIsCore d then 180000 + ceilDiv 40960 rate else 300000

/-- A domain below Run begins its exit. -/
def beginExit (s : State) (d : Nat) : State :=
  if (domOf s d).state = 0 then s
  else updDom s d fun x => { x with target := some 0, since := s.now, wake := false }

/-- A wake of a domain: latched while an entry runs, else its exit begins; a domain in Run, or leaving, is unchanged. -/
def wakeDomain (s : State) (d : Nat) : State :=
  match (domOf s d).target with
  | some 0 => s
  | some _ => updDom s d fun x => { x with wake := true }
  | none => beginExit s d

end Sys2Proof.Machine
end

