-- ==== Sys2Proof/Machine/Codec.lean ====
section
/-! DEFINITION. The lossless stream and surface formats of the compression engines as functions on bytes (R395-R401, R405):
predictors and residues, tokens, chunks, block headers, and the CRC-32C. The range coder itself is a free function of the
tokens (Config). -/
namespace Sys2Proof.Machine

/-! ### CRC-32C -/

/-- One bit of the CRC. -/
def crcBit (c : BitVec 32) : BitVec 32 := if c.getLsbD 0 then (c >>> 1) ^^^ 0x82F63B78#32 else c >>> 1
/-- One byte of the CRC. -/
def crcByte (c : BitVec 32) (b : Byte) : BitVec 32 :=
  (List.range 8).foldl (fun c _ => crcBit c) (c ^^^ b.setWidth 32)
/-- The CRC continued over bytes; a running CRC is held in its final, inverted form. -/
def crcMore (crc : BitVec 32) (bs : List Byte) : BitVec 32 := ~~~ (bs.foldl crcByte (~~~ crc))
def crc32c (bs : List Byte) : BitVec 32 := crcMore 0 bs

/-! ### Formats and predictors (Tables 14-2, 14-3, R396) -/

/-- Lane widths of a pixel format, lowest first. -/
def fmtLanes : Nat → Option (List Nat)
  | 0x0 => some [8, 8, 8, 8]
  | 0x1 => some [10, 10, 10, 2]
  | 0x2 => some [16, 16, 16, 16]
  | 0x8 => some [8]
  | 0x9 => some [16]
  | 0xA => some [32]
  | 0xB => some [32, 32]
  | _ => none

/-- Pixel size in bytes of a list of lanes. -/
def lanesSize (ls : List Nat) : Nat := ls.foldl (· + ·) 0 / 8
def fmtSize (fmt : Nat) : Nat := match fmtLanes fmt with | some ls => lanesSize ls | none => 0

/-- Lanes of the elements of a stream, by pixel size code 0-3: the raw formats (DEDUCED). -/
def sizeLanes : Nat → List Nat
  | 0 => [8]
  | 1 => [16]
  | 2 => [32]
  | _ => [32, 32]

/-- The lanes of a pixel value, and a pixel value of its lanes. -/
def splitLanes : List Nat → Nat → List Nat
  | [], _ => []
  | w :: ws, x => x % 2 ^ w :: splitLanes ws (x / 2 ^ w)
def joinLanes : List Nat → List Nat → Nat
  | w :: ws, x :: xs => x % 2 ^ w + 2 ^ w * joinLanes ws xs
  | _, _ => 0

/-- A residue folded to its unsigned form, and back (R396). -/
def foldRes (w r : Nat) : Nat := if r.testBit (w - 1) then 2 ^ w - 1 - (2 * r) % 2 ^ w else (2 * r) % 2 ^ w
def unfoldRes (w u : Nat) : Nat := if u.testBit 0 then 2 ^ w - 1 - u / 2 else u / 2

/-- The predicted pixel for predictor `p` at (i, j) of a block `bw` wide, from the pixels before it in row-major order
(`at_ i j`); a neighbour outside the block is replaced (R396). -/
def predicted (p i j bw : Nat) (at_ : Nat → Nat → List Nat) (zero : List Nat) : List Nat :=
  if i = 0 ∧ j = 0 then zero
  else
    let left := if i > 0 then at_ (i - 1) j else at_ i (j - 1)
    let up := if j > 0 then at_ i (j - 1) else left
    match p with
    | 0 => zero
    | 1 => left
    | 2 => up
    | 3 => if i > 0 ∧ j > 0 then at_ (i - 1) (j - 1) else left
    | _ => if j > 0 ∧ i + 1 < bw then at_ (i + 1) (j - 1) else up

/-- Bytes of a folded residue: each lane in ceil(w/8) bytes. -/
def laneBytes (ls us : List Nat) : List Byte := (ls.zip us).flatMap fun x => natLe (ceilDiv x.1 8) x.2

/-- Residue bytes that a pixel of the lanes takes. -/
def resSize (ls : List Nat) : Nat := ls.foldl (fun n w => n + ceilDiv w 8) 0

/-- Residues of pixels (as lane lists, row-major, `bw` wide) under a predictor. -/
def residues (ls : List Nat) (p bw : Nat) (px : List (List Nat)) : List (List Nat) :=
  (List.range px.length).map fun k =>
    let pr := predicted p (k % bw) (k / bw) bw (fun i j => px.getD (j * bw + i) []) (ls.map fun _ => 0)
    (ls.zip ((px.getD k []).zip pr)).map fun x => (x.2.1 + 2 ^ x.1 - x.2.2) % 2 ^ x.1

/-- The residue stream of pixels. -/
def residueBytes (ls : List Nat) (p bw : Nat) (px : List (List Nat)) : List Byte :=
  (residues ls p bw px).flatMap fun r => laneBytes ls ((ls.zip r).map fun x => foldRes x.1 x.2)

/-- The folded lanes that residue bytes hold. -/
def readLanes : List Nat → List Byte → List Nat
  | [], _ => []
  | w :: ws, bs => leNat (bs.take (ceilDiv w 8)) % 2 ^ w :: readLanes ws (bs.drop (ceilDiv w 8))

/-- Pixels rebuilt from their residue stream, `n` of them. -/
def rebuild (ls : List Nat) (p bw : Nat) : Nat → List Byte → List (List Nat) → List (List Nat)
  | 0, _, done => done
  | n + 1, bs, done =>
    let k := done.length
    let us := readLanes ls bs
    let pr := predicted p (k % bw) (k / bw) bw (fun i j => done.getD (j * bw + i) []) (ls.map fun _ => 0)
    let px := (ls.zip (us.zip pr)).map fun x => (x.2.2 + unfoldRes x.1 x.2.1) % 2 ^ x.1
    rebuild ls p bw n (bs.drop (resSize ls)) (done ++ [px])

/-- Sum of absolute residues, by which PRED 5 chooses (Table 14-2). -/
def residueCost (ls : List Nat) (p bw : Nat) (px : List (List Nat)) : Nat :=
  (residues ls p bw px).foldl (fun n r => n + (ls.zip r).foldl (fun m x =>
    m + if x.2.testBit (x.1 - 1) then 2 ^ x.1 - x.2 else x.2) 0) 0
def choosePred (ls : List Nat) (bw : Nat) (px : List (List Nat)) : Nat :=
  [2, 3, 4].foldl (fun b p => if residueCost ls p bw px < residueCost ls b bw px then p else b) 1

/-! ### Tokens (R397) -/

/-- Length of the common run of two lists, at most `n`. -/
def commonRun : Nat → List Byte → List Byte → Nat
  | n + 1, x :: xs, y :: ys => if x = y then 1 + commonRun n xs ys else 0
  | _, _, _ => 0

/-- The best match at position `i` among the `cands` nearest earlier positions that start with the same four bytes: the
longest, the shortest distance on a tie. -/
def bestMatch (bs : List Byte) (i cands : Nat) : Nat × Nat :=
  let here := bs.drop i
  if here.length < 4 then (0, 0)
  else
    let near := ((List.range i).reverse.filter fun j => commonRun 4 (bs.drop j) here == 4).take cands
    near.foldl (fun best j =>
      let n := commonRun 259 (bs.drop j) here
      if n > best.1 then (n, i - j) else best) (0, 0)

/-- The tokens of bytes from position `i` on (R397). -/
def tokenise (level : Nat) (bs : List Byte) : Nat → Nat → List (Nat × Nat)
  | 0, _ => []
  | fuel + 1, i =>
    if i ≥ bs.length then []
    else
      let m := if level = 0 then (0, 0) else bestMatch bs i (2 ^ (level - 1))
      if m.1 ≥ 4 then m :: tokenise level bs fuel (i + m.1)
      else (0, (bs.getD i 0).toNat) :: tokenise level bs fuel (i + 1)

/-- A match copied byte by byte; none when its distance reaches before the start. -/
def copyMatch : Nat → Nat → List Byte → Option (List Byte)
  | 0, _, out => some out
  | n + 1, d, out =>
    if d = 0 ∨ d > out.length then none else copyMatch n d (out ++ [out.getD (out.length - d) 0])

/-- The bytes that tokens stand for. -/
def expand : List (Nat × Nat) → List Byte → Option (List Byte)
  | [], out => some out
  | (0, b) :: ts, out => expand ts (out ++ [BitVec.ofNat 8 b])
  | (n, d) :: ts, out => match copyMatch n d out with | some o => expand ts o | none => none

/-- A body coded from bytes, and the `n` bytes that a body decodes to. -/
def codeBody (level : Nat) (bs : List Byte) : List Byte := Config.rangeCode (tokenise level bs bs.length 0)
def decodeBody (body : List Byte) (n : Nat) : Option (List Byte) :=
  match expand (Config.rangeDecode body n) [] with
  | some o => if o.length = n then some o else none
  | none => none

/-! ### Stream chunks (R399) -/

/-- Bytes of original data in a chunk. -/
def chunkSize : Nat := 65536

/-- Elements of `sz` bytes as lane lists; bytes after the last whole element are not predicted (DEDUCED). -/
def elements (ls : List Nat) (bs : List Byte) : List (List Nat) :=
  (List.range (bs.length / lanesSize ls)).map fun k => splitLanes ls (leNat ((bs.drop (k * lanesSize ls)).take (lanesSize ls)))

/-- Residue stream of a chunk of a stream: predictor 0 leaves bytes, predictor 1 takes the previous element (R396). -/
def streamResidue (pred sizeCode : Nat) (bs : List Byte) : List Byte :=
  if pred = 0 then (residueBytes [8] 0 1 (elements [8] bs))
  else
    let ls := sizeLanes sizeCode
    residueBytes ls 1 (bs.length + 1) (elements ls bs) ++ bs.drop (bs.length / lanesSize ls * lanesSize ls)
def streamRebuild (pred sizeCode : Nat) (rs : List Byte) : List Byte :=
  if pred = 0 then (rebuild [8] 0 1 rs.length rs []).flatMap fun px => natLe 1 (joinLanes [8] px)
  else
    let ls := sizeLanes sizeCode
    let n := rs.length / lanesSize ls
    ((rebuild ls 1 (rs.length + 1) n rs []).flatMap fun px => natLe (lanesSize ls) (joinLanes ls px)) ++ rs.drop (n * lanesSize ls)

/-- A chunk with its header: stored raw unless coding makes it shorter. -/
def codeChunk (level pred sizeCode : Nat) (bs : List Byte) : List Byte :=
  let body := codeBody level (streamResidue pred sizeCode bs)
  if body.length < bs.length then natLe 4 body.length ++ body
  else natLe 4 (2 ^ 31 + bs.length) ++ bs

/-- The stream header of n original bytes. -/
def streamHeader (level pred sizeCode n : Nat) : List Byte :=
  [0xC5, 0x7A, 0x01, BitVec.ofNat 8 (pred * 16 + level), BitVec.ofNat 8 sizeCode, 0, 0, 0] ++ natLe 8 n

/-- PRED, LEVEL, pixel-size code and original length of a stream header; none when it is malformed. -/
def parseStream (h : List Byte) : Option (Nat × Nat × Nat × Nat) :=
  let b (i : Nat) : Nat := (h.getD i 0).toNat
  if h.length ≥ 16 ∧ b 0 = 0xC5 ∧ b 1 = 0x7A ∧ b 2 = 1 ∧ b 5 = 0 ∧ b 6 = 0 ∧ b 7 = 0 ∧ b 4 ≤ 3 ∧ b 3 / 16 ≤ 1 ∧ b 3 % 16 ≤ 9 then
    some (b 3 / 16, b 3 % 16, b 4, leNat ((h.drop 8).take 8))
  else none

/-- A chunk at the head of bytes, `n` original bytes: its whole size and its data; none when it is malformed or cut short. -/
def decodeChunk (pred sizeCode n : Nat) (bs : List Byte) : Option (Nat × List Byte) :=
  if bs.length < 4 then none
  else
    let h := leNat (bs.take 4)
    let len := h % 2 ^ 17
    let body := (bs.drop 4).take len
    if nbits h 30 17 ≠ 0 ∨ body.length < len then none
    else if h.testBit 31 then (if len = n then some (4 + len, body) else none)
    else (decodeBody body n).map fun rs => (4 + len, streamRebuild pred sizeCode rs)

/-! ### Surfaces (R400, R401) -/

/-- What a surface header states. -/
structure Surf where
  fmt : Nat
  width : Nat
  height : Nat
  crc : BitVec 32
  data : Nat
deriving DecidableEq, Repr

/-- Blocks in a row and in a column, and the offset of the data area. -/
def Surf.bx (f : Surf) : Nat := ceilDiv f.width 32
def Surf.by_ (f : Surf) : Nat := ceilDiv f.height 32
def surfData (w h : Nat) : Nat := ceilDiv (64 + 8 * (ceilDiv w 32 * ceilDiv h 32)) 128 * 128
/-- Pixels of block `b` across and down. -/
def Surf.bw (f : Surf) (b : Nat) : Nat := min 32 (f.width - b % f.bx * 32)
def Surf.bh (f : Surf) (b : Nat) : Nat := min 32 (f.height - b / f.bx * 32)

/-- The header of a surface read through `rd`; none when it is malformed. -/
def parseSurf (rd : Nat → Byte) : Option Surf :=
  let n (a k : Nat) : Nat := leNat ((List.range k).map fun i => rd (a + i))
  let f : Surf := { fmt := n 3 1, width := n 4 2, height := n 6 2, crc := BitVec.ofNat 32 (n 8 4), data := n 12 4 }
  if n 0 1 = 0xC5 ∧ n 1 1 = 0x5A ∧ n 2 1 = 1 ∧ (fmtLanes f.fmt).isSome ∧ 1 ≤ f.width ∧ f.width ≤ 16384 ∧ 1 ≤ f.height
      ∧ f.height ≤ 16384 ∧ f.data = surfData f.width f.height ∧ ((List.range 48).all fun i => rd (16 + i) == 0) then some f else none

/-- Fields of a block header (Table 14-4). -/
def bhMode (h : Nat) : Nat := nbits h 63 62
def bhPred (h : Nat) : Nat := nbits h 61 59
def bhLen (h : Nat) : Nat := nbits h 41 32
def bhOff (h : Nat) : Nat := nbits h 31 0

/-- The header of block `b`. -/
def blockHeader (rd : Nat → Byte) (b : Nat) : Nat := leNat ((List.range 8).map fun i => rd (64 + 8 * b + i))

/-- Whether a block header is well formed. -/
def blockOk (h : Nat) : Bool :=
  bhMode h != 3 && nbits h 58 42 == 0 && decide (1 ≤ bhLen h) && decide (bhLen h ≤ 512)
  && (if bhMode h = 0 then decide (1 ≤ bhPred h) && decide (bhPred h ≤ 4) else bhPred h == 0)

/-- The raw pixel bytes of block `b`, row-major; none when it is malformed (R405). -/
def decodeBlock (rd : Nat → Byte) (f : Surf) (b : Nat) : Option (List Byte) :=
  let h := blockHeader rd b
  let n := f.bw b * f.bh b
  let sz := fmtSize f.fmt
  let ls := (fmtLanes f.fmt).getD []
  let body := (List.range (16 * bhLen h)).map fun i => rd (16 * bhOff h + i)
  if !blockOk h then none
  else match bhMode h with
    | 0 => (decodeBody body (n * resSize ls)).map fun rs =>
        (rebuild ls (bhPred h) (f.bw b) n rs []).flatMap fun px => natLe sz (joinLanes ls px)
    | 1 => if n * sz ≤ 16 * bhLen h then some (body.take (n * sz)) else none
    | _ => some ((List.replicate n (body.take sz)).flatten)

/-- A block's data padded to 16 bytes, its header's MODE and PRED: constant for one pixel value, coded when that is shorter than
raw, else raw. -/
def codeBlock (level pred fmt bw : Nat) (bs : List Byte) : List Byte × Nat × Nat :=
  let ls := (fmtLanes fmt).getD []
  let sz := fmtSize fmt
  let px := elements ls bs
  let pad (x : List Byte) : List Byte := x ++ List.replicate (ceilDiv x.length 16 * 16 - x.length) 0
  let p := if pred = 5 then choosePred ls bw px else pred
  let body := pad (codeBody level (residueBytes ls p bw px))
  if px.all fun x => x == px.headD [] then (pad (bs.take sz), 2, 0)
  else if p ≠ 0 ∧ body.length < (pad bs).length then (body, 0, p)
  else (pad bs, 1, 0)

/-- A block header word. -/
def mkBlockHeader (mode pred len off : Nat) : Nat := mode * 2 ^ 62 + pred * 2 ^ 59 + len * 2 ^ 32 + off

/-- The surface header of an image. -/
def surfHeader (fmt w h : Nat) (crc : BitVec 32) : List Byte :=
  [0xC5, 0x5A, 0x01, BitVec.ofNat 8 fmt] ++ natLe 2 w ++ natLe 2 h ++ natLe 4 crc.toNat ++ natLe 4 (surfData w h) ++ List.replicate 48 0

/-- Whether a tile's pixel (x, y) lies in a surface, and its block and byte offset in the block. -/
def Surf.place (f : Surf) (x y : Nat) : Nat × Nat :=
  let b := y / 32 * f.bx + x / 32
  (b, (y % 32 * f.bw b + x % 32) * fmtSize f.fmt)

end Sys2Proof.Machine
end

