-- ==== Sys2Proof/Machine/Memory.lean ====
section
/-! DEFINITION. Loads, stores, atomics and fences (Tables 05-20 to 05-22, R83-R97, R166-R168). -/
namespace Sys2Proof.Machine

/-- Where an access goes. -/
inductive Spot where
  | ls (a : Nat)
  | hbm (pa : Nat) (na : Bool)
  | host (pa : Nat)
  | spoke (pa : Nat)
deriving DecidableEq, Repr

/-- The outcome of the checks of one access: its place; a translation miss; or a cause, with what XLT_FLT_INFO records. -/
inductive Look where
  | ok (x : Spot)
  | miss
  | bad (cause : Nat) (x : Option XFault)
deriving DecidableEq, Repr

/-- The address of an access: register a plus s[b] plus OFF10 x SIZE, modulo 2^64 (R166). -/
def accessVa (i : Iss) (scalar : Bool) (t : Nat) : W64 :=
  (if scalar then sGet i.gr i.w.a.toNat else vGet i.gr i.w.a.toNat t) + sGet i.gr i.w.b.toNat
  + BitVec.ofInt 64 (mOFF10 i.w * mSIZE i.w)

/-- The place of a physical address; a Spoke window whose destination has no route over an UP link gives cause 0x03 (R421). -/
def spotOf (s : State) (pa : Nat) (na : Bool) : Look :=
  if isHost pa then .ok (.host pa)
  else if isSpoke pa then (if (spokeLink s pa).isSome then .ok (.spoke pa) else .bad 3 none)
  else .ok (.hbm pa na)

/-- The checks of one access in the order alignment, range, translation (R166; the order is DEDUCED). -/
def look (i : Iss) (s : State) (perm : Perm) (va : W64) : Look :=
  let size := mSIZE i.w
  if va.toNat % size ≠ 0 then .bad 2 none
  else if mSPACE i.w then
    match jobOf s i.job with
    | some j => if va.toNat < lsSize && inRanges (jobRanges j) va.toNat size then .ok (.ls va.toNat) else .bad 5 none
    | none => .bad 5 none
  else match xlate s i.p i.tag va.toNat perm with
    | .ok pa na => spotOf s pa na
    | .fault f => .bad f.cause (some f)
    | .miss => match i.gr.xfault with
      | some (page, cause) => if page = va.toNat / 0x1000 then .bad cause none else .miss
      | none => .miss

/-- A place refused to an atomic through a host window that is not ADD, SWAP or CAS (R92, R168). -/
def hostAop (aop : Nat) (x : Look) : Look :=
  match x with
  | .ok (.host _) => if aop = 0 || aop = 8 || aop = 9 then x else .bad 4 none
  | x => x

/-- The accesses of an instruction: (lane, address, outcome). A scalar access is that of lane 0. -/
def accesses (i : Iss) (s : State) (scalar : Bool) (perm : Perm) (aop : Nat) : List (Nat × W64 × Look) :=
  (if scalar then [0] else lanesOf i.part).map fun t =>
    let va := accessVa i scalar t
    (t, va, hostAop aop (look i s perm va))

/-- Whether an outcome is a fault. -/
def Look.isBad : Look → Bool | .bad _ _ => true | _ => false

/-- Every access is checked before any is performed (R99): a fault raises the exception, with the cause and address of the
lowest faulting lane and the mask of all; a miss blocks the group on a walk; otherwise `body` gets (lane, place). A memory
instruction to device memory issues only with 32 request tags free (R82). -/
def withAccesses (scalar : Bool) (perm : Perm) (aop : Nat) (body : Iss → State → List (Nat × Spot) → Eff) (i : Iss) (s : State) : Eff :=
  if i.part = 0 then .reg i.gr
  else if !mSPACE i.w && groupTagsFree s i.p < 32 then .held s
  else
    let xs := accesses i s scalar perm aop
    match xs.find? fun x => x.2.2.isBad with
    | some (_, va, .bad cause f) =>
      let mask := if scalar then i.part else maskOf fun t => xs.any fun x => x.1 == t && x.2.2.isBad
      let s1 := match f with
        | some f => xltRecord s f true ((logicalOf s i.p).getD 0) i.tag va.toNat
        | none => s
      .held (takeException s1 i.p i.g cause i.pc va mask)
    | _ =>
      match xs.find? fun x => x.2.2 == .miss with
      | some (_, va, _) => .held (setGroup s i.p i.g { i.gr with block := .walk va perm })
      | none => body i s (xs.filterMap fun x => match x.2.2 with | .ok p => some (x.1, p) | _ => none)

/-! ### Release and acquire (R93) -/

/-- Whether ORD asks for a release, or an acquire, at DEVICE or SYSTEM scope. -/
def wantsRelease (i : Iss) (ords : List Nat) : Bool := decide (2 ≤ mSCOPE i.w) && ords.contains (mORD i.w)

/-- A release waits for the merging-buffer entries present at its issue, and at SYSTEM scope for the Spoke writes of its
group; then `k` goes on (R93). -/
def released (ords : List Nat) (k : Iss → State → Eff) (i : Iss) (s : State) : Eff :=
  let pending := (coreOf s i.p).merge.map fun e => e.serial
  let tags := if mSCOPE i.w = 3 then (s.remotes.filter fun r => r.core == i.p && r.slot == i.g && r.kind == 1).map fun r => r.tag else []
  if wantsRelease i ords && !i.gr.released && !(pending.isEmpty && tags.isEmpty) then
    .held (setGroup s i.p i.g { i.gr with block := .release pending tags })
  else k i s

/-- The effect followed by the invalidation of an acquire. -/
def acquired (i : Iss) (ords : List Nat) (s : State) : State :=
  if wantsRelease i ords then nearInvalidateAt s i.p else s

/-! ### Loads -/

/-- A loaded value extended to 64 bits. -/
def extend (sx : Bool) (size n : Nat) : W64 :=
  if sx then BitVec.ofInt 64 (IFmt.val { w := 8 * size, signed := true } n) else BitVec.ofNat 64 n

/-- A loaded value goes to lane `t` of v[d], or to s[d]. -/
def putLoaded (w : InsnWord) (scalar : Bool) (t n : Nat) (g : Group) : Group :=
  let x := extend (mSX w) (mSIZE w) n
  if scalar then sSet g w.d.toNat x else vSet g w.d.toNat t x

/-- The newest value that the core holds for a byte, else what memory holds (R86). -/
def coreByte (s : State) (c : Core) (pa : Nat) : Byte :=
  match mergeByte c pa with
  | some b => b
  | none => match nearByte c pa with
    | some b => b
    | none => memByte s pa

/-- Whether the core holds every byte of an access. -/
def heldByCore (c : Core) (pa size : Nat) : Bool :=
  (nearWay c pa).isSome || (List.range size).all fun k => (mergeByte c (pa + k)).isSome

/-- What a pending load still lacks, or the bytes for a blocked instruction: the newest of buffer and cache, else those that
arrived. -/
def pendByte (c : Core) (l : PendLoad) (pa : Nat) : Byte :=
  match mergeByte c pa with
  | some b => b
  | none => match nearByte c pa with
    | some b => b
    | none => tget 0 l.got pa

/-- Lanes of a pending load with their physical addresses, ascending. -/
def pendLanes (l : PendLoad) : List (Nat × Nat) := l.addrs

/-- The near-cache errors that a load meets: a single-bit error is counted; with a multi-bit error the first line that hits is
treated as a miss (R89). -/
def nearFlaws (i : Iss) (s : State) (pas : List Nat) : State :=
  match pas.find? fun pa => (nearWay (coreOf s i.p) pa).isSome with
  | none => s
  | some pa =>
    match i.w.flaw with
    | .nearSingle => errCount s (pgCore i.p)
    | .nearMulti => updCore s i.p fun c => nearDrop c pa
    | _ => s

/-- NC_BYPASS in force (Table 03-7). -/
def ncBypass (s : State) (p : Nat) : Bool := bit (coreOf s p).cfg 16

/-- The end of a load whose bytes are all at hand. -/
def loadNow (i : Iss) (scalar : Bool) (s : State) (val : Spot → Nat) (xs : List (Nat × Spot)) : Eff :=
  .done (acquired i [1, 3] (updGroup s i.p i.g fun g => xs.foldl (fun g x => putLoaded i.w scalar x.1 (val x.2) g) g))

/-- A load from the local store (R166, R197). -/
def loadLs (i : Iss) (scalar : Bool) (s : State) (xs : List (Nat × Spot)) : Eff :=
  let c := coreOf s i.p
  let addr : Spot → Nat := fun x => match x with | .ls a => a | _ => 0
  match xs.find? fun x => lsMulti c (addr x.2) with
  | some x => .held (lsDataError s i.p i.job (addr x.2))
  | none => loadNow i scalar s (fun x => lsNat c (addr x) (mSIZE i.w)) xs

/-- A load from device memory: at once when the core holds every byte, else the group blocks on the missing lines and on its
window accesses (R83-R86, R264, R422). -/
def loadDev (i : Iss) (scalar : Bool) (s : State) (xs : List (Nat × Spot)) : Eff :=
  let size := mSIZE i.w
  let bypass := ncBypass s i.p
  let pa : Spot → Nat := fun x => match x with | .ls a => a | .hbm a _ => a | .host a => a | .spoke a => a
  let hbm := xs.filterMap fun x => match x.2 with | .hbm a _ => some a | _ => none
  let s1 := if bypass then s else nearFlaws i s hbm
  let c := coreOf s1 i.p
  let lines := if bypass then [] else ((hbm.filter fun a => !heldByCore c a size).map lineOf).eraseDups
  let host := (xs.filterMap fun x => match x.2 with | .host a => some a | _ => none).eraseDups
  let spoke := (xs.filterMap fun x => match x.2 with | .spoke a => some a | _ => none).eraseDups
  let missing := lines ++ host ++ spoke
  let poison := bypass && hbm.any fun a => poisoned s1 a
  if poison then .held (stopJob s1 i.job false)
  else if missing.isEmpty then
    let c1 := if bypass then c else hbm.foldl nearHit c
    loadNow i scalar (setCore s1 i.p c1)
      (fun x => leNat ((List.range size).map fun k => if bypass then memByte s1 (pa x + k) else coreByte s1 c (pa x + k))) xs
  else
    let fresh := lines.filter fun a => !c.fills.any fun f => f.line == a
    if c.fills.length + fresh.length > 64 then .held s1
    else match sendRemotes s1 i.p i.g i.job size 0 spoke with
      | none => .held s1
      | some s2 =>
        let have_ := hbm.filter fun a => !lines.contains (lineOf a)
        let got := have_.foldl (fun t a => twrites 0 t a ((List.range size).map fun k => if bypass then memByte s1 (a + k) else coreByte s1 c (a + k))) []
        let l : PendLoad := { scalar, atomic := false, w := i.w, pc := i.pc, lanes := i.part, addrs := xs.map (fun x => (x.1, pa x.2)), missing, got }
        let s3 := updCore s2 i.p fun c => { (if bypass then c else have_.foldl nearHit c) with fills := c.fills ++ fresh.map fun a => { line := a } }
        .done (updGroup (pmcCore s3 i.p 0x20 fresh.length) i.p i.g fun g => { g with block := .load l })

/-- An MDRN of a group has not written all its bytes; its local-store loads and STRQs wait (R177). -/
def mdrnPending (s : State) (p g : Nat) : Bool := (coreOf s p).mat.any fun e => e.op == .mdrn && e.slot == g

/-- Every lane of a load lies in one space. -/
def loadBody (scalar : Bool) : Iss → State → Eff :=
  withAccesses scalar .r 0 fun i s xs =>
    if mSPACE i.w then (if mdrnPending s i.p i.g then .held s else loadLs i scalar s xs) else loadDev i scalar s xs

/-- MOD fields of loads and stores: reserved bits, AOP and ORD (R167). -/
def memMod (w : InsnWord) (ord2 : Nat) : Bool := mz w 11 10 && mAOP w == 0 && (mORD w == 0 || mORD w == ord2)
def vldLegal (g : Group) (w : InsnWord) : Bool := kV g w.d && kV g w.a && kS w.b && kU w.c && memMod w 1
def sldLegal (_ : Group) (w : InsnWord) : Bool := kS w.d && kS w.a && kS w.b && kU w.c && memMod w 1
def execVld (p g : Nat) (w : InsnWord) (s : State) : Out := issue p g w 2 vldLegal (loadBody false) s
def execSld (p g : Nat) (w : InsnWord) (s : State) : Out := issue p g w 2 sldLegal (loadBody true) s

/-! ### Stores -/

/-- Bytes of v[c] of a lane, or of s[c]. -/
def storeData (i : Iss) (scalar : Bool) (t : Nat) : List Byte :=
  natLe (mSIZE i.w) (if scalar then sGet i.gr i.w.c.toNat else vGet i.gr i.w.c.toNat t).toNat

/-- One access of a store: the local store; the cached line and the merging buffer (with `full`, straight to the system
cache: the excess of one store over the buffer); around both under NC_BYPASS and through windows (R83, R85). -/
def storeOne (i : Iss) (s : State) (n : Nat) (x : Spot) (bs : List Byte) : State :=
  match x with
  | .ls a => updCore s i.p fun c => lsWrite c a bs
  | .hbm pa na =>
    if ncBypass s i.p then storeAt s pa bs
    else
      let c := nearStore (coreOf s i.p) pa bs
      let fits := (openEntries c).any (fun e => e.line == lineOf pa) || decide ((openEntries c).length < mergeSize)
      if fits then setCore s i.p (mergeStore c pa bs na i.g n) else storeAt (setCore s i.p c) pa bs
  | .host pa => storeAt s pa bs
  | .spoke pa => storeAt s pa bs

/-- A store: it stalls while its new lines find no free entry, unless the buffer is empty (R85); of several threads that write
one byte the highest lane wins (R91). -/
def storeAccesses (scalar : Bool) (i : Iss) (s : State) (xs : List (Nat × Spot)) : Eff :=
  let c := coreOf s i.p
  let fresh := ((xs.filterMap fun x => match x.2 with | .hbm a _ => some (lineOf a) | _ => none).eraseDups).filter
    fun a => !(openEntries c).any fun e => e.line == a
  let spoke := xs.filterMap fun x => match x.2 with | .spoke a => some a | _ => none
  if !ncBypass s i.p && !(openEntries c).isEmpty && (openEntries c).length + fresh.length > mergeSize then .held s
  else match sendRemotes s i.p i.g i.job (mSIZE i.w) 1 spoke with
    | none => .held s
    | some s1 =>
      let n := c.storeNext
      let s2 := updCore s1 i.p fun c => { c with storeNext := n + 1 }
      .done (xs.foldl (fun s x => storeOne i s n x.2 (storeData i scalar x.1)) s2)

def storeBody (scalar : Bool) : Iss → State → Eff :=
  withAccesses scalar .w 0 fun i s xs => released [2] (fun i s => storeAccesses scalar i s xs) i s

def vstLegal (g : Group) (w : InsnWord) : Bool := kU w.d && kV g w.a && kS w.b && kV g w.c && memMod w 2 && !mSX w
def sstLegal (_ : Group) (w : InsnWord) : Bool := kU w.d && kS w.a && kS w.b && kS w.c && memMod w 2 && !mSX w
def execVst (p g : Nat) (w : InsnWord) (s : State) : Out := issue p g w 2 vstLegal (storeBody false) s
def execSst (p g : Nat) (w : InsnWord) (s : State) : Out := issue p g w 2 sstLegal (storeBody true) s

/-! ### Atomics (R91, R92, R168) -/

/-- The value that an atomic of `size` bytes leaves; CAS stores when the location equals `cmp`. -/
def atomicNew (aop size old val cmp : Nat) : Nat :=
  let f : IFmt := { w := 8 * size, signed := true }
  match aop with
  | 0 => (old + val) % 2 ^ (8 * size)
  | 1 => old &&& val
  | 2 => old ||| val
  | 3 => old ^^^ val
  | 4 => if f.val old ≤ f.val val then old else val
  | 5 => if f.val old ≤ f.val val then val else old
  | 6 => if old ≤ val then old else val
  | 7 => if old ≤ val then val else old
  | 8 => val
  | 9 => if old = cmp then val else old
  | _ => (fadd binary32 .even old val).1

/-- The operands of lane `t`: v[c], and v[d] as it stood at issue. -/
def atomicVal (w : InsnWord) (g : Group) (t : Nat) : Nat := (vGet g w.c.toNat t).toNat % 2 ^ (8 * mSIZE w)
def atomicCmp (w : InsnWord) (g : Group) (t : Nat) : Nat := (vGet g w.d.toNat t).toNat % 2 ^ (8 * mSIZE w)

/-- One atomic of lane `t` in memory at `pa`, with the group's registers `g0` at issue: the location is read and written, the
old value goes to v[d]; a line in the near cache follows. -/
def atomicMem (w : InsnWord) (p g : Nat) (g0 : Group) (s : State) (t pa : Nat) : State :=
  let size := mSIZE w
  let old := memNat s pa size
  let new := natLe size (atomicNew (mAOP w) size old (atomicVal w g0 t) (atomicCmp w g0 t))
  let s1 := updCore (storeAt s pa new) p fun c => nearStore c pa new
  updGroup s1 p g (putLoaded w false t old)

/-- One atomic of lane `t` in the local store. -/
def atomicLs (w : InsnWord) (p g : Nat) (g0 : Group) (s : State) (t a : Nat) : State :=
  let size := mSIZE w
  let old := lsNat (coreOf s p) a size
  let new := natLe size (atomicNew (mAOP w) size old (atomicVal w g0 t) (atomicCmp w g0 t))
  updGroup (updCore s p fun c => lsWrite c a new) p g (putLoaded w false t old)

/-- The atomics of an instruction, in ascending lane order; those through windows wait for their answers. An atomic waits for a
store to its line that is still in the merging buffer. -/
def atomicAccesses (i : Iss) (s : State) (xs : List (Nat × Spot)) : Eff :=
  let c := coreOf s i.p
  let ls := xs.filterMap fun x => match x.2 with | .ls a => some (x.1, a) | _ => none
  let hbm := xs.filterMap fun x => match x.2 with | .hbm a _ => some (x.1, a) | _ => none
  let win := xs.filterMap fun x => match x.2 with | .host a => some (x.1, a) | .spoke a => some (x.1, a) | _ => none
  let spoke := xs.filterMap fun x => match x.2 with | .spoke a => some a | _ => none
  match ls.find? fun x => lsMulti c x.2 with
  | some x => .held (lsDataError s i.p i.job x.2)
  | none =>
    if hbm.any fun x => (openEntries c).any fun e => e.line == lineOf x.2 then .held s
    else if hbm.any fun x => poisoned s x.2 then .held (stopJob s i.job false)
    else match sendRemotes s i.p i.g i.job (mSIZE i.w) 2 spoke.eraseDups with
      | none => .held s
      | some s1 =>
        let s2 := ls.foldl (fun s x => atomicLs i.w i.p i.g i.gr s x.1 x.2) s1
        let s3 := hbm.foldl (fun s x => atomicMem i.w i.p i.g i.gr s x.1 x.2) s2
        if win.isEmpty then .done (acquired i [1, 3] s3)
        else
          let l : PendLoad :=
            { scalar := false, atomic := true, w := i.w, pc := i.pc, lanes := i.part, addrs := win, missing := (win.map (·.2)).eraseDups, got := [] }
          .done (updGroup s3 i.p i.g fun g => { g with block := .load l })

def atomBody : Iss → State → Eff := fun i s =>
  withAccesses false .rw (mAOP i.w) (fun i s xs => released [2, 3] (fun i s => atomicAccesses i s xs) i s) i s
def vatomLegal (g : Group) (w : InsnWord) : Bool :=
  kV g w.d && kV g w.a && kS w.b && kV g w.c && mz w 11 10 && decide (mAOP w ≤ 10)
  && (mSIZE w == 4 || (mSIZE w == 8 && mAOP w != 10))
def execVatom (p g : Nat) (w : InsnWord) (s : State) : Out := issue p g w 2 vatomLegal atomBody s

/-! ### FENCE (R93) -/

/-- FENCE: ORD 0b00 both waits as a release and invalidates as an acquire (DEDUCED). -/
def fenceLegal (_ : Group) (w : InsnWord) : Bool := kU w.d && kU w.a && kU w.b && kU w.c && mz w 19 0
def fenceBody (i : Iss) (s : State) : Eff :=
  if i.part = 0 then .reg i.gr
  else released [0, 2, 3] (fun i s => .done (acquired i [0, 1, 3] s)) i s
def execFence (p g : Nat) (w : InsnWord) (s : State) : Out := issue p g w 2 fenceLegal fenceBody s

end Sys2Proof.Machine
end

