-- ==== Sys2Proof/Machine/Positions.lean ====
section
/-! DEFINITION. Cadence positions as everything that waits on them compares them (R181, R182, R311-R313). -/
namespace Sys2Proof.Machine

/-- Kinds of source (Table 11-1). -/
def kdUnbound : Nat := 0
def kdVideoIn : Nat := 1
def kdVideoOut : Nat := 2
def kdAudio : Nat := 3
def kdPtp : Nat := 4
def kdSoft : Nat := 5

/-- A source, and its fields (Table 11-10). -/
def sourceOf (s : State) (n : Nat) : Source := tget {} s.sources n
def setSource (s : State) (n : Nat) (x : Source) : State := { s with sources := tput s.sources n x }
def srcKind (x : Source) : Nat := bits x.cfg 31 29
def srcMedia (x : Source) : Bool := bit x.cfg 28
def srcRpt (x : Source) : Bool := bit x.cfg 27
def srcInput (x : Source) : Nat := bits x.cfg 23 16
def srcStop (x : Source) : Nat := bits x.cfg 15 0
def isVideo (x : Source) : Bool := srcKind x == kdVideoIn || srcKind x == kdVideoOut

/-- Whether a number names a bound source. -/
def bound (s : State) (n : Nat) : Bool := decide (n < 48) && srcKind (sourceOf s n) != kdUnbound

/-- The Ethernet port that runs the PTP servo: the enabled one with VIO_CFG.PTP = 1 (R376). -/
def servoPort (s : State) : Option Nat :=
  (List.range 4).find? fun p => rbits s (0x220 + p) 0x100 31 31 == 1 && rbits s (0x220 + p) 0x100 27 27 == 1

/-- Whether a source is stopped: a PTP source while its port's servo is not locked, another as its state says (R313). -/
def stoppedSrc (s : State) (n : Nat) : Bool :=
  let x := sourceOf s n
  if srcKind x = kdPtp then !(s.ptp.locked && servoPort s == some (srcInput x % 4)) else x.state == 2

/-- The position of a source: PTP time is the device timestamp (R376). -/
def sourcePos (s : State) (n : Nat) : W64 :=
  let x := sourceOf s n
  if srcKind x = kdPtp then BitVec.ofNat 64 s.now else x.pos

/-- Frame and line of a video position. -/
def posFrame (v : W64) : Nat := bits v 63 16
def posLine (v : W64) : Nat := bits v 15 0
def mkPos (frame line : Nat) : W64 := BitVec.ofNat 64 (frame % 2 ^ 48 * 2 ^ 16 + line % 2 ^ 16)

/-- `a` lies ahead of `b` by less than half of 2^n. -/
def aheadBy (n a b : Nat) : Bool := let d := (a + 2 ^ n - b % 2 ^ n) % 2 ^ n; 0 < d && d < 2 ^ (n - 1)

/-- How a video position stands to a target (R182): 0 reached in the target frame, 1 already in a later frame. -/
def videoReached (now_ target : W64) : Option Nat :=
  if aheadBy 48 (posFrame now_) (posFrame target) then some 1
  else if posFrame now_ = posFrame target ∧ posLine target ≤ posLine now_ then some 0
  else none

/-- How a position of another kind stands to a target. -/
def countReached (now_ target : W64) : Option Nat :=
  if now_ = target || aheadBy 64 now_.toNat target.toNat then some 0 else none

/-- How a source stands to a target position. -/
def posReached (s : State) (n : Nat) (target : W64) : Option Nat :=
  if isVideo (sourceOf s n) then videoReached (sourcePos s n) target else countReached (sourcePos s n) target

/-- The status of a CWAIT, none while it waits (R182, Table 06-9). -/
def cwaitStatus (s : State) (n : Nat) (target : W64) : Option Nat :=
  if !bound s n then some 4
  else match posReached s n target with
    | some st => some st
    | none => if stoppedSrc s n then some 2 else none

/-- Groups whose CWAIT on a source has a status are released with it (R312). -/
def releaseCwait (s : State) (n : Nat) : State :=
  mapGroups s fun _ _ g =>
    match g.block with
    | .cwait m pos rd => if m = n then (match cwaitStatus s n pos with | some st => resumeGroup g rd st | none => g) else g
    | _ => g

end Sys2Proof.Machine
end

