-- ==== Sys2Proof/Machine/Sync.lean ====
section
/-! DEFINITION. Stream-engine instructions, cadence waits, barriers, semaphores and fences of kernels (R177-R191), and the
ends of their waits by time. -/
namespace Sys2Proof.Machine

/-- Fields C and the MOD bits outside those named are zero. -/
def syncLegal (d a b : InsnWord → Bool) (reserved : InsnWord → Bool) (_ : Group) (w : InsnWord) : Bool :=
  d w && a w && b w && kU w.c && reserved w
def dS (w : InsnWord) : Bool := kS w.d
def dU (w : InsnWord) : Bool := kU w.d
def aS (w : InsnWord) : Bool := kS w.a
def aU (w : InsnWord) : Bool := kU w.a
def bS (w : InsnWord) : Bool := kS w.b
def bU (w : InsnWord) : Bool := kU w.b

/-- An instruction that executes once for its group when a thread participates (R173, R190). -/
def onceEff (body : Iss → State → Eff) (i : Iss) (s : State) : Eff := if i.part = 0 then .reg i.gr else body i s

/-- A waiting instruction must be issued by every thread that has not exited (R190). -/
def waitEff (body : Iss → State → Eff) : Iss → State → Eff :=
  onceEff fun i s => if i.set ≠ alive i.gr then .trap 1 0 i.part else body i s

/-- The group blocks; its time-out runs from now (R190). -/
def blockOn (i : Iss) (s : State) (b : Block) (tmo : Nat) : Eff :=
  .moved (updGroup s i.p i.g fun g => { g with
    block := b
    deadline := if tmo = 0 then none else some (s.now + tmo * 1000) })

/-- s[a] and s[b] of an instruction, and the group with a status in s[d]. -/
def sA (i : Iss) : W64 := sGet i.gr i.w.a.toNat
def sBv (i : Iss) : W64 := sGet i.gr i.w.b.toNat
def withStatus (i : Iss) (n : Nat) : Group := sSet i.gr i.w.d.toNat (BitVec.ofNat 64 n)

/-- The effect that writes a status into s[d] beside a new state. -/
def doneStatus (i : Iss) (s : State) (n : Nat) : Eff :=
  .done (updGroup s i.p i.g fun g => sSet g i.w.d.toNat (BitVec.ofNat 64 n))

/-! ### Stream engines (R178-R180) -/

/-- An engine of a core, and the core with it replaced. -/
def engOf (c : Core) (e : Nat) : Engine := tget {} c.eng e
def setEng (c : Core) (e : Nat) (x : Engine) : Core := { c with eng := tput c.eng e x }

/-- Places in a descriptor queue (R178). -/
def engPlaces : Nat := 16

/-- The last completed sequence number after transfers have left the queue: the one before the oldest still held. -/
def settleEng (x : Engine) : Engine :=
  { x with
    last := match x.queue with | t :: _ => t.seq - 1 | [] => x.next - 1
    any := true }

/-- Transfers of a failed job at the head of the queue end at once with the job's cause (R210). -/
def endFailed (x : Engine) : Engine :=
  let isFailed (t : Transfer) : Bool := x.failed.any fun f => f.1 == t.job
  let gone := x.queue.takeWhile isFailed
  if gone.isEmpty then x
  else settleEng { x with
    queue := x.queue.dropWhile isFailed
    ended := x.ended ++ gone.filterMap fun t => (x.failed.find? fun f => f.1 == t.job).map fun f =>
      { seq := t.seq, job := t.job, cause := f.2.1, addr := f.2.2 } }

/-- The frame that a descriptor's FRAME names: within 2^31 of the source's frame when it is accepted (R213). -/
def wantedFrame (s : State) (d : List W64) : Nat :=
  let cur := posFrame (sourcePos s (dCsrc d))
  let low : BitVec 32 := BitVec.ofNat 32 (dFrame d) - BitVec.ofNat 32 cur
  (((cur : Int) + low.toInt) % 2 ^ 48).toNat

/-- A ticket (R178). -/
def ticket (e : Nat) (seq : W32) : W64 := BitVec.ofNat 64 (e * 2 ^ 32 + seq.toNat)
def refusedTicket : W64 := BitVec.ofNat 64 (2 ^ 63)

/-- The descriptor in the local store (R179). -/
def readDesc (c : Core) (a : Nat) : List W64 := (List.range 8).map fun k => BitVec.ofNat 64 (lsNat c (a + 8 * k) 8)

/-- An accepted descriptor joins its engine's queue. -/
def acceptDesc (s : State) (p e job tag : Nat) (d : List W64) : State :=
  updCore s p fun c =>
    let x := engOf c e
    setEng c e (endFailed { x with
      queue := x.queue ++ [{ seq := x.next, desc := d, job, tag, wantFrame := wantedFrame s d }]
      next := x.next + 1 })

/-- STRQ (R178, R179): a group of a draw batch finds engine 3 held by the raster unit, as a full queue (R350). -/
def strqBody (i : Iss) (s : State) : Eff :=
  let a := (sA i).toNat
  let c := coreOf s i.p
  let e := mENG i.w
  match jobOf s i.job with
  | none => .held s
  | some j =>
    if mdrnPending s i.p i.g then .held s
    else if a % 64 ≠ 0 then .trap 2 (sA i) i.part
    else if !(decide (a < lsSize) && inRanges (jobRanges j) a 64) then .trap 5 (sA i) i.part
    else if (List.range 4).any fun k => lsMulti c (a + 16 * k) then .held (lsDataError s i.p i.job a)
    else
      let d := readDesc c a
      if !descLegal d then .trap 1 0 i.part
      else match descOut (jobRanges j) d with
      | some b => .trap 5 (BitVec.ofNat 64 b) i.part
      | none =>
      if (engOf c e).queue.length ≥ engPlaces || (e == 3 && pkType j.words == 2) then .reg (sSet i.gr i.w.d.toNat refusedTicket)
      else
        .done (updGroup (acceptDesc s i.p e i.job i.tag d) i.p i.g fun g =>
          sSet g i.w.d.toNat (ticket e (engOf c e).next))
def strqLegal : Group → InsnWord → Bool := syncLegal dS aS bU fun w => mz w 23 22 && mz w 19 0
def execStrq (p g : Nat) (w : InsnWord) (s : State) : Out := issue p g w 2 strqLegal (onceEff strqBody) s

/-- What a wait for a sequence number finds: still running; a status; or the fault it ended with. -/
inductive StrwEnd where
  | waits
  | status (n : Nat)
  | fault (cause : Nat) (addr : W64)
deriving DecidableEq, Repr

/-- The outcome of a wait for sequence number `seq` of an engine (R180). -/
def strwEnd (x : Engine) (seq : W32) : StrwEnd :=
  if (x.next - 1 - seq).toNat ≥ 2 ^ 31 || !(x.any || !x.queue.isEmpty) then .status 1
  else if x.queue.any fun t => t.seq == seq then .waits
  else match x.ended.reverse.find? fun f => f.seq == seq with
    | some f => .fault f.cause.toNat f.addr
    | none => .status 0

def strwBody (i : Iss) (s : State) : Eff :=
  let t := sA i
  if bit t 63 then .reg (withStatus i 1)
  else
    let e := bits t 33 32
    let seq : W32 := BitVec.ofNat 32 (bits t 31 0)
    match strwEnd (engOf (coreOf s i.p) e) seq with
    | .status n => .reg (withStatus i n)
    | .fault cause addr => .trap cause addr i.part
    | .waits => blockOn i s (.strw e seq i.w.d) (mTMO i.w)
def strwLegal : Group → InsnWord → Bool := syncLegal dS aS bU fun w => mz w 23 16
def execStrw (p g : Nat) (w : InsnWord) (s : State) : Out := issue p g w 2 strwLegal (waitEff strwBody) s

/-- Waits on an engine whose transfer has ended: the groups go on, or take the transfer's exception (R180). -/
def wakeStrw (s : State) (p e : Nat) : State :=
  ((coreOf s p).groups.map (·.1)).foldl (fun s g =>
    match groupOf s p g with
    | some gr => match gr.block with
      | .strw n seq rd =>
        if n ≠ e then s
        else match strwEnd (engOf (coreOf s p) e) seq with
          | .waits => s
          | .status st => setGroup s p g (resumeGroup gr rd st)
          | .fault cause addr => takeException s p g cause ((lowestPc gr).getD 0) addr (alive gr)
      | _ => s
    | none => s) s

def strsBody (i : Iss) (s : State) : Eff :=
  let x := engOf (coreOf s i.p) (mENG i.w)
  .reg (sSet i.gr i.w.d.toNat (BitVec.ofNat 64 ((engPlaces - x.queue.length) * 2 ^ 32 + x.last.toNat)))
def strsLegal : Group → InsnWord → Bool := syncLegal dS aU bU fun w => mz w 23 22 && mz w 19 0
def execStrs (p g : Nat) (w : InsnWord) (s : State) : Out := issue p g w 2 strsLegal (onceEff strsBody) s

/-! ### CWAIT (R181, R182) -/

def cwaitBody (i : Iss) (s : State) : Eff :=
  let n := bits (sA i) 5 0
  match cwaitStatus s n (sBv i) with
  | some st => .reg (withStatus i st)
  | none => blockOn i s (.cwait n (sBv i) i.w.d) (mTMO i.w)
def cwaitLegal : Group → InsnWord → Bool := syncLegal dS aS bS fun w => mz w 23 16
def execCwait (p g : Nat) (w : InsnWord) (s : State) : Out := issue p g w 2 cwaitLegal (waitEff cwaitBody) s

/-! ### BAR (R183) -/

/-- A group arrives at a barrier with a count; at the count all arrived groups go on and the barrier is free. -/
def barArrive (i : Iss) (s : State) (bid count : Nat) (slots : List Nat) : Eff :=
  if slots.length + 1 ≥ count then
    .done (slots.foldl (fun s g => updGroup s i.p g fun x => resumeGroup x 0 0)
      (updCore s i.p fun c => { c with bars := tdel c.bars bid }))
  else
    blockOn i (updCore s i.p fun c => { c with bars := tput c.bars bid { count, job := i.job, slots := slots ++ [i.g] } })
      (.barrier bid) 0

/-- BAR: an arrival waits for the group's own MDRNs (R177), and for a barrier that another job of the context uses (DESIGN
CHOICE). -/
def barBody (i : Iss) (s : State) : Eff :=
  let n := (sA i).toNat
  if n = 0 || n > 48 then .trap 1 0 i.part
  else match tfind (coreOf s i.p).bars (mBID i.w) with
    | some b =>
      if b.job ≠ i.job then .held s
      else if b.count ≠ n then .trap 1 0 i.part
      else if mdrnPending s i.p i.g then .held s
      else barArrive i s (mBID i.w) n b.slots
    | none => if mdrnPending s i.p i.g then .held s else barArrive i s (mBID i.w) n []
def barLegal : Group → InsnWord → Bool := syncLegal dU aS bU fun w => mz w 23 20 && mz w 15 0
def execBar (p g : Nat) (w : InsnWord) (s : State) : Out := issue p g w 2 barLegal (waitEff barBody) s

/-! ### Semaphores (R184-R186, R329) -/

/-- The priority of a job: its queue's, or a higher one it inherits (R329). -/
def jobPrio (s : State) (j : Nat) : Nat :=
  match jobOf s j with
  | some x => max x.inherit (match tfind s.queues x.queue with | some q => q.prio | none => 0)
  | none => 0

/-- The job that holds a semaphore, and a semaphore on which a group of a job waits. -/
def holderJob (s : State) (n : Nat) : Option Nat := (s.jobs.find? fun j => jobHolds s j.1 n).map (·.1)
def waitsOn (s : State) (j : Nat) : Option Nat :=
  s.cores.findSome? fun c => c.2.groups.findSome? fun g =>
    if g.2.job = j then (match g.2.block with | .sema m _ => some m | _ => none) else none

/-- The holder's job takes the waiter's priority, along a chain of at most `fuel` holders; a deeper chain is journalled
(R329). -/
def inheritPrio (s : State) (n prio : Nat) : Nat → State
  | 0 => journal s 5 0 (natLe 1 n)
  | fuel + 1 =>
    match holderJob s n with
    | none => s
    | some j =>
      if prio ≤ jobPrio s j then s
      else
        let s1 := updJob s j fun x => { x with inherit := prio }
        match waitsOn s1 j with
        | some m => inheritPrio s1 m prio fuel
        | none => s1

/-- A semaphore that is allocated to the context of a job. -/
def semaFor (s : State) (job n : Nat) : Option Sema :=
  match tfind s.semas n, jobOf s job with
  | some x, some j => if x.ctx = j.ctx then some x else none
  | _, _ => none

/-- A group takes a free semaphore: an acquire of DEVICE scope (R184). -/
def takeSema (i : Iss) (s : State) (n L : Nat) (x : Sema) : Eff :=
  let s1 := { s with semas := tput s.semas n { x with holder := some (L, i.g), since := s.now, abandoned := false, shortNow := x.short } }
  doneStatus i (nearInvalidateAt (updGroup s1 i.p i.g fun g => { g with semas := g.semas ++ [n] }) i.p) (if x.abandoned then 1 else 0)

def semaBody (i : Iss) (s : State) : Eff :=
  let n := bits (sA i) 7 0
  match semaFor s i.job n, logicalOf s i.p with
  | some x, some L =>
    match x.holder with
    | none => takeSema i s n L x
    | some h =>
      if h = (L, i.g) then doneStatus i (nearInvalidateAt s i.p) 0
      else
        let prio := jobPrio s i.job
        let s1 := { s with semas := tput s.semas n { x with waiters := insertBy (fun w => 7 - w.1) (prio, L, i.g) x.waiters } }
        blockOn i (inheritPrio s1 n prio 8) (.sema n i.w.d) (mTMO i.w)
  | _, _ => .trap 4 0 i.part
def semaLegal : Group → InsnWord → Bool := syncLegal dS aS bU fun w => mz w 23 16
def execSema (p g : Nat) (w : InsnWord) (s : State) : Out := issue p g w 2 semaLegal (waitEff semaBody) s

/-- A release of DEVICE scope, or of SYSTEM scope, waits as `released` does (R93), then `k` goes on. -/
def releaseThen (system : Bool) (k : Iss → State → Eff) (i : Iss) (s : State) : Eff :=
  let pending := (coreOf s i.p).merge.map fun e => e.serial
  let tags := if system then (s.remotes.filter fun r => r.core == i.p && r.slot == i.g && r.kind == 1).map fun r => r.tag else []
  if !i.gr.released && !(pending.isEmpty && tags.isEmpty) then
    .held (setGroup s i.p i.g { i.gr with block := .release pending tags })
  else k i s

def semrBody (i : Iss) (s : State) : Eff :=
  let n := bits (sA i) 7 0
  match semaFor s i.job n with
  | some _ =>
    if !i.gr.semas.contains n then .trap 4 0 i.part
    else releaseThen false (fun i s =>
      .done (semaRelease (updGroup s i.p i.g fun g => { g with semas := g.semas.filter (· != n) }) n false)) i s
  | none => .trap 4 0 i.part
def semrLegal : Group → InsnWord → Bool := syncLegal dU aS bU fun w => mz w 23 0
def execSemr (p g : Nat) (w : InsnWord) (s : State) : Out := issue p g w 2 semrLegal (onceEff semrBody) s

/-! ### Fences (R187, R188, R293) -/

/-- A signal packet leaves for the home device over the CTL channel, one header slot and one of data; none without credit. -/
def sendCtl (s : State) (dst slots : Nat) : Option State :=
  match routeOf s dst with
  | some n =>
    let l := linkOf s n
    if l.state ≠ lkUp || l.crCtl < slots then none else some (setLink s n { l with crCtl := l.crCtl - slots })
  | none => none

/-- FSIG: a signal of a slot; on a proxy it goes to the home device and the group waits for the reply (R293). -/
def fsigNow (slot : Nat) (i : Iss) (s : State) : Eff :=
  match tfind s.fences slot with
  | none => doneStatus i s 2
  | some f =>
    match f.home with
    | none => let (s1, st) := signalFence s slot (sBv i) false; doneStatus i s1 st
    | some (dev, _) =>
      if f.state = fsAbandoned then doneStatus i s 2
      else match sendCtl s dev 2 with
        | none => .held s
        | some s1 => .moved (updGroup s1 i.p i.g fun g => { g with block := .fsig slot (sBv i) i.w.d })

/-- The context of a job. -/
def jobCtx (s : State) (j : Nat) : Nat := match jobOf s j with | some x => x.ctx | none => 0

def fsigBody (i : Iss) (s : State) : Eff :=
  let slot := bits (sA i) 15 0
  if !granted s slot (jobCtx s i.job) then .trap 4 0 i.part
  else releaseThen (mSCOPE i.w == 3) (fsigNow slot) i s
def scopeDev (w : InsnWord) : Bool := decide (2 ≤ mSCOPE w)
def fsigLegal : Group → InsnWord → Bool := syncLegal dS aS bS fun w => scopeDev w && mz w 21 0
def execFsig (p g : Nat) (w : InsnWord) (s : State) : Out := issue p g w 2 fsigLegal (onceEff fsigBody) s

def fwaitBody (i : Iss) (s : State) : Eff :=
  let slot := bits (sA i) 15 0
  if !granted s slot (jobCtx s i.job) then .trap 4 0 i.part
  else match slotStatus s slot (sBv i) with
    | some st => doneStatus i (if st = 0 then nearInvalidateAt s i.p else s) st
    | none => blockOn i s (.fwait slot (sBv i) i.w.d) (mTMO i.w)
def fwaitLegal : Group → InsnWord → Bool := syncLegal dS aS bS fun w => scopeDev w && mz w 21 16
def execFwait (p g : Nat) (w : InsnWord) (s : State) : Out := issue p g w 2 fwaitLegal (waitEff fwaitBody) s

/-! ### Time (R186, R190) -/

/-- Time goes on to at least `t`. -/
def atLeast (s : State) (t : Nat) : State := { s with now := max s.now t }

/-- A group leaves the waiters of every semaphore. -/
def leaveWaiters (s : State) (p g : Nat) : State :=
  match logicalOf s p with
  | some L => settleInherits { s with semas := s.semas.map fun x =>
      (x.1, { x.2 with waiters := x.2.waiters.filter fun w => !(w.2.1 == L && w.2.2 == g) }) }
  | none => s

/-- The time-out statuses of Table 06-8. -/
def timeOutStatus : Block → Option (Nat × BitVec 7)
  | .strw _ _ rd => some (2, rd)
  | .cwait _ _ rd => some (3, rd)
  | .sema _ rd => some (2, rd)
  | .fwait _ _ rd => some (4, rd)
  | _ => none

/-- WAIT_TIME_OUT -/
def execWaitTimeOut (p g : Nat) (s : State) : Out :=
  onUnit (decide (p < 36) && decide (g < 48)) <|
    match groupOf s p g with
    | none => .next s
    | some gr =>
      match gr.deadline, timeOutStatus gr.block with
      | some t, some (st, rd) => .next (leaveWaiters (setGroup (atLeast s t) p g (resumeGroup gr rd st)) p g)
      | _, _ => .next s

/-- SEMA_SHORT_EXPIRY: the hold has lasted 20 µs. -/
def execSemaShortExpiry (n : Nat) (s : State) : Out :=
  onUnit (decide (n < 256)) <|
    match tfind s.semas n with
    | none => .next s
    | some x =>
      whenever (x.holder.isSome && x.shortNow) s <|
        journal { atLeast s (x.since + 20000) with semas := tput s.semas n { x with shortNow := false } } (pgSyc (n / 16)) 0 (natLe 2 n)

end Sys2Proof.Machine
end

