-- ==== Sys2Proof/Machine/CoreEvents.lean ====
section
/-! DEFINITION. The events of a core that no instruction of its groups names: launch, boosts and grants of the issue logic,
cache fills, the merging buffer's drains, page walks, and the answers to window accesses (R63-R66, R74, R77, R84-R93, R152,
R261, R262, R264). -/
namespace Sys2Proof.Machine

/-! ### Launch (R63-R69, R103, R344) -/

/-- Word of a draw record, and the vertices of a draw. -/
def drawWord (d : List W64) (i : Nat) : W64 := d.getD i 0
def drawNvert (d : List W64) : Nat := bits (drawWord d 3) 63 32
/-- Vertex groups of a draw (R344). -/
def vertexGroups (d : List W64) : Nat := ceilDiv (drawNvert d) 32

/-- The draw that a vertex group of the batch belongs to. -/
def drawOfGroup : List (List W64) → Nat → Nat → Nat
  | [], _, k => k
  | d :: ds, n, k => if n < vertexGroups d then k else drawOfGroup ds (n - vertexGroups d) (k + 1)

/-- Declared vector registers of a KERNEL or DRAW job. -/
def jobVregs (x : Job) : Nat := bits (pkW x 4) 55 48

/-- Entry address and s1 of group `n` of a job (R103, R282, R344). -/
def launchEntry (x : Job) (n : Nat) : W64 × W64 :=
  if pkType x.words = 2 then
    let d := x.batch.draws.getD (drawOfGroup x.batch.draws n 0) []
    (BitVec.ofNat 64 (bits (drawWord d 0) 47 0), BitVec.ofNat 64 (bits (drawWord d 2) 47 0))
  else (BitVec.ofNat 64 (bits (pkW x 4) 47 0), BitVec.ofNat 64 (bits (pkW x 5) 47 0))

/-- Local-store base of a job's first declared range. -/
def firstRange (x : Job) : Nat := ((jobRanges x).map (·.1)).headD 0

/-- A group as it starts (Table 03-5). -/
def launchGroup (j : Nat) (x : Job) (n L : Nat) (age : W32) (entry args : W64) : Group :=
  let g0 : Group := { job := j, index := n, age, vregs := jobVregs x }
  let g1 := sSet (sSet (sSet (sSet (sSet g0 1 args) 2 (BitVec.ofNat 64 n)) 3 (BitVec.ofNat 64 x.groups)) 4 (BitVec.ofNat 64 L)) 5
    (BitVec.ofNat 64 (firstRange x))
  let g2 := lanes32.foldl (fun g t => vSet g 0 t (BitVec.ofNat 64 (t + (32 * n + t) % 2 ^ 32 * 2 ^ 32))) g1
  pcSetIn g2 (BitVec.allOnes 32) entry

/-- Free vector-register granules of a core (R69). -/
def granFree (c : Core) : Nat := 256 - c.groups.foldl (fun n g => n + g.2.vregs / 8) 0

/-- The lowest free slot of a core. -/
def freeSlot (c : Core) : Option Nat := lowestFree 48 fun g => (tfind c.groups g).isSome

/-- Whether a job has a group to launch on core `p`. -/
def wantsLaunch (s : State) (p j : Nat) : Bool :=
  match jobOf s j with
  | some x => x.phase == .running && x.cores.contains p && decide (x.nextGroup < x.groups) && !x.batch.binPhase
  | none => false

/-- A group joins a core: the launch counter advances and the group stands at the young end of the list (R65). -/
def placeGroup (s : State) (p slot : Nat) (g : Group) : State :=
  updCore s p fun c => { c with groups := tput c.groups slot g, order := c.order ++ [slot], launches := c.launches + 1 }

/-- GROUP_LAUNCH: the next group of the oldest job of the core that still has one. -/
def execGroupLaunch (p : Nat) (s : State) : Out :=
  onUnit (decide (p < 36)) <|
    let c := coreOf s p
    match c.jobs.find? (wantsLaunch s p), freeSlot c, logicalOf s p with
    | some j, some slot, some L =>
      match jobOf s j with
      | some x =>
        if granFree c < jobVregs x / 8 then .next s
        else
          let (entry, args) := launchEntry x x.nextGroup
          .next (updJob (placeGroup s p slot (launchGroup j x x.nextGroup L c.launches entry args)) j fun x =>
            { x with nextGroup := x.nextGroup + 1, liveGroups := x.liveGroups + 1 })
      | none => .next s
    | _, _, _ => .next s

/-! ### Issue logic (R74, R77) -/

/-- AGE_BOOST: a ready group passed over by a slot is boosted there. -/
def execAgeBoost (p g cls : Nat) (s : State) : Out :=
  onUnit (decide (p < 36) && decide (g < 48) && decide (cls < 4)) <|
    match groupOf s p g with
    | some gr => whenever (gr.block == .none) s (setGroup s p g { gr with boost := setBit gr.boost cls })
    | none => .next s

/-- The candidate thread, outside the set that issued last, that has waited longest: the least issue number, then the lowest
lane. -/
def longestWaiting (g : Group) : Option Nat :=
  (lanesOf (candidates g &&& ~~~ g.lastSet)).foldl (fun o t =>
    match o with
    | none => some t
    | some u => if tget 0 g.lastIssue t < tget 0 g.lastIssue u then some t else some u) none

/-- FORWARD_PROGRESS_GRANT -/
def execForwardProgressGrant (p g : Nat) (s : State) : Out :=
  onUnit (decide (p < 36) && decide (g < 48)) <|
    match groupOf s p g with
    | none => .next s
    | some gr =>
      if gr.issueRun < fwdThreshold (coreOf s p) then .next s
      else match longestWaiting gr with
        | some t => .next (setGroup s p g { gr with granted := some (pcGet gr t), issueRun := 0 })
        | none => .next (setGroup s p g { gr with issueRun := 0 })

/-! ### Instruction cache and page walks (R152, R259-R262) -/

/-- Sets and ways of the instruction cache (R152). -/
def icacheSet (line : Nat) : Nat := line % 128

/-- A line joins the instruction cache; when its set is full the way at a free place leaves (the replacement is not stated). -/
def icacheInstall (victim : Nat) (c : Core) (tag line : Nat) : Core :=
  let same := c.icache.filter fun e => icacheSet e.2 == icacheSet line
  let kept := if same.length < 4 then c.icache
    else let out := same.getD (victim % same.length) (tag, line); c.icache.filter fun e => e != out
  { c with icache := (tag, line) :: kept.filter fun e => e != (tag, line) }

/-- Groups of a core passed through `f`. -/
def coreGroups (s : State) (p : Nat) (f : Group → Group) : State :=
  updCore s p fun c => { c with groups := c.groups.map fun g => (g.1, f g.2) }

/-- ICACHE_FILL: the line on which group `g` waits arrives. -/
def execIcacheFill (p g : Nat) (s : State) : Out :=
  onUnit (decide (p < 36) && decide (g < 48)) <|
    match groupOf s p g with
    | none => .next s
    | some gr =>
      match gr.block with
      | .fetch va =>
        let tag := jobTag s gr.job
        let line := va.toNat / 128
        match xlate s p tag va.toNat .x with
        | .ok pa _ =>
          if poisoned s pa then .next (stopJob s gr.job false)
          else
            let s1 := updCore { s with free := s.free + 1 } p fun c => icacheInstall (Config.victim s.free) c tag line
            .next (coreGroups s1 p fun x => match x.block with
              | .fetch v => if v.toNat / 128 = line && jobTag s x.job == tag then { x with block := .none } else x
              | _ => x)
        | _ => .next (setGroup s p g { gr with block := .none })
      | _ => .next s

/-- The deepest table that the walk cache names for an address, with its level; else the root. -/
def walkStart (c : Core) (ce : BitVec 128) (tag va : Nat) : Nat × Nat :=
  match [0, 1, 2].findSome? fun l =>
      (c.walks.find? fun e => e.tag == tag && e.level == l && e.key == va / 2 ^ (21 + 9 * l)).map fun e => (l, e.table) with
  | some x => x
  | none => (3, ctRoot ce)

/-- The non-leaf entries that a walk goes through, from the table of a level. -/
def walkTables (s : State) (tag va : Nat) : Nat → Nat → List WalkEntry
  | 0, _ => []
  | l + 1, table =>
    let e : W64 := BitVec.ofNat 64 (memNat s (pteAddr table (l + 1) va) 8)
    if pteV e && !pteLeaf e then
      { tag, level := l, key := va / 2 ^ (21 + 9 * l), table := ptePage e * 0x1000 } :: walkTables s tag va l (ptePage e * 0x1000)
    else []

/-- Entries join a level that holds `size`. -/
def installAll {α : Type} [BEq α] (size : Nat) (victim : Nat) (xs : List α) (old : List α) : List α :=
  xs.foldl (fun o x => if o.contains x then o else installAt size victim x o) old

/-- A walk has ended in a fault: it is recorded, and the waiting instruction will raise its cause; a poisoned table stops the
job (R229, R260). -/
def walkFault (s : State) (p g tag : Nat) (va : W64) (f : XFault) (gr : Group) : State :=
  let s1 := xltRecord s f true ((logicalOf s p).getD 0) tag va.toNat
  if f.kind = 4 then stopJob s1 gr.job false
  else setGroup s1 p g { gr with block := .none, xfault := some (va.toNat / 0x1000, f.cause) }

/-- PAGE_WALK: the walk for the address on which group `g` waits. -/
def execPageWalk (p g : Nat) (s : State) : Out :=
  onUnit (decide (p < 36) && decide (g < 48)) <|
    match groupOf s p g with
    | none => .next s
    | some gr =>
      match gr.block with
      | .walk va perm =>
        let tag := jobTag s gr.job
        let ce := coreEntry s p tag
        let s := pmcCore (pmcCore s p 0x23 1) p 0x24 1
        let (l, table) := walkStart (coreOf s p) ce tag va.toNat
        let r := if ctV ce then walkFrom s ce va.toNat l table else walk s ce va.toNat
        match r with
        | .fault f => .next (walkFault s p g tag va f gr)
        | .leaf level e at_ =>
          if !grants (pteAttr e) perm then .next (walkFault s p g tag va { cause := 4, kind := 2, level, entry := e } gr)
          else
            let v := Config.victim s.free
            let x := mergedEntry s ce tag va.toNat level e at_
            let s1 := updCore { s with free := s.free + 1 } p fun c => { c with
              tlb1 := installAt tlb1Size v x c.tlb1
              tlb2 := installAt tlb2Size v x c.tlb2
              walks := installAll walkCacheSize v (walkTables s tag va.toNat l table) c.walks }
            .next (coreGroups s1 p fun y => match y.block with
              | .walk u _ => if jobTag s y.job == tag && tlbHits tag u.toNat x then { y with block := .none } else y
              | _ => y)
      | _ => .next s

/-! ### Answers to loads (R84, R86, R93, R264, R423) -/

/-- Whether an access instruction is an acquire of DEVICE or SYSTEM scope. -/
def acquireWord (w : InsnWord) : Bool := decide (2 ≤ mSCOPE w) && (mORD w == 1 || mORD w == 3)

/-- A pending load or window atomic whose bytes are all there completes: its registers are written and the group goes on. -/
def finishLoad (s : State) (p g : Nat) (l : PendLoad) : State :=
  match groupOf s p g with
  | none => s
  | some gr =>
    let c := coreOf s p
    let s1 :=
      if l.atomic then l.addrs.foldl (fun s x => atomicMem l.w p g gr s x.1 x.2) s
      else setGroup s p g (l.addrs.foldl (fun x a =>
        putLoaded l.w l.scalar a.1 (leNat ((List.range (mSIZE l.w)).map fun k => pendByte c l (a.2 + k))) x) gr)
    let s2 := updGroup s1 p g fun x => { x with block := .none }
    if acquireWord l.w then nearInvalidateAt s2 p else s2

/-- Bytes arrive for the pending load of a group; it completes when nothing is missing any more. -/
def arriveFor (s : State) (p g : Nat) (l : PendLoad) (key addr : Nat) (bs : List Byte) : State :=
  let l1 := { l with missing := l.missing.filter (· != key), got := twrites 0 l.got addr bs }
  if l1.missing.isEmpty then finishLoad s p g l1
  else updGroup s p g fun x => { x with block := .load l1 }

/-- Slots of a core whose group waits for `key`, with their loads. -/
def waitingFor (s : State) (p key : Nat) : List (Nat × PendLoad) :=
  (coreOf s p).groups.filterMap fun g => match g.2.block with
    | .load l => if l.missing.contains key then some (g.1, l) else none
    | _ => none

/-- NEAR_CACHE_FILL: a line arrives. A poisoned line is not installed and stops the jobs that wait for it (R229); a fill asked for
before an invalidation is delivered and not installed (R88). Bytes that wait in the merging buffer lie over the line. -/
def execNearCacheFill (p line : Nat) (s : State) : Out :=
  onUnit (decide (p < 36)) <|
    match (coreOf s p).fills.find? fun f => f.line == line with
    | none => .next s
    | some f =>
      let waits := waitingFor s p line
      let s1 := updCore s p fun c => { c with fills := c.fills.filter fun x => x.line != line }
      if poisoned s line then
        .next (waits.foldl (fun s x => match groupOf s p x.1 with | some gr => stopJob s gr.job false | none => s) s1)
      else
        let bs := memRead s line 128
        let ovr := (List.range 128).map fun k => (mergeByte (coreOf s p) (line + k)).getD (bs.getD k 0)
        let s2 := if f.stale then s1 else updCore s1 p fun c => nearFill c line ovr
        .next (waits.foldl (fun s x => arriveFor s p x.1 x.2 line line bs) s2)

/-- The first group, by core and slot, that waits for an access address behind a window. -/
def windowWaiter (s : State) (addr : Nat) : Option (Nat × Nat × PendLoad) :=
  allCores.findSome? fun p => (waitingFor s p addr).head?.map fun x => (p, x.1, x.2)

/-- The mask of the lanes of a pending load that access an address. -/
def lanesAt (l : PendLoad) (addr : Nat) : Mask := maskOf fun t => l.addrs.any fun x => x.1 == t && x.2 == addr

/-! ### The merging buffer (R85, R89, R93) -/

/-- MERGE_BUFFER_DRAIN: the oldest entry not yet drained is written to the system cache, for which a request tag is taken. With a
multi-bit error its line is poisoned, and cause 0x07 is raised for every group with a store in it (R89). -/
def execMergeBufferDrain (p : Nat) (err : Bool) (s : State) : Out :=
  onUnit (decide (p < 36)) <|
    match (openEntries (coreOf s p)).head? with
    | none => .next s
    | some e =>
      if groupTagsFree s p = 0 then .next s
      else
        let s1 := updCore (drainEntry s e err) p fun c =>
          { c with merge := c.merge.map fun x => if x.serial = e.serial then { x with sent := true } else x }
        if !err then .next s1
        else
          let s2 := journal (errCount s1 (pgCore p)) (pgCore p) 1 (natLe 8 e.line)
          .next ((e.stores.map (·.1)).eraseDups.foldl (fun s g => match groupOf s p g with
            | some gr => takeException s p g 7 ((lowestPc gr).getD 0) (BitVec.ofNat 64 e.line) (alive gr)
            | none => s) s2)

/-- The release waits of a core without an acknowledged entry, or an acknowledged Spoke write; a wait for nothing has ended. -/
def ackRelease (g : Group) (serial tag : Option Nat) : Group :=
  match g.block with
  | .release ps ts =>
    let ps1 := ps.filter fun n => some n != serial
    let ts1 := ts.filter fun n => some n != tag
    if ps1.isEmpty && ts1.isEmpty then { g with block := .none, released := true } else { g with block := .release ps1 ts1 }
  | _ => g

/-- MERGE_BUFFER_ACK: the oldest drained entry is acknowledged. -/
def execMergeBufferAck (p : Nat) (s : State) : Out :=
  onUnit (decide (p < 36)) <|
    match (coreOf s p).merge.find? fun e => e.sent with
    | none => .next s
    | some e =>
      .next (coreGroups (updCore s p fun c => { c with merge := c.merge.filter fun x => x.serial != e.serial }) p fun g =>
        ackRelease g (some e.serial) none)

end Sys2Proof.Machine
end

