-- ==== Sys2Proof/Machine/Streams.lean ====
section
/-! DEFINITION. The stream engines at work (R198, R200-R219, R553): cadence waits of a tile, its translation and checks, its bytes, its
landing, faults and data errors; the patrol of the local store; and the completion of host-window accesses. -/
namespace Sys2Proof.Machine

/-! ### Cadence waits (R213, R214, Table 07-2) -/

/-- What a tile's cadence wait says: load with an outcome code; abandon with one; or wait. -/
inductive TileWait where
  | load (outcome : Nat)
  | abandon (outcome : Nat)
  | wait
deriving DecidableEq, Repr

/-- The wait of the tile in hand. -/
def tileWait (s : State) (t : Transfer) : TileWait :=
  let d := t.desc
  let n := dCsrc d
  if !dCw d then .load 0
  else if !bound s n || !isVideo (sourceOf s n) then .abandon 4
  else match videoReached (sourcePos s n) (mkPos t.wantFrame (dLine0 d + t.tile * dLinc d)) with
    | some 0 => .load 0
    | some _ => if dPassa d then .abandon 2 else .load 1
    | none => if stoppedSrc s n && !dStopw d then .abandon 3 else .wait

/-! ### Completion and faults -/

/-- The front transfer of an engine replaced. -/
def setFront (x : Engine) (t : Transfer) : Engine := { x with queue := t :: x.queue.drop 1 }

/-- The outcome record of a transfer (R216). -/
def outcomeRecord (t : Transfer) : List Byte :=
  natLe 8 (t.landed % 2 ^ 16 + t.outcome * 2 ^ 16 + (if dCw t.desc then t.frame.toNat else 0) * 2 ^ 32)

/-- The front transfer of engine `e` completes as `t`: its record is written, it leaves the queue, and its waiters go on. -/
def completeTransfer (s : State) (p e : Nat) (t : Transfer) : State :=
  wakeStrw (updCore s p fun c =>
    let c1 := if dOuten t.desc then lsWrite c (dOut t.desc) (outcomeRecord t) else c
    let x := engOf c1 e
    setEng c1 e (endFailed (settleEng { x with queue := x.queue.drop 1 }))) p e

/-- The current tile fails under R210: the transfer and every later one of its job on the engine end with the cause. -/
def engineFault (s : State) (p e : Nat) (t : Transfer) (cause kind addr : Nat) : State :=
  let s1 := raiseIrq (strRecord s p e kind t.tile (BitVec.ofNat 64 addr) t.seq t.tag) (pgStr p) 0
  let s2 := updCore s1 p fun c =>
    let x := engOf c e
    let mine := x.queue.filter fun y => y.job == t.job
    setEng c e (endFailed (settleEng { x with
      queue := x.queue.filter fun y => y.job != t.job
      failed := x.failed ++ [(t.job, BitVec.ofNat 8 cause, BitVec.ofNat 64 addr)]
      ended := x.ended ++ mine.map fun y =>
        { seq := y.seq, job := y.job, cause := BitVec.ofNat 8 cause, addr := BitVec.ofNat 64 addr } }))
  wakeStrw s2 p e

/-- A source data error in a tile (R212): a record, a journal record, and the job is stopped; for a malformed surface for good. -/
def engineDataError (s : State) (p e : Nat) (t : Transfer) (kind addr : Nat) : State :=
  let s1 := raiseIrq (strRecord s p e kind t.tile (BitVec.ofNat 64 addr) t.seq t.tag) (pgStr p) 1
  stopJob (journal s1 (pgStr p) 1 (natLe 8 addr)) t.job (kind == 4)

/-! ### Translation of a tile (R209, R210) -/

/-- Why a tile cannot go: a fault's cause, kind and address, or a data error's kind and address. -/
inductive TileBad where
  | fault (cause kind addr : Nat)
  | data (kind addr : Nat)
deriving DecidableEq, Repr

/-- Translations of the pages that addresses lie in, for a unit and a tag, checked in order; an address behind a Spoke window
without a route over an UP link has no mapping (R421). -/
def translateAll (s : State) (unit tag : Nat) (perm : Perm) : List Nat → Tbl Nat → Except (Nat × Nat × Nat) (Tbl Nat)
  | [], t => .ok t
  | va :: vas, t =>
    if (tfind t (va / 0x1000)).isSome then translateAll s unit tag perm vas t
    else match rangeXlate s unit tag va perm with
      | .error f => .error (f.cause, if f.kind = 2 then 2 else 1, va)
      | .ok (pa, _, _) =>
        if isSpoke pa && (spokeLink s pa).isNone then .error (3, 1, va)
        else translateAll s unit tag perm vas (tput t (va / 0x1000) (pa / 0x1000))

/-- The first address of a list whose line is poisoned, through held translations. -/
def firstPoison (s : State) (trans : Tbl Nat) (vas : List Nat) : Option Nat :=
  vas.find? fun va => match heldPa trans va with | some pa => poisoned s pa | none => false

/-- A byte of device memory through held translations. -/
def heldByte (s : State) (trans : Tbl Nat) (va : Nat) : Byte :=
  match heldPa trans va with | some pa => memByte s pa | none => 0

/-- Pixel column and row of element (i0, i1) of tile `t` of a SURF transfer (R208). -/
def surfX (d : List W64) (i0 : Nat) : Int := dX0 d + i0
def surfY (d : List W64) (t i1 : Nat) : Int := dY0 d + t * dDstep d + i1

/-- A coordinate clamped into a surface's extent, and whether it lies outside. -/
def clampTo (v : Int) (n : Nat) : Nat × Bool :=
  if v < 0 then (0, true) else if v < n then (v.toNat, false) else (n - 1, true)

/-- The cells of a SURF tile: local address of its element, the pixel whose value it takes, and whether it is padding. -/
def surfCells (d : List W64) (f : Surf) (t : Nat) : List (Nat × Nat × Nat × Bool) :=
  (List.range (dRows d)).flatMap fun r =>
    let (i1, o1) := clampIdx (r % dSlice d) (dPadt d) (dE1 d)
    (List.range (dPadl d + dE0 d + dPadr d)).map fun c =>
      let (i0, o0) := clampIdx c (dPadl d) (dE0 d)
      let (x, ox) := clampTo (surfX d i0) f.width
      let (y, oy) := clampTo (surfY d t i1) f.height
      (dLocal d t r (c * dEsize d), x, y, o0 || o1 || ox || oy)

/-- Blocks that the real pixels of a SURF tile need, ascending. -/
def surfBlocks (d : List W64) (f : Surf) (t : Nat) : List Nat :=
  let need := (surfCells d f t).filter fun x => !x.2.2.2 || dPad d == 2
  (List.range (f.bx * f.by_)).filter fun b => need.any fun x => (f.place x.2.1 x.2.2.1).1 == b

/-- Whether a SURF tile touches pixels outside the surface. -/
def surfOutside (d : List W64) (f : Surf) (t : Nat) : Bool :=
  (List.range (dE1 d)).any fun i1 => (clampTo (surfY d t i1) f.height).2
  || (List.range (dE0 d)).any fun i0 => (clampTo (surfX d i0) f.width).2

/-- Checks of a SURF tile: header, headers of its blocks, their data (R208, R210, R212). -/
def surfCheck (s : State) (unit : Nat) (t : Transfer) : Except TileBad (Tbl Nat) :=
  let d := t.desc
  let at_ (o : Nat) : Nat := (dDev d + o) % 2 ^ 64
  let toBad (e : Nat × Nat × Nat) : TileBad := .fault e.1 e.2.1 e.2.2
  match translateAll s unit t.tag .r ((List.range 64).map at_) [] with
  | .error e => .error (toBad e)
  | .ok t1 =>
    let rd1 (o : Nat) : Byte := heldByte s t1 (at_ o)
    match parseSurf rd1 with
    | none => .error (.data 4 (dDev d))
    | some f =>
      if fmtSize f.fmt ≠ dEsize d || (surfOutside d f t.tile && dPad d == 0) then .error (.data 4 (dDev d))
      else
        let bs := surfBlocks d f t.tile
        match translateAll s unit t.tag .r (bs.flatMap fun b => (List.range 8).map fun i => at_ (64 + 8 * b + i)) t1 with
        | .error e => .error (toBad e)
        | .ok t2 =>
          let rd2 (o : Nat) : Byte := heldByte s t2 (at_ o)
          if bs.any fun b => !blockOk (blockHeader rd2 b) then .error (.data 4 (dDev d))
          else
            let offs := bs.flatMap fun b =>
              let h := blockHeader rd2 b
              (List.range (16 * bhLen h)).map fun i => at_ (16 * bhOff h + i)
            match translateAll s unit t.tag .r offs t2 with
            | .error e => .error (toBad e)
            | .ok t3 =>
              let rd3 (o : Nat) : Byte := heldByte s t3 (at_ o)
              match firstPoison s t3 (((List.range 64).map at_) ++ offs) with
              | some a => .error (.data 3 a)
              | none => if bs.any fun b => (decodeBlock rd3 f b).isNone then .error (.data 4 (dDev d)) else .ok t3

/-- Device addresses of a tile in element order. -/
def tileVas (d : List W64) (t : Nat) : List Nat :=
  (tileBytes d t).filterMap fun x => match x.1 with | .dev a => some a | .const _ => none

/-- The first local byte of a list with a multi-bit error. -/
def firstLsBad (c : Core) (as : List Nat) : Option Nat := as.find? fun a => lsMulti c a

/-- Everything that R210 and R212 ask of a tile before any of its bytes lands: its translations, or why not. -/
def tileCheck (s : State) (p : Nat) (t : Transfer) : Except TileBad (Tbl Nat) :=
  let d := t.desc
  let c := coreOf s p
  match dOp d with
  | 0 =>
    let vas := tileVas d t.tile
    match translateAll s p t.tag .r vas [] with
    | .error e => .error (.fault e.1 e.2.1 e.2.2)
    | .ok tr => match firstPoison s tr vas with
      | some a => .error (.data 3 a)
      | none => .ok tr
  | 1 =>
    match translateAll s p t.tag .w (tileVas d t.tile) [] with
    | .error e => .error (.fault e.1 e.2.1 e.2.2)
    | .ok tr => match firstLsBad c ((tileBytes d t.tile).map (·.2)) with
      | some a => .error (.data 3 a)
      | none => .ok tr
  | 2 =>
    match firstLsBad c (tileVas d t.tile) with
    | some a => .error (.data 3 a)
    | none => .ok []
  | _ => surfCheck s p t

/-! ### The bytes of a tile (R205-R208) -/

/-- The local bytes that a SURF tile writes. -/
def surfBytes (s : State) (t : Transfer) : List (Nat × Byte) :=
  let d := t.desc
  let rd (o : Nat) : Byte := heldByte s t.trans ((dDev d + o) % 2 ^ 64)
  match parseSurf rd with
  | none => []
  | some f =>
    let blocks := (surfBlocks d f t.tile).map fun b => (b, (decodeBlock rd f b).getD [])
    (surfCells d f t.tile).flatMap fun x =>
      let (b, o) := f.place x.2.1 x.2.2.1
      let px := ((tfind blocks b).getD []).drop o
      (List.range (dEsize d)).map fun k =>
        (x.1 + k, if x.2.2.2 && dPad d == 1 then BitVec.ofNat 8 (dPadval d >>> (8 * k)) else px.getD k 0)

/-- The state with the bytes of the tile in hand moved. -/
def moveTile (s : State) (p : Nat) (t : Transfer) : State :=
  let d := t.desc
  let c := coreOf s p
  let put (xs : List (Nat × Byte)) : State := updCore s p fun c => xs.foldl (fun c x => lsWrite c x.1 [x.2]) c
  match dOp d with
  | 0 => put ((tileBytes d t.tile).map fun x => (x.2, match x.1 with | .dev a => heldByte s t.trans a | .const b => b))
  | 1 => storeBytes s ((tileBytes d t.tile).filterMap fun x => match x.1 with
      | .dev a => (heldPa t.trans a).map fun pa => (pa, lsByte c x.2)
      | .const _ => none)
  | 2 => put ((tileBytes d t.tile).map fun x => (x.2, match x.1 with | .dev a => lsByte c a | .const b => b))
  | _ => put (surfBytes s t)

/-! ### Remote accesses of an engine (R422, R423) -/

/-- The slot number under which a remote access of engine `e` is kept. -/
def engSlot (e : Nat) : Nat := 64 + e

/-- Pages of translations that lie behind a Spoke window. -/
def spokePages (t : Tbl Nat) : List Nat := (t.filter fun x => isSpoke (x.2 * 0x1000)).map fun x => x.2 * 0x1000

/-- An engine waits for answers from a Tandem peer. -/
def engWaits (s : State) (p e : Nat) : Bool := s.remotes.any fun r => r.core == p && r.slot == engSlot e

/-! ### TRANSFER jobs (R553) -/

/-- Tiles of a TRANSFER job. -/
def copyTiles (words : List W64) : Nat := ceilDiv (bits (words.getD 6 0) 39 0) 65536

/-- The job of a copy ends: complete when every tile has landed; with its fault when every tile below the failed one has, and
none is in hand. -/
def settleCopy (s : State) (p : Nat) : State :=
  match (coreOf s p).copy with
  | none => s
  | some x =>
    match jobOf s x.job with
    | none => s
    | some j =>
      let idle := x.begun.all fun b => b.isNone
      match x.failed with
      | some (i, cause, addr) =>
        if idle && (List.range 4).all fun e => decide (x.next.getD e 0 ≥ i) then
          let s1 := raiseIrq (strRecord s p (i % 4) (if cause = 4 then 2 else 1) i (BitVec.ofNat 64 addr) 0 x.tag) (pgStr p) 0
          faultJob s1 x.job cause
        else s
      | none => if idle && (List.range 4).all fun e => decide (x.next.getD e 0 ≥ copyTiles j.words) then endJob s x.job 0 0 else s

/-- Addresses of a copy tile on one side. -/
def copyVas (words : List W64) (w i : Nat) : List Nat :=
  let (o, n) := copyTile words i
  (List.range n).map fun k => bits (words.getD w 0) 47 0 + o + k

/-- Engine `e` begins its next tile of the copy. -/
def startCopy (s : State) (p e : Nat) (x : Copy) (j : Job) : State :=
  let i := x.next.getD e 0
  let limit := match x.failed with | some f => min f.1 (copyTiles j.words) | none => copyTiles j.words
  if j.phase ≠ .running || (x.begun.getD e none).isSome || i ≥ limit then s
  else
    let fail (cause addr : Nat) : State :=
      settleCopy (updCore (xltRecord s { cause, kind := if cause = 4 then 2 else 1, level := 0, entry := 0 } false (unitReq s p) x.tag addr) p
        fun c => { c with copy := some { x with failed := some (i, cause, addr) } }) p
    match translateAll s p x.tag .r (copyVas j.words 4 i) [] with
    | .error f => fail f.1 f.2.2
    | .ok src =>
      match translateAll s p x.tag .w (copyVas j.words 5 i) [] with
      | .error f => fail f.1 f.2.2
      | .ok dst =>
        match firstPoison s src (copyVas j.words 4 i) with
        | some a =>
          let s1 := raiseIrq (strRecord s p e 3 i (BitVec.ofNat 64 a) 0 x.tag) (pgStr p) 1
          stopJob (journal s1 (pgStr p) 1 (natLe 8 a)) x.job false
        | none =>
          match sendRemotes s p (engSlot e) x.job 0x1000 0 (spokePages src) with
          | none => s
          | some s1 => match sendRemotes s1 p (engSlot e) x.job 0x1000 1 (spokePages dst) with
            | none => s
            | some s2 => updCore s2 p fun c => { c with copy := some { x with begun := x.begun.set e (some (src, dst)) } }

/-- Engine `e`'s tile of the copy lands. -/
def landCopy (s : State) (p e : Nat) (x : Copy) (j : Job) : State :=
  match x.begun.getD e none with
  | none => s
  | some (src, dst) =>
    let i := x.next.getD e 0
    let ps := copyPairs j.words src dst i
    let s1 := pmcCore (storeBytes s (ps.map fun y => (y.2, memByte s y.1))) p 0x30 ps.length
    settleCopy (updCore s1 p fun c =>
      { c with copy := some { x with begun := x.begun.set e none, next := x.next.set e (i + 4) } }) p

/-! ### The commands -/

/-- The tile in hand of a transfer begins. -/
def beginTile (s : State) (p e : Nat) (t : Transfer) (outcome : Nat) : State :=
  match tileCheck s p t with
  | .error (.fault cause kind addr) =>
    engineFault (xltRecord s { cause, kind, level := 0, entry := 0 } false (unitReq s p) t.tag addr) p e t cause kind addr
  | .error (.data kind addr) => engineDataError s p e t kind addr
  | .ok tr =>
    match sendRemotes s p (engSlot e) t.job 0x1000 (if dOp t.desc = 1 then 1 else 0) (spokePages tr) with
    | none => s
    | some s1 =>
      let s2 := if outcome = 1 then rbump s1 (pgStr p) 0x110 15 0 1 else s1
      updCore s2 p fun c => setEng c e (setFront (engOf c e) { t with
        started := true, trans := tr, outcome := max t.outcome outcome
        relFrame := BitVec.ofNat 32 (posFrame (sourcePos s (dCsrc t.desc))) })

/-- TILE_START: the engine's front transfer begins its tile, or is abandoned (Table 07-2); with no transfer queued, a tile of the
core's TRANSFER job begins. -/
def execTileStart (p e : Nat) (s : State) : Out :=
  onUnit (decide (p < 36) && decide (e < 4)) <|
    match (engOf (coreOf s p) e).queue with
    | t :: _ =>
      let runs := match jobOf s t.job with | some j => j.phase == .running | none => false
      if t.started || !runs then .next s
      else match tileWait s t with
        | .wait => .next s
        | .abandon n =>
          .next (completeTransfer (rbump s (pgStr p) 0x110 31 16 1) p e { t with outcome := max t.outcome n })
        | .load n => .next (beginTile s p e t n)
    | [] =>
      match (coreOf s p).copy with
      | some x => match jobOf s x.job with
        | some j => .next (startCopy s p e x j)
        | none => .next s
      | none => .next s

/-- TILE_LANDED: the tile's bytes are written; the last tile completes the transfer. A tile that waits for a Tandem peer has not
landed. -/
def execTileLanded (p e : Nat) (s : State) : Out :=
  onUnit (decide (p < 36) && decide (e < 4)) <|
    if engWaits s p e then .next s
    else match (engOf (coreOf s p) e).queue with
      | t :: _ =>
        if !t.started then .next s
        else
          let s1 := pmcCore (moveTile s p t) p 0x30 (if dOp t.desc = 3 then (surfBytes s t).length else (tileBytes t.desc t.tile).length)
          let t1 := { t with landed := t.landed + 1, tile := t.tile + 1, started := false, trans := [], frame := t.relFrame }
          if t1.tile ≥ dCount t.desc then .next (completeTransfer s1 p e t1)
          else .next (updCore s1 p fun c => setEng c e (setFront (engOf c e) t1))
      | [] =>
        match (coreOf s p).copy with
        | some x => match jobOf s x.job with
          | some j => .next (landCopy s p e x j)
          | none => .next s
        | none => .next s

/-- The next four tiles of an engine's stream: transfer and tile index (R209). -/
def nextTiles : List Transfer → List (Transfer × Nat)
  | [] => []
  | t :: ts =>
    (((List.range (dCount t.desc - t.tile - 1)).map fun k => (t, t.tile + 1 + k))
      ++ ts.flatMap fun u => (List.range (dCount u.desc)).map fun k => (u, k)).take 4

/-- TRANSLATION_PREFETCH: the pages of the next four tiles that have a mapping are held; no failure is a fault (R209). -/
def execTranslationPrefetch (p e : Nat) (s : State) : Out :=
  onUnit (decide (p < 36) && decide (e < 4)) <|
    let x := engOf (coreOf s p) e
    if x.queue.isEmpty then .next s
    else
      let pages := (nextTiles x.queue).flatMap fun y =>
        if dOp y.1.desc = 2 then [] else (tileVas y.1.desc y.2).map fun a => (y.1.tag, a / 0x1000)
      let ok := pages.eraseDups.filter fun y => match rangeXlate s p y.1 (y.2 * 0x1000) .r with
        | .ok _ => true
        | .error f => f.kind == 2
      .next (updCore s p fun c => setEng c e { engOf c e with ahead := ok })

/-- LS_SCRUB: the patrol reads its next row: single-bit errors are corrected and counted; a word with a multi-bit error stays so
until it is written (R197, R198). SCRUB = 0 stops the patrol. -/
def execLsScrub (p : Nat) (hits : List EccHit) (s : State) : Out :=
  onUnit (decide (p < 36)) <|
    whenever (bits (coreOf s p).strCfg 7 0 != 0) s <|
      let row := (coreOf s p).scrubRow
      let s1 := hits.foldl (fun s h =>
        if h.multi then updCore s p fun c => { c with lsBad := ((row * 64 + h.bank % 64) :: c.lsBad).eraseDups }
        else errCount s (pgStr p)) s
      updCore s1 p fun c => { c with scrubRow := (row + 1) % 4096 }

/-! ### Completions of host-window accesses (R264) -/

/-- An engine whose tile in hand touches the page of a physical address. -/
def engineTouching (s : State) (pa : Nat) : Option (Nat × Nat × Transfer) :=
  s.cores.findSome? fun c => c.2.eng.findSome? fun e =>
    match e.2.queue with
    | t :: _ => if t.started && t.trans.any (fun x => x.2 == pa / 0x1000) then some (c.1, e.1, t) else none
    | [] => none

/-- A poisoned TLP received (R517, Table 19-13): the record and its header log are held, or MULTI is set; it is counted with the
uncorrectable errors and journalled. -/
def poisonedTlp (s : State) (vi : Nat) : State :=
  let s1 := journal (rcount s 0x200 0x108) 0x200 1
  if infoHeld s 0x200 0x10C then capture s1 0x200 0x10C 30 0
  else
    let s2 := raiseIrq (capture s1 0x200 0x10C 30 (4 * 2 ^ 27 + vi * 2 ^ 21)) 0x200 1
    { s2 with aerLog := Config.aerHeader s2.free, free := s2.free + 1 }

/-- HOST_COMPLETION: `addr` is the access's device physical address in the sub-window of function `vi`. Unsupported Request and
Completer Abort give cause 0x04, and are recorded as a host refusal; poisoned data is a source data error (R264, Table 09-11). -/
def execHostCompletion (vi addr : Nat) (status : HostStatus) (data : List Byte) (s : State) : Out :=
  onUnit (decide (vi < 64) && isHost addr && decide ((addr - hostBase) / hostSize = vi)) <|
    match windowWaiter s addr with
    | some (p, g, l) =>
      (match groupOf s p g with
      | none => .next s
      | some gr =>
        match status with
        | .ok =>
          let bs := (List.range (mSIZE l.w)).map fun k => data.getD k 0
          .next (arriveFor (storeAt s addr bs) p g l addr addr bs)
        | .poisoned => .next (stopJob (poisonedTlp s vi) gr.job false)
        | _ =>
          let tag := jobTag s gr.job
          let s1 := xltRecord s { cause := 4, kind := 6, level := 0, entry := 0 } true ((logicalOf s p).getD 0) tag addr
          .next (takeException s1 p g 4 l.pc (BitVec.ofNat 64 addr) (lanesAt l addr)))
    | none =>
      match engineTouching s addr with
      | none => .next s
      | some (p, e, t) =>
        match status with
        | .ok => .next (if dOp t.desc = 1 then s else storeAt s addr data)
        | .poisoned => .next (engineDataError (poisonedTlp s vi) p e t 3 addr)
        | _ =>
          .next (engineFault (xltRecord s { cause := 4, kind := 6, level := 0, entry := 0 } false ((logicalOf s p).getD 0) t.tag addr)
            p e t 4 2 addr)

end Sys2Proof.Machine
end

