-- ==== Sys2Proof/Machine/Queues.lean ====
section
/-! DEFINITION. Queue rings, packets and the jobs they become (R280-R288, R325, R326, R334, R335, R552, R553): doorbells, the
fetch and its checks, the dispatcher, what each type of job does as it starts, and completion. -/
namespace Sys2Proof.Machine

/-! ### Rings (R281, R283, R284) -/

/-- Packets that a ring holds. -/
def ringSize (q : Queue) : Nat := 2 ^ q.log2

/-- The tail count of a queue. -/
def tailOf (s : State) (q : Nat) : W32 := rget s (pgQue q) 0x104

/-- Whether a tail write is accepted (R281). -/
def tailOk (old new : W32) (head : W32) (size : Nat) : Bool :=
  decide (0 < (new - old).toNat) && decide ((new - old).toNat < 2 ^ 31) && decide ((new - head).toNat ≤ size)

/-- A write of QUE_TAIL: a queue that does not exist, or whose context is DYING, ignores it and counts it; a refused write is
counted and sets REFUSED (R281, R307, Table 10-9). -/
def tailWrite (s : State) (q : Nat) (v : W32) : State :=
  match tfind s.queues q with
  | none => errCount s (pgQue q)
  | some x =>
    let dying : Bool := match ctxOf s x.ctx with | some c => c.state == .dying | none => true
    if dying then errCount s (pgQue q)
    else if tailOk (tailOf s q) v x.head (ringSize x) then rset s (pgQue q) 0x104 v
    else raiseIrq (errCount s (pgQue q)) (pgQue q) 2

/-- Logical cores of a partition. -/
def partCores (s : State) (i : Nat) : Mask := match tfind s.parts i with | some p => p.cores | none => 0

/-- Whether a local-store range word is as R282 asks. -/
def rangesOk (w : W64) : Bool :=
  let b0 := bits w 9 0
  let l0 := bits w 20 10
  let b1 := bits w 30 21
  let l1 := bits w 41 31
  decide (1 ≤ l0) && decide (b0 + l0 ≤ 1024) && decide (b1 + l1 ≤ 1024)

/-- Words 4-7 of a packet are as its type has them (Table 10-2, Table 12-1). -/
def typeOk (s : State) (part : Nat) (w : List W64) : Bool :=
  let z (i hi lo : Nat) : Bool := bits (w.getD i 0) hi lo == 0
  let cores (m : Mask) : Bool := m != 0 && (m &&& ~~~ partCores s part) == 0
  match pkType w with
  | 0 => z 4 63 0 && z 5 63 0 && z 6 63 0 && z 7 63 0
  | 1 => z 4 63 56 && z 5 63 48 && z 7 63 42 && cores (pkCores w) && rangesOk (w.getD 7 0)
  | 2 => z 4 63 56 && z 5 63 48 && z 6 15 0 && z 7 63 42 && cores (pkCores w) && rangesOk (w.getD 7 0)
      && bits (w.getD 4 0) 6 0 == 0 && bits (w.getD 5 0) 5 0 == 0
  | 3 => z 4 63 48 && z 5 63 48 && z 6 63 40 && z 6 3 0 && z 7 63 32 && cores (pkCores w)
  | 4 => z 4 63 32 && z 5 63 0 && z 6 63 0 && z 7 63 0
  | 5 => z 4 63 48 && z 4 11 0 && z 5 63 48 && z 5 11 0 && z 6 63 2 && bits (w.getD 6 0) 1 0 != 3 && z 7 63 0
  | _ => false

/-- Whether a packet is well formed for a context (R283). -/
def packetOk (s : State) (ctx part tag : Nat) (w : List W64) : Bool :=
  decide (pkType w < 6) && bits (w.getD 0 0) 55 53 == 0 && typeOk s part w
  && (!pkWaiten w || granted s (pkWslot w) ctx) && (!pkSigen w || granted s (pkSslot w) ctx)
  && pkCpl w % 16 == 0 && (pkCpl w == 0 || (rangeCovers s tag (pkCpl w) 16 true).isSome)

/-- Whether a SEQ is accepted (R284). -/
def seqOk (q : Queue) (seq : W32) : Bool :=
  match q.lastSeq with
  | none => true
  | some l => seqLater seq l && (match q.accepted.head? with
    | some o => decide ((seq - o.1).toNat < 2 ^ 31)
    | none => true)

/-- The packet is accepted: its SEQ is the last one and is outstanding. -/
def acceptSeq (s : State) (q : Nat) (seq : W32) : State :=
  match tfind s.queues q with
  | some x => { s with queues := tput s.queues q { x with lastSeq := some seq, accepted := x.accepted ++ [(seq, false)] } }
  | none => s

/-- A queue stops at a poisoned packet (R552). -/
def stopQueue (s : State) (q : Nat) (x : Queue) : State :=
  raiseIrq (journal { s with queues := tput s.queues q { x with stopped := true } } (pgQue q) 0 (natLe 4 (x.head.toNat % ringSize x)))
    (pgQue q) 3

/-- What becomes of a fetched packet: with its context LOST, status 0x02; malformed, 0x05; its SEQ refused, 0x06; ended by its
deadline before it was fetched, 0x09 (R321); else a job that waits or is ready. -/
def takePacket (s : State) (q : Nat) (x : Queue) (c : Context) (w : List W64) : State :=
  let tag := c.tag
  let gen := genOf s (pkSslot w)
  let ok := packetOk s x.ctx c.part tag w
  if c.state = .lost then
    if ok && seqOk x (pkSeq w) then completePacket (acceptSeq s q (pkSeq w)) q tag w gen true 2 0
    else completePacket s q tag w gen false 2 0
  else if !ok then completePacket s q tag w gen false 5 0
  else if !seqOk x (pkSeq w) then completePacket s q tag w gen false 6 0
  else if s.doomed.contains (q, pkSeq w) then
    completePacket { acceptSeq s q (pkSeq w) with doomed := s.doomed.filter fun d => d != (q, pkSeq w) } q tag w gen true 9 0
  else
    let s1 := acceptSeq s q (pkSeq w)
    settleWaits { s1 with
      jobs := tput s1.jobs s1.nextJob { queue := q, ctx := x.ctx, seq := pkSeq w, words := w, sigGen := gen }
      nextJob := s1.nextJob + 1 }

/-- PACKET_FETCH: the next packet of a queue that neither has stopped nor holds a packet that waits (R281, R283, R285, R552). -/
def execPacketFetch (q : Nat) (s : State) : Out :=
  onUnit (decide (q < 1024)) <|
    match tfind s.queues q with
    | none => .next s
    | some x =>
      match ctxOf s x.ctx with
      | none => .next s
      | some c =>
        if x.stopped || c.state == .dying || tailOf s q == x.head
            || s.jobs.any (fun j => j.2.queue == q && j.2.phase == .waiting) then .next s
        else
          let pa := x.ringPa + 64 * (x.head.toNat % ringSize x)
          if poisoned s pa then .next (stopQueue s q x)
          else
            let w := (List.range 8).map fun k => BitVec.ofNat 64 (memNat s (pa + 8 * k) 8)
            let x1 := { x with head := x.head + 1 }
            .next (takePacket { s with queues := tput s.queues q x1 } q x1 c w)

/-! ### The dispatcher (R325, R326, R334, R335) -/

/-- Named logical cores of a job that are not withdrawn (R335), for a TRANSFER the lowest of them (R553); and those on which it
has not started. -/
def jobTargets (s : State) (x : Job) : List Nat :=
  let ls := (setBits (pkCores x.words) 32).filter fun L => (physOf s L).isSome
  if pkType x.words = 3 then ls.take 1 else ls
def jobMissing (s : State) (x : Job) : List Nat :=
  (jobTargets s x).filter fun L => match physOf s L with | some p => !x.cores.contains p | none => false

/-- The partition of a job. -/
def jobPart (s : State) (x : Job) : Option Nat := (ctxOf s x.ctx).map (·.part)

/-- Whether a job may start on a logical core now: its physical core serves and runs, no move of it is under way, its map entry holds a
majority, and no job of another context is on it (R63, R325, R334, R335, R451). -/
def coreOpen (s : State) (ctx L : Nat) : Bool :=
  match physOf s L with
  | none => false
  | some p =>
    let d := domOf s p
    d.state == 0 && d.target.isNone && (roleOf s p).role == rlService && !s.rel.moveOff.contains p
    && !noMajority s 4 0x10C L 0
    && (match s.rel.rotating with | some r => r.1 != L | none => true)
    && (coreOf s p).jobs.all fun j => match jobOf s j with | some y => y.ctx == ctx | none => true

/-- Jobs of a partition that are chosen and wait for cores of their masks. -/
def partialJobs (s : State) (part : Nat) : List Nat :=
  jobsWhere s fun x => (x.phase == .started || x.phase == .running) && jobPart s x == some part && !(jobMissing s x).isEmpty

/-- Logical cores that a waiting chosen job keeps for itself (R325). -/
def heldCores (s : State) (part : Nat) : List Nat :=
  (partialJobs s part).flatMap fun j => match jobOf s j with | some x => jobMissing s x | none => []

/-- Logical cores that a saved job of a higher priority has to get back first (R326). -/
def savedCores (s : State) (part prio : Nat) : List Nat :=
  (s.jobs.filter fun j => j.2.phase == .saved && jobPart s j.2 == some part && decide (jobPrio s j.1 > prio)).flatMap
    fun j => setBits (pkCores j.2.words) 32

/-- The head job of a queue: the first accepted one that has not started. -/
def headJob (s : State) (q : Nat) : Option Nat := (jobsWhere s fun x => x.queue == q && jobWaiting x).head?

/-- Jobs of a partition that are ready, at the head of their queues, and kept from no core. -/
def candidatesOf (s : State) (part : Nat) : List Nat :=
  let heads := (s.queues.map (·.1)).filterMap (headJob s)
  heads.filter fun j => match jobOf s j with
    | some x =>
      (match x.phase with | .ready _ => true | _ => false) && jobPart s x == some part
      && (jobTargets s x).all fun L => !(heldCores s part).contains L && !(savedCores s part (jobPrio s j)).contains L
    | none => false

/-- The order of R325: priority, then the time it became ready, then the queue index. -/
def beats (s : State) (a b : Nat) : Bool :=
  match jobOf s a, jobOf s b with
  | some x, some y =>
    let t (z : Job) : Nat := match z.phase with | .ready n => n | _ => 0
    if jobPrio s a ≠ jobPrio s b then decide (jobPrio s a > jobPrio s b)
    else if t x ≠ t y then decide (t x < t y)
    else decide (x.queue < y.queue)
  | _, _ => false
def bestJob (s : State) (part : Nat) : Option Nat :=
  (candidatesOf s part).foldl (fun o j => match o with | none => some j | some b => if beats s j b then some j else some b) none

/-- A job starts on physical core `p` (R87, R104, R106, R152, R252): what an idle core loses, and what every start clears. -/
def startOnCore (s : State) (j ctx tag p : Nat) : State :=
  let fresh := (coreOf s p).jobs.isEmpty
  let zero := fresh && (coreOf s p).lsOwner != some ctx
  let e := ctxEntry s tag
  updCore s p fun c0 =>
    let c1 := nearInvalidate c0
    let c2 := if fresh then { c1 with
        acc := [], accFlags := [], tiles := {}
        cfg := rget s (pgCore p) 0x100, mxaCfg := rget s (pgMxa p) 0x100, strCfg := rget s (pgStr p) 0x100 } else c1
    let c3 := if zero then { c2 with ls := [], lsBad := [] } else c2
    { c3 with
      icache := []
      bars := c3.bars.filter fun b => c3.jobs.contains b.2.job
      held := tset 0 c3.held tag e
      lsOwner := some ctx
      jobs := c3.jobs ++ [j] }

/-- A job starts on every missing core that is open. A core that sleeps is woken for it (R436). -/
def extendJob (s : State) (j : Nat) : State :=
  match jobOf s j with
  | none => s
  | some x =>
    (jobMissing s x).foldl (fun s L =>
      match physOf s L with
      | none => s
      | some p =>
        if coreOpen s x.ctx L then
          updJob (startOnCore s j x.ctx (tagOf s x.ctx) p) j fun y => { y with cores := y.cores ++ [p] }
        else
          wakeDomain s p) s

/-- A chosen job starts: TRANSFER on the lowest core named, MARKER, GRAPH and PREFETCH on none; one whose mask names only
withdrawn cores completes with status 0x03 (R335). -/
def startJob (s : State) (j : Nat) : State :=
  match jobOf s j with
  | none => s
  | some x =>
    let started := updJob s j fun y => { y with phase := .started, startAt := s.now, cores := [] }
    let ty := pkType x.words
    if ty = 0 || ty = 4 || ty = 5 then started
    else if (jobTargets s x).isEmpty then endJob s j 3 0
    else extendJob started j

/-- JOB_START: a core owed to a real-time partition moves first (R464); a chosen job that still waits for cores gets those that have become free; else the best candidate is chosen. -/
def execJobStart (part : Nat) (s0 : State) : Out :=
  onUnit (decide (part < 8)) <|
    let s := settleOwed s0
    match (partialJobs s part).find? fun j => match jobOf s j with
        | some x => (jobMissing s x).any (coreOpen s x.ctx)
        | none => false with
    | some j => .next (extendJob s j)
    | none => match bestJob s part with
      | some j => .next (startJob s j)
      | none => .next s

/-! ### What each type of job does (Table 10-2) -/

/-- The job `j`, if it has been started and is of a type. -/
def startedAs (s : State) (j ty : Nat) : Option Job :=
  match jobOf s j with
  | some x => if x.phase = .started ∧ pkType x.words = ty then some x else none
  | none => none

/-- MARKER -/
def execMarker (j : Nat) (s : State) : Out :=
  match startedAs s j 0 with
  | some _ => .next (endJob s j 0 0)
  | none => .next s

/-- Whether a declared register count is one of R69. -/
def vregsOk (n : Nat) : Bool := decide (8 ≤ n) && decide (n ≤ 128) && n % 8 == 0

/-- A job is refused before any of its groups launches: cause 0x0B is recorded as an exception's is (R70, R100). -/
def refuseLaunch (s : State) (j : Nat) (x : Job) : State :=
  faultJob (recordFault s (x.cores.headD 0) 0 0x0B 0 0 0) j 0x0B

/-- KERNEL: its groups may launch on the cores on which it has started. -/
def execKernel (j : Nat) (s : State) : Out :=
  match startedAs s j 1 with
  | none => .next s
  | some x =>
    if x.cores.isEmpty then .next s
    else if !vregsOk (jobVregs x) then .next (refuseLaunch s j x)
    else .next (updJob s j fun y => { y with phase := .running, groups := bits (pkW y 6) 31 0 })

/-- TRANSFER: the copy runs on the lowest core named; a length of 0 is done at once (R553). -/
def execTransfer (j : Nat) (s : State) : Out :=
  match startedAs s j 3 with
  | none => .next s
  | some x =>
    match (jobTargets s x).filterMap (physOf s) with
    | p :: _ =>
      if !x.cores.contains p || (coreOf s p).copy.isSome then .next s
      else
        let s1 := updJob s j fun y => { y with phase := .running }
        .next (settleCopy (updCore s1 p fun c => { c with copy := some { job := j, tag := tagOf s x.ctx } }) p)
    | [] => .next s

/-- The template packet of a stage is submitted to a queue's ring as Fragan's own write, and the tail advances; nothing when the
ring is full. -/
def submitPacket (s : State) (q : Nat) (w : List W64) : Option State :=
  match tfind s.queues q with
  | none => none
  | some x =>
    let t := tailOf s q
    let live : Bool := match ctxOf s x.ctx with | some c => c.state == .live | none => false
    if !live || !tailOk t (t + 1) x.head (ringSize x) then none
    else
      let pa := x.ringPa + 64 * (t.toNat % ringSize x)
      some (tailWrite (storeAt s pa (w.flatMap fun v => natLe 8 v.toNat)) q (t + 1))

/-! ### PREFETCH (R271, R272, Table 09-5) -/

/-- A leaf of a range: its virtual page, level, entry and the entry's address. -/
structure Leaf where
  vpn : Nat
  level : Nat
  e : W64
  at_ : Nat
deriving DecidableEq, Repr

/-- The leaves that map `n` pages from virtual page `vpn`; none when a page is unmapped. -/
def leavesOf (s : State) (c : BitVec 128) : Nat → Nat → Nat → Option (List Leaf)
  | 0, _, _ => some []
  | fuel + 1, vpn, end_ =>
    if vpn ≥ end_ then some []
    else match walk s c (vpn * 0x1000) with
      | .fault _ => none
      | .leaf level e at_ =>
        let pages := levelPages level
        (leavesOf s c fuel (vpn / pages * pages + pages) end_).map fun ls => { vpn := vpn / pages * pages, level, e, at_ } :: ls

/-- Whether a leaf lies behind the host window. -/
def leafHost (l : Leaf) : Bool := isHost (ptePage l.e * 0x1000)

/-- Advice of a tag of one kind that touches a range of pages. -/
def adviceOn (s : State) (tag kind vpn n : Nat) : Option Advice :=
  s.advice.find? fun a => a.tag == tag && a.kind == kind && decide (a.first < vpn + n) && decide (vpn < a.first + a.count)

/-- Whether a physical page run lies in an inbound window open to a device (R272). -/
def inInbound (s : State) (dev page pages : Nat) : Bool :=
  (List.range 16).any fun n =>
    let ctl := rget s 0x43 (0x100 + 16 * n)
    let base := rbits s 0x43 (0x104 + 16 * n) 24 0 * 0x200000
    let len := rbits s 0x43 (0x108 + 16 * n) 19 0 * 0x200000
    bit ctl 31 && bits ctl 7 4 == dev && decide (base ≤ page * 0x1000) && decide ((page + pages) * 0x1000 ≤ base + len)

/-- Whether a pool page may be the destination of a leaf under accessed-by advice. -/
def destOk (s : State) (tag : Nat) (l : Leaf) (page : Nat) : Bool :=
  match adviceOn s tag 2 l.vpn (levelPages l.level) with
  | some a => if a.value = 16 then true else inInbound s (a.value % 16) page (levelPages l.level)
  | none => true

/-- A pool page for each leaf to be moved; none when the pool holds too few. -/
def takePool (s : State) (tag : Nat) (host : Bool) : List Leaf → List (Nat × Bool × Nat × Nat) → Option (List (Leaf × Nat))
  | [], _ => some []
  | l :: ls, pool =>
    match pool.find? fun x => x.1 == tag && x.2.1 == host && x.2.2.2 == levelPages l.level && (host || destOk s tag l x.2.2.1) with
    | some x => (takePool s tag host ls (removeFirst (fun y => y == x) pool)).map fun r => (l, x.2.2.1) :: r
    | none => none

/-- Memory bytes copied from one place to another. -/
def copyMem (s : State) (src dst n : Nat) : State := storeAt s dst (memRead s src n)

/-- A page-table entry written. -/
def putPte (s : State) (at_ : Nat) (e : W64) : State := storeAt s at_ (natLe 8 e.toNat)

/-- One leaf moves: its bytes are copied and its entry names the new page, with W cleared when the host page is kept. -/
def moveLeaf (s : State) (l : Leaf) (page : Nat) (keep : Bool) : State :=
  let s1 := copyMem s (ptePage l.e * 0x1000) (page * 0x1000) (levelPages l.level * 0x1000)
  let e1 := putBits l.e 45 12 page
  putPte s1 l.at_ (if keep then putBits e1 4 4 0 else e1)

/-- The outcome of a PREFETCH: moved, or refused and nothing moved. -/
def prefetchRange (s : State) (tag start len kind : Nat) : Option State :=
  let c := ctxEntry s tag
  let vpn := start / 0x1000
  let n := len / 0x1000
  let dest : Option Bool := match kind with
    | 0 => some false
    | 1 => some true
    | _ => (adviceOn s tag 0 vpn n).map fun a => a.value == 1
  match dest, leavesOf s c (n + 1) vpn (vpn + n) with
  | some host, some ls =>
    let acc := ls.filterMap fun l => (adviceOn s tag 2 l.vpn (levelPages l.level)).map (·.value)
    let broken := if host then acc.any (· != 16) else acc.any (· == 16)
    let move := ls.filter fun l => leafHost l != host
    if broken then none
    else match takePool s tag host move s.pools with
      | none => none
      | some pairs =>
        let rm (l : Leaf) : Bool := !host && (adviceOn s tag 1 l.vpn (levelPages l.level)).isSome
        let used := pairs.map fun x => (tag, host, x.2, levelPages x.1.level)
        let s1 := invalidateTag s tag
        let s2 := pairs.foldl (fun s x => moveLeaf s x.1 x.2 (rm x.1)) s1
        let kept := (pairs.filter fun x => rm x.1).map fun x => (x.1.vpn, x.1.at_, ptePage x.1.e, levelPages x.1.level)
        let advice := s2.advice.map fun a =>
          if a.tag = tag ∧ a.kind = 1 then
            { a with kept := a.kept ++ (kept.filter fun k => decide (a.first ≤ k.1) && decide (k.1 < a.first + a.count)) }
          else a
        some (invalidateTag { s2 with advice, pools := used.foldl (fun p x => removeFirst (fun y => y == x) p) s2.pools } tag)
  | _, _ => none

/-- PREFETCH: a refusal completes with status 0x08 and moves nothing. -/
def execPrefetch (j : Nat) (s : State) : Out :=
  match startedAs s j 5 with
  | none => .next s
  | some x =>
    match prefetchRange s (tagOf s x.ctx) (bits (pkW x 4) 47 0) (bits (pkW x 5) 47 0) (bits (pkW x 6) 1 0) with
    | some s1 => .next (endJob s1 j 0 0)
    | none => .next (endJob s j 8 0)

/-! ### Completion (R87, R97, R286) -/

/-- Whether everything of a running KERNEL or DRAW job has ended on its cores: its groups, matrix instructions and transfers, the
merging buffer, and its writes through windows. -/
def workDone (s : State) (j : Nat) (x : Job) : Bool :=
  decide (x.groups ≤ x.nextGroup) && x.liveGroups == 0
  && x.cores.all (fun p =>
    let c := coreOf s p
    c.merge.isEmpty && c.mat.all (fun m => m.job != j) && c.eng.all fun e => e.2.queue.all fun t => t.job != j)
  && s.remotes.all fun r => r.job != j || r.kind == 0

/-- Columns and rows of bins of a render pass, and their number (R346). -/
def binCols (pass : List W64) : Nat := ceilDiv (bits (pass.getD 0 0) 63 48) 32
def binRows (pass : List W64) : Nat := ceilDiv (bits (pass.getD 0 0) 47 32) 32
def binCount (pass : List W64) : Nat := binCols pass * binRows pass

/-- A draw batch has completed when every bin has (R352). -/
def batchDone (x : Job) : Bool :=
  pkType x.words != 2 || (x.batch.binPhase && !x.batch.partialRun && decide (binCount x.batch.pass ≤ x.batch.binsDone))

/-- JOB_COMPLETE: the completion of a job that has ended is written; a running kernel or batch whose work is done ends first, with
a fault when a transfer of it faulted and no group waited for it (R180). -/
def execJobComplete (j : Nat) (s : State) : Out :=
  match jobOf s j with
  | none => .next s
  | some x =>
    match x.phase with
    | .ended _ _ => .next (completeJob s j)
    | .running =>
      if (pkType x.words = 1 || pkType x.words = 2) && workDone s j x && batchDone x then
        match unwaitedFault s j with
        | some (cause, addr, p) => .next (completeJob (faultJob (recordFault s p 0 cause 0 addr 0) j cause) j)
        | none => .next (completeJob (endJob s j 0 0) j)
      else .next s
    | _ => .next s

end Sys2Proof.Machine
end

