-- ==== Sys2Proof/Machine/Cadence.lean ====
section
/-! DEFINITION. Cadence (11_cadence_and_scheduling.md): what input events do to source positions, triggers and their actions,
deadline checks and the watchdog, and pre-emption (R311-R331). -/
namespace Sys2Proof.Machine

/-- The CAD page, and a count of late, skipped or dropped firings (Table 11-7). -/
def pgCad : Nat := 5
def late (s : State) (n : Nat) : State := if n = 0 then s else pmcEvent (raiseIrq (rcount s pgCad 0x188 n) pgCad 1) 9 0 1 n

/-! ### Triggers (R316-R319) -/

/-- Fields of CAD_TRG_CTL (Table 11-12), and of an armed trigger's argument. -/
def trigOf (s : State) (t : Nat) : Trigger := tget {} s.triggers t
def setTrig (s : State) (t : Nat) (x : Trigger) : State := { s with triggers := tput s.triggers t x }
def tgArmed (x : Trigger) : Bool := bit x.ctl 31
def tgAction (x : Trigger) : Nat := bits x.ctl 30 28
def tgPeriodic (x : Trigger) : Bool := bit x.ctl 27
def tgSrc (x : Trigger) : Nat := bits x.ctl 25 20
def acLaunch : Nat := 1
def acRelease : Nat := 2
def acEvent : Nat := 3
def acDeadline : Nat := 4

/-- The next position of a periodic trigger, and the firings it skips (R319). -/
def nextPos (s : State) (x : Trigger) : W64 × Nat :=
  let n := tgSrc x
  let now_ := sourcePos s n
  let inc := x.aInc.toNat
  if isVideo (sourceOf s n) then
    let f1 := (posFrame x.aPos + inc) % 2 ^ 48
    if aheadBy 48 (posFrame now_) f1 then
      let f2 := if posLine x.aPos ≤ posLine now_ then posFrame now_ + 1 else posFrame now_
      (mkPos f2 (posLine x.aPos), ceilDiv ((f2 + 2 ^ 48 - f1) % 2 ^ 48) inc)
    else (mkPos f1 (posLine x.aPos), 0)
  else
    let k := (now_ - x.aPos).toNat / inc
    (x.aPos + BitVec.ofNat 64 ((k + 1) * inc), k)

/-- A trigger fires: its action waits in order; a periodic one moves on, another disarms. -/
def fireTrigger (s : State) (t : Nat) (x : Trigger) : State :=
  let s1 := pmcEvent { s with fired := s.fired ++ [(t, s.now, x)] } 9 0 0 1
  if tgPeriodic x && x.aInc != 0 then
    let (pos, skipped) := nextPos s x
    late (setTrig s1 t { x with aPos := pos, firings := x.firings + 1 }) skipped
  else setTrig s1 t { x with ctl := clrBit x.ctl 31, firings := x.firings + 1 }

/-- A trigger fires while its position is reached, at most `fuel` times; `asLate` counts each firing (R315, R317). One whose armed
state holds no majority does not fire (R451). -/
def fireWhile (asLate : Bool) (t : Nat) : Nat → State → State
  | 0, s => s
  | fuel + 1, s =>
    let x := trigOf s t
    if tgArmed x && !noMajority s pgCad 0x124 t 31 && bound s (tgSrc x) && (posReached s (tgSrc x) x.aPos).isSome then
      fireWhile asLate t fuel (fireTrigger (if asLate then late s 1 else s) t x)
    else s

/-- The triggers on a source, in ascending slot order. -/
def triggersOn (s : State) (n : Nat) : List Nat := (s.triggers.filter fun t => tgArmed t.2 && tgSrc t.2 == n).map (·.1)

/-- A source's position has changed: CWAITs on it are released and its triggers fire (R312, R317). -/
def sourceMoved (s : State) (n : Nat) (asLate : Bool := false) : State :=
  (triggersOn s n).foldl (fun s t => fireWhile asLate t 3 s) (releaseCwait s n)

/-- CAD_TRG_CTL.ARM = 1 (R316): refused and counted when the source is unbound or a RELEASE names no soft source; a position
already passed fires at once and is late (R317). -/
def armTrigger (s : State) (t : Nat) (v : W32) : State :=
  let x := trigOf s t
  let y := { x with ctl := v }
  if !bound s (tgSrc y) || (tgAction y = acRelease && srcKind (sourceOf s (bits x.arg 5 0)) != kdSoft) then
    errCount (setTrig s t { x with ctl := clrBit v 31 }) pgCad
  else
    let z := { y with aPos := x.pos, aInc := x.inc, aArg := x.arg, aDly := x.dly, aTpl := x.tpl, firings := 0 }
    let s1 := setTrig s t z
    if (posReached s1 (tgSrc z) z.aPos).isSome then fireWhile false t 3 (late s1 1) else s1

/-- CAD_TRG_CTL.ARM = 0. -/
def disarmTrigger (s : State) (t : Nat) (v : W32) : State := setTrig s t { trigOf s t with ctl := clrBit v 31 }

/-! ### Sources (R311-R315) -/

/-- A write of CAD_SRC_CFG: the source is unbound, which ends its CWAITs with status 4 and disarms its triggers, and is bound
afresh at position 0. -/
def bindSource (s : State) (n : Nat) (v : W32) : State :=
  let s1 := { setSource s n {} with
    triggers := s.triggers.map fun t => (t.1, if tgSrc t.2 = n then { t.2 with ctl := clrBit t.2.ctl 31 } else t.2) }
  let s2 := releaseCwait s1 n
  let x : Source := { cfg := v, state := if bits v 31 29 = kdUnbound then 0 else 1, lastAt := s.now }
  setSource s2 n (if bits v 31 29 = kdUnbound then {} else x)

/-- CAD_SRC_SEL.SET: a soft source takes CAD_SOFT as its position; ignored for other kinds (Table 11-9). -/
def softSet (s : State) (n : Nat) : State :=
  let x := sourceOf s n
  if srcKind x = kdSoft then
    sourceMoved (setSource s n { x with
      pos := BitVec.ofNat 64 ((rget s pgCad 0x11C).toNat * 2 ^ 32 + (rget s pgCad 0x118).toNat) }) n
  else s

/-- A frame starts on a video-in source (R313, R314); `media` is its media number extended to 48 bits. -/
def frameStart (s : State) (n media : Nat) : State :=
  let x := sourceOf s n
  if srcKind x ≠ kdVideoIn then s
  else
    let y := if x.state = 2 then { x with state := 1, lastAt := s.now } else x
    let f := posFrame x.pos
    let m := media % 2 ^ 48
    let z : Source :=
      if !srcMedia x then { y with pos := mkPos (f + 1) 0 }
      else match x.media with
        | none => { y with pos := mkPos m 0, media := some m }
        | some m0 =>
          let d := (m + 2 ^ 48 - m0) % 2 ^ 48
          if d = 0 then
            { y with pos := mkPos (if srcRpt x then f else f + 1) 0, repeats := satAdd 0xFF x.repeats 1 }
          else if d ≥ 2 ^ 47 then { y with pos := mkPos (f + 1) 0, media := some m }
          else { y with pos := mkPos (f + d) 0, media := some m, skips := satAdd 0xFF x.skips (d - 1) }
    sourceMoved (setSource s n z) n

/-- A line lands on a video-in source; while it is stopped its count stands (R313). -/
def lineLanded (s : State) (n : Nat) : State :=
  let x := sourceOf s n
  if srcKind x ≠ kdVideoIn || x.state = 2 then s
  else sourceMoved (setSource s n { x with pos := mkPos (posFrame x.pos) (posLine x.pos + 1), lastAt := s.now }) n

/-- The position of a video-out or audio source moves to `v`; a stopped source restarts (R313). -/
def countTo (s : State) (n : Nat) (v : W64) : State :=
  sourceMoved (setSource s n { sourceOf s n with pos := v, state := 1, lastAt := s.now }) n

/-- Sources bound to an input of a kind. -/
def sourcesOf (s : State) (kind input : Nat) : List Nat :=
  (s.sources.filter fun x => srcKind x.2 == kind && srcInput x.2 == input).map (·.1)

/-! ### Deadline misses (R320-R324) -/

/-- The job that a queue and a SEQ name. -/
def jobBySeq (s : State) (q : Nat) (seq : W32) : Option Nat := (jobsWhere s fun x => x.queue == q && x.seq == seq).head?

/-- Whether the job of a SEQ has completed: its packet has been fetched and no job of it is left (R320). -/
def seqDone (s : State) (q : Nat) (seq : W32) : Bool :=
  match tfind s.queues q with
  | none => true
  | some x => (jobBySeq s q seq).isNone && (match x.lastSeq with | some l => l == seq || seqLater l seq | none => false)

/-- A miss is recorded (R321, R322, Table 11-13): counted, held or MULTI, journalled; the queue's event is raised. -/
def missRecord (s : State) (trg q : Nat) (seq : W32) (ended nostart wdog : Bool) : State :=
  let b (x : Bool) (n : Nat) : Nat := if x then 2 ^ n else 0
  let held := infoHeld s pgCad 0x180
  let s1 := capture (rcount s pgCad 0x184) pgCad 0x180 30 (trg * 2 ^ 20 + q * 2 ^ 10 + b ended 9 + b nostart 8 + b wdog 7)
  let s2 := if held then s1 else { s1 with missSeq := seq, missAt := s.now }
  let s3 := raiseIrq (journal s2 pgCad 1 (natLe 4 seq.toNat)) pgCad 0
  let s4 := match pageVector s3 (pgQue q) with | some (fn, v) => sendVector s3 fn v | none => s3
  pmcFreezeOn (pmcEvent s4 9 0 2 1) 28

/-- The job of a miss is ended with status 0x09: at once when it is fetched and has not started; when its packet is still in the
ring, as it is fetched (R321). -/
def endMissed (s : State) (q : Nat) (seq : W32) : State :=
  match jobBySeq s q seq with
  | some j => match jobOf s j with
    | some x => if jobWaiting x then completeJob (endJob s j 9 0) j else endJob s j 9 0
    | none => s
  | none => { s with doomed := s.doomed ++ [(q, seq)] }

/-- A check is made (R320, R321). -/
def makeCheck (s : State) (k : Check) : State :=
  if seqDone s k.queue k.seq then s
  else
    let nostart := match jobBySeq s k.queue k.seq with
      | some j => match jobOf s j with | some x => jobWaiting x | none => true
      | none => true
    let s1 := missRecord s k.trg k.queue k.seq k.missAct nostart false
    if k.missAct then endMissed s1 k.queue k.seq else s1

/-- DEADLINE_CHECK: check `k` falls due; other checks of the same job due at the same time are the same check (R324). -/
def execDeadlineCheck (k : Nat) (s : State) : Out :=
  match s.checks[k]? with
  | none => .next s
  | some c =>
    let rest := (removeAt s.checks k).filter fun d => !(d.queue == c.queue && d.seq == c.seq && d.due == c.due)
    .next (makeCheck { atLeast s c.due with checks := rest } c)

/-- WATCHDOG: the job has run for CAD_CFG.WDOG_MS (R322). -/
def execWatchdog (j : Nat) (s : State) : Out :=
  match jobOf s j with
  | none => .next s
  | some x =>
    whenever (jobActive x) s <|
      let s1 := atLeast s (x.startAt + rbits s pgCad 0x100 15 0 * 1000000)
      endJob (missRecord s1 0 x.queue x.seq true false true) j 9 0

/-- The LINK trigger's launch that a DEADLINE trigger has not captured yet. -/
def uncaptured (s : State) (x : Trigger) : Option W32 :=
  match (trigOf s (bits x.aArg 9 0)).latest with
  | some q => if x.captured = some q then none else some q
  | none => none

/-- The check that a DEADLINE trigger schedules for a captured SEQ. -/
def checkOf (s : State) (t : Nat) (x : Trigger) (seq : W32) (due : Nat) : Check :=
  { trg := t, queue := bits (trigOf s (bits x.aArg 9 0)).aArg 9 0, seq, due, missAct := bit x.aArg 16 }

/-- A source enters STOPPED (R313, R323): STOP is raised, CWAITs return 2, and its DEADLINE triggers capture and check at once. -/
def stopSource (s : State) (n : Nat) : State :=
  let s1 := releaseCwait (raiseIrq (setSource s n { sourceOf s n with state := 2 }) pgCad 2) n
  (triggersOn s1 n).foldl (fun s t =>
    let x := trigOf s t
    if tgAction x ≠ acDeadline then s
    else match uncaptured s x with
      | some q => makeCheck (setTrig s t { x with captured := some q }) (checkOf s t x q s.now)
      | none => s) s1

/-- SOURCE_STOPPED: nothing has come for STOP_TMO. PTP sources stop with their servo, soft sources never. -/
def execSourceStopped (src : Nat) (s : State) : Out :=
  onUnit (decide (src < 48)) <|
    let x := sourceOf s src
    whenever (x.state == 1 && decide (1 ≤ srcKind x) && decide (srcKind x ≤ 3)) s <|
      stopSource (atLeast s (x.lastAt + srcStop x * 1000)) src

/-- Positions that something waits for on a source. -/
def awaited (s : State) (n : Nat) : List Nat :=
  ((triggersOn s n).map fun t => (trigOf s t).aPos.toNat)
  ++ s.cores.flatMap fun c => c.2.groups.filterMap fun g => match g.2.block with
    | .cwait m pos _ => if m = n then some pos.toNat else none
    | _ => none

/-- PTP_POSITION_REACHED: the device timestamp reaches the next awaited position of a PTP source whose servo is locked. -/
def execPtpPositionReached (src : Nat) (s : State) : Out :=
  onUnit (decide (src < 48)) <|
    let x := sourceOf s src
    if srcKind x ≠ kdPtp || stoppedSrc s src then .next s
    else match (awaited s src).filter fun v => decide (s.now ≤ v) with
      | [] => .next (sourceMoved s src)
      | v :: vs => .next (sourceMoved (atLeast s (vs.foldl min v)) src)

/-! ### Actions (R318-R320) -/

/-- The action at the head of the fired list, when it is of slot `t` and of the kind. -/
def headAction (s : State) (t action : Nat) : Option (Nat × Trigger) :=
  match s.fired with
  | (u, at_, x) :: _ => if u = t ∧ tgAction x = action then some (at_, x) else none
  | [] => none
def popFired (s : State) : State := { s with fired := s.fired.tail }

/-- The packet of a LAUNCH firing: the template with SEQ moved on by the earlier firings. -/
def launchPacket (x : Trigger) : List W64 :=
  let word (k : Nat) : W64 := BitVec.ofNat 64 ((tget 0 x.aTpl (2 * k)).toNat + (tget 0 x.aTpl (2 * k + 1)).toNat * 2 ^ 32)
  let w := (List.range 8).map word
  let seq := (pkSeq w + BitVec.ofNat 32 x.firings).toNat
  w.set 0 (putBits (w.getD 0 0) 31 0 seq)

/-- LAUNCH -/
def execLaunch (t : Nat) (s : State) : Out :=
  onUnit (decide (t < 1024)) <|
    match headAction s t acLaunch with
    | none => .next s
    | some (_, x) =>
      let w := launchPacket x
      match submitPacket (popFired s) (bits x.aArg 9 0) w with
      | some s1 => .next (setTrig s1 t { trigOf s1 t with latest := some (pkSeq w) })
      | none => .next (journal (late (popFired s) 1) pgCad 2 (natLe 2 t))

/-- RELEASE: a source that is no longer soft makes the firing late. -/
def execRelease (t : Nat) (s : State) : Out :=
  onUnit (decide (t < 1024)) <|
    match headAction s t acRelease with
    | none => .next s
    | some (_, x) =>
      let n := bits x.aArg 5 0
      let y := sourceOf s n
      if srcKind y = kdSoft then .next (sourceMoved (setSource (popFired s) n { y with pos := y.pos + 1 }) n)
      else .next (late (popFired s) 1)

/-- EVENT: the vector of the function that holds it, 64 to a function (DEDUCED); Fragan is informed in appliance mode. -/
def execEvent (t : Nat) (s : State) : Out :=
  onUnit (decide (t < 1024)) <|
    match headAction s t acEvent with
    | none => .next s
    | some (_, x) =>
      let v := bits x.aArg 11 0
      .next (if s.boot.appliance then popFired s else sendVector (popFired s) (v / 64) (v % 64))

/-- DEADLINE: the LINK trigger's latest SEQ is captured and its check scheduled; nothing when it has launched nothing since. -/
def execDeadline (t : Nat) (s : State) : Out :=
  onUnit (decide (t < 1024)) <|
    match headAction s t acDeadline with
    | none => .next s
    | some (at_, x) =>
      let s1 := popFired s
      match uncaptured s { x with captured := (trigOf s t).captured } with
      | none => .next s1
      | some q =>
        .next { setTrig s1 t { trigOf s1 t with captured := some q } with
          checks := s1.checks ++ [checkOf s t x q (at_ + x.aDly.toNat)] }

/-! ### Pre-emption (R191, R217, R326-R331) -/

/-- Jobs of a partition that run, and those saved on a logical core. -/
def savedOn (s : State) (L : Nat) : Nat := (jobsWhere s fun x => x.phase == .saved && bit (pkCores x.words) L).length

/-- Whether a ready job may pre-empt a running one (R326): strictly higher priority, a depth left on every core they share, and a
type that can be pre-empted (R327). -/
def mayPreempt (s : State) (part a b : Nat) : Bool :=
  match jobOf s a, jobOf s b with
  | some x, some y =>
    y.phase == .running && jobPart s y == some part && decide (jobPrio s a > jobPrio s b)
    && (pkType y.words == 1 || pkType y.words == 2 || pkType y.words == 3)
    && (let shared := pkCores x.words &&& pkCores y.words
        shared != 0 && (setBits shared 32).all fun L => decide (savedOn s L < partDepth s part))
  | _, _ => false

/-- PREEMPTION_REQUEST: the best ready job asks the running jobs it may pre-empt to yield. -/
def execPreemptionRequest (part : Nat) (s : State) : Out :=
  onUnit (decide (part < 8)) <|
    match bestJob s part with
    | none => .next s
    | some a =>
      .next { s with jobs := s.jobs.map fun j => (j.1, if mayPreempt s part a j.1 then { j.2 with yielding := true } else j.2) }

/-- Whether a group can be saved at its next issue: nothing of an issued instruction is outstanding. -/
def groupSavable (g : Group) : Bool :=
  match g.block with
  | .load _ => false
  | .fsig _ _ _ => false
  | _ => true

/-- Whether a job stands at a boundary on its cores (R217, R327, R330, R331): no matrix instruction, tile or window access of it is
under way, no short semaphore is held, and a batch is between draws or bins. -/
def atBoundary (s : State) (j : Nat) (x : Job) : Bool :=
  x.cores.all (fun p =>
    let c := coreOf s p
    c.mat.all (fun m => m.job != j)
    && (c.groups.filter fun g => g.2.job == j).all (fun g => groupSavable g.2)
    && c.eng.all (fun e => e.2.queue.all fun t => t.job != j || !t.started)
    && (match c.copy with | some y => y.job != j || y.begun.all fun b => b.isNone | none => true)
    && (c.raster.job != some j || c.raster.bin.isNone)
    && (pkType x.words != 2 || c.groups.all fun g => g.2.job != j))
  && s.remotes.all (fun r => r.job != j)
  && s.semas.all fun m => !(m.2.shortNow && m.2.holder.isSome && jobHolds s j m.1)

/-- A group as it is saved: its blocked wait is cancelled, with its program counter at the wait (R191). -/
def savedGroup (g : Group) : Group := { g with block := .none, deadline := none, granted := none, released := false, xfault := none }

/-- The part of an engine that a job carries away: its own transfers and the sequence counter (R217). -/
def engineOf (x : Engine) (j : Nat) : Engine :=
  { x with queue := x.queue.filter fun t => t.job == j, ended := x.ended.filter (fun f => f.job == j), failed := x.failed.filter fun f => f.1 == j }
def engineWithout (x : Engine) (j : Nat) : Engine :=
  { x with queue := x.queue.filter fun t => t.job != j, ended := x.ended.filter (fun f => f.job != j), failed := x.failed.filter fun f => f.1 != j }

/-- The bytes of a job's declared ranges. -/
def liveLs (c : Core) (x : Job) : Tbl Byte := c.ls.filter fun b => inRanges (jobRanges x) b.1 1

/-- The live state of a job on one core is saved, and the job leaves the core (R326, R328). -/
def saveCore (s : State) (j p : Nat) : State :=
  match jobOf s j, logicalOf s p with
  | some x, some L =>
    let c := coreOf s p
    let mine := c.order.filterMap fun g => (tfind c.groups g).bind fun gr =>
      if gr.job = j then some (L, g, savedGroup gr) else none
    let engs := [0, 1, 2, 3].map fun e => (L, e, engineOf (engOf c e) j)
    let acc := if mine.any (fun g => g.2.2.matrix) then [(L, c.acc, c.accFlags)] else []
    let s1 := mine.foldl (fun s g => leaveWaiters s p g.2.1) s
    let s2 := updCore s1 p fun c => { c with
      groups := c.groups.filter fun g => g.2.job != j
      order := c.order.filter fun g => !(mine.any fun m => m.2.1 == g)
      bars := c.bars.filter fun b => b.2.job != j
      eng := c.eng.map fun e => (e.1, engineWithout e.2 j)
      copy := match c.copy with | some y => if y.job = j then none else some y | none => none
      raster := if c.raster.job = some j then {} else c.raster
      jobs := c.jobs.filter (· != j) }
    updJob s2 j fun y => { y with
      savedGroups := y.savedGroups ++ mine
      savedEng := y.savedEng ++ engs
      savedAcc := y.savedAcc ++ acc
      savedLs := y.savedLs ++ [(L, liveLs c x)]
      savedCopy := match c.copy with | some z => if z.job = j then some z.next else y.savedCopy | none => y.savedCopy }
  | _, _ => s

/-- PREEMPTION_SWITCH: at its boundary a job that has been asked to yield is saved on every core, and the dispatcher starts the
waiting job. -/
def execPreemptionSwitch (j : Nat) (s : State) : Out :=
  match jobOf s j with
  | none => .next s
  | some x =>
    if !x.yielding || x.phase ≠ .running || !atBoundary s j x then .next s
    else
      let s1 := updJob (x.cores.foldl (fun s p => saveCore s j p) s) j fun y => { y with phase := .saved, yielding := false, cores := [] }
      match (jobPart s x).bind (bestJob s1) with
      | some a => .next (startJob s1 a)
      | none => .next s1

/-- A restored group takes its old slot when it is free, else the lowest free one; the semaphores it holds follow (R66, R184). -/
def restoreGroup (s : State) (p L : Nat) (old : Nat) (g : Group) : State :=
  let c := coreOf s p
  match if (tfind c.groups old).isNone then some old else freeSlot c with
  | none => s
  | some slot =>
    let s1 := updCore s p fun c => { c with groups := tput c.groups slot g, order := c.order ++ [slot] }
    { s1 with semas := s1.semas.map fun m => (m.1, if m.2.holder = some (L, old) && g.semas.contains m.1 then { m.2 with holder := some (L, slot) } else m.2) }

/-- The saved state of a job returns to one core. -/
def restoreCore (s : State) (j L p : Nat) : State :=
  match jobOf s j with
  | none => s
  | some x =>
    let s1 := startOnCore s j x.ctx (tagOf s x.ctx) p
    let s2 := (x.savedGroups.filter fun g => g.1 == L).foldl (fun s g => restoreGroup s p L g.2.1 g.2.2) s1
    updCore s2 p fun c =>
      let c1 := (x.savedEng.filter fun e => e.1 == L).foldl (fun c e =>
        let y := engOf c e.2.1
        setEng c e.2.1 { e.2.2 with queue := e.2.2.queue ++ y.queue, ended := y.ended ++ e.2.2.ended, failed := y.failed ++ e.2.2.failed }) c
      let c2 := (x.savedAcc.filter fun a => a.1 == L).foldl (fun c a => { c with acc := a.2.1, accFlags := a.2.2 }) c1
      let c3 := (x.savedLs.filter fun a => a.1 == L).foldl (fun c a =>
        { c with ls := a.2.foldl (fun t b => tset 0 t b.1 b.2) (c.ls.filter fun b => !inRanges (jobRanges x) b.1 1) }) c2
      match x.savedCopy with
      | some n => { c3 with copy := some { job := j, tag := tagOf s x.ctx, next := n } }
      | none => c3

/-- Whether the groups of a saved job fit beside what is on a core. -/
def fits (s : State) (x : Job) (L p : Nat) : Bool :=
  let mine := x.savedGroups.filter fun g => g.1 == L
  decide (mine.length + (coreOf s p).groups.length ≤ 48)
  && decide (mine.foldl (fun n g => n + g.2.2.vregs / 8) 0 ≤ granFree (coreOf s p))

/-- JOB_RESTORE: a saved job returns to the current physical cores of its logical cores once each is open and holds its groups. -/
def execJobRestore (j : Nat) (s : State) : Out :=
  match jobOf s j with
  | none => .next s
  | some x =>
    let targets := jobTargets s x
    if x.phase ≠ .saved || targets.isEmpty || !(targets.all fun L => coreOpen s x.ctx L && (match physOf s L with | some p => fits s x L p | none => false))
    then .next s
    else
      let s1 := targets.foldl (fun s L => match physOf s L with | some p => restoreCore s j L p | none => s) s
      .next (updJob s1 j fun y => { y with
        phase := .running, cores := targets.filterMap (physOf s), savedGroups := [], savedEng := [], savedAcc := [], savedLs := [], savedCopy := none })

end Sys2Proof.Machine
end

