-- ==== Sys2Proof/Machine/Edge.lean ====
section
/-! DEFINITION. Accesses by range translation of the units that are no thread groups: the raster units, the intake and output
blocks, the compositor and the compression engines (R254, R256, R258, R229). -/
namespace Sys2Proof.Machine

/-- Why an access by range translation fails: a translation fault, or a poisoned line, with the device virtual address. -/
inductive EdgeBad where
  | fault (f : XFault) (addr : Nat)
  | poison (addr : Nat)
deriving DecidableEq, Repr

/-- The first address of each page that `n` bytes from `va` touch. -/
def pagesFrom (va n : Nat) : List Nat :=
  if n = 0 then []
  else (List.range ((va + n - 1) / 0x1000 + 1 - va / 0x1000)).map fun i => if i = 0 then va else (va / 0x1000 + i) * 0x1000

/-- Translations of pages for a unit and a tag; one behind a Spoke window without a route over an UP link has no mapping. -/
def rangeTable (s : State) (unit tag : Nat) (perm : Perm) : List Nat → Tbl Nat → Except EdgeBad (Tbl Nat)
  | [], t => .ok t
  | va :: vas, t =>
    match rangeXlate s unit tag va perm with
    | .error f => .error (.fault f va)
    | .ok (pa, _, _) =>
      if isSpoke pa && (spokeLink s pa).isNone then .error (.fault { cause := 3, kind := 1, level := 0, entry := 0 } va)
      else rangeTable s unit tag perm vas (tput t (va / 0x1000) (pa / 0x1000))

/-- Physical addresses of `n` bytes from `va`. -/
def rangePas (s : State) (unit tag : Nat) (perm : Perm) (va n : Nat) : Except EdgeBad (List Nat) :=
  match rangeTable s unit tag perm (pagesFrom va n) [] with
  | .error b => .error b
  | .ok t => .ok ((List.range n).filterMap fun i => heldPa t (va + i))

/-- `n` bytes read by a unit (R256, R229). -/
def rangeRead (s : State) (unit tag va n : Nat) : Except EdgeBad (List Byte) :=
  match rangePas s unit tag .r va n with
  | .error b => .error b
  | .ok pas =>
    match (List.range n).find? fun i => poisoned s (pas.getD i 0) with
    | some i => .error (.poison (va + i))
    | none => .ok (pas.map (memByte s))

/-- Bytes written by a unit. -/
def rangeWrite (s : State) (unit tag va : Nat) (bs : List Byte) : Except EdgeBad State :=
  match rangePas s unit tag .w va bs.length with
  | .error b => .error b
  | .ok pas => .ok (storeBytes s (pas.zip bs))

/-- Bytes as little-endian 64-bit words. -/
def words64 (bs : List Byte) : List W64 :=
  (List.range (bs.length / 8)).map fun i => BitVec.ofNat 64 (leNat ((bs.drop (8 * i)).take 8))

/-- A number read by a unit. -/
def rangeNat (s : State) (unit tag va n : Nat) : Except EdgeBad Nat := (rangeRead s unit tag va n).map leNat

end Sys2Proof.Machine
end

