-- ==== Sys2Proof/Machine/Video.lean ====
section
/-! DEFINITION. Video and audio channels and the PTP servo (13_video_audio_and_compositor.md, R365-R376): channel descriptors, what
received packets land, what sent frames read, and the device timestamp under the servo. -/
namespace Sys2Proof.Machine

/-! ### Channels -/

/-- A channel by its page and number, and the state with it replaced. -/
def chKey (page ch : Nat) : Nat := page * 32 + ch
def chanOf (s : State) (page ch : Nat) : VChan := tget {} s.vchans (chKey page ch)
def setVChan (s : State) (page ch : Nat) (c : VChan) : State := { s with vchans := tput s.vchans (chKey page ch) c }

/-- Kinds of port by page, channels on one, and its requester number (Tables 08-2, 19-10). -/
def isEth (page : Nat) : Bool := decide (0x220 ≤ page) && decide (page ≤ 0x223)
def isCsi (page : Nat) : Bool := decide (0x224 ≤ page) && decide (page ≤ 0x22B)
def isTdm (page : Nat) : Bool := decide (0x22C ≤ page) && decide (page ≤ 0x22F)
def isVio (page : Nat) : Bool := isEth page || isCsi page || isTdm page
def chCount (page : Nat) : Nat := if isEth page then 32 else if isCsi page then 16 else 2
def vioReq (page : Nat) : Nat := if isEth page then 0x20 + (page - 0x220) else if isCsi page then 0x24 else 0x25
def vioUnit (page : Nat) : Nat := 0x100 + vioReq page

/-- Whether the port is enabled and its link, lanes or bit clock are up. -/
def portUp (s : State) (page : Nat) : Bool := rbits s page 0x100 31 31 == 1 && rbits s page 0x104 31 31 == 1

/-- Fields of a channel descriptor (Table 13-2). -/
def chKind (d : List W64) : Nat := bits (dw d 0) 63 60
def chNfr (d : List W64) : Nat := bits (dw d 0) 59 54
def chFmtx (d : List W64) : Nat := bits (dw d 0) 53 48
def chLines (d : List W64) : Nat := bits (dw d 0) 47 32
def chLineb (d : List W64) : Nat := bits (dw d 0) 15 0
def chBase (d : List W64) : Nat := bits (dw d 1) 47 0
def chStride (d : List W64) : Nat := bits (dw d 2) 63 32
def chPitch (d : List W64) : Nat := bits (dw d 2) 31 0
def chRec (d : List W64) : Nat := bits (dw d 3) 47 0
def chAddr (d : List W64) : W64 := dw d 4
def chReady (d : List W64) : Nat := bits (dw d 5) 47 0
def chRaten (d : List W64) : Nat := bits (dw d 6) 63 32
def chRated (d : List W64) : Nat := bits (dw d 6) 31 0

/-- Kind codes. -/
def ckVideoIn : Nat := 1
def ckAudioIn : Nat := 2
def ckAncIn : Nat := 3
def ckVideoOut : Nat := 9
def ckAudioOut : Nat := 0xA
def ckAncOut : Nat := 0xB

/-- Channel states (Table 13-9). -/
def vsOff : Nat := 0
def vsRunning : Nat := 1
def vsRefused : Nat := 2
def vsFaulted : Nat := 3

def chTag (c : VChan) : Nat := bits c.ctl 11 0
def running (c : VChan) : Bool := c.state == vsRunning
def isRx (d : List W64) : Bool := decide (1 ≤ chKind d) && decide (chKind d ≤ 3)

/-- Running channels of a page. -/
def chansOn (s : State) (page : Nat) : List Nat := (List.range (chCount page)).filter fun ch => running (chanOf s page ch)

/-- Whether a descriptor is one that the channel may take (Table 13-2, R366). -/
def chanShape (s : State) (page ch : Nat) (d : List W64) : Bool :=
  let k := chKind d
  let video := k == ckVideoIn || k == ckVideoOut
  let audio := k == ckAudioIn || k == ckAudioOut
  let anc := k == ckAncIn || k == ckAncOut
  (if isEth page then video || audio || anc
   else if isCsi page then k == ckVideoIn
   else (ch == 0 && k == ckAudioIn) || (ch == 1 && k == ckAudioOut))
  && decide (2 ≤ chNfr d) && bits (dw d 0) 31 16 == 0
  && (isCsi page || (if audio && isEth page then decide (chFmtx d ≤ 1) else chFmtx d == 0))
  && decide (1 ≤ chLines d)
  && (if video then decide (chLines d ≤ 4320) else if isTdm page then chLines d == rbits s page 0x100 27 24 + 1 else decide (chLines d ≤ 64))
  && (if anc then chLineb d == 0 else if audio then chLineb d != 0 else true)
  && bits (dw d 1) 63 48 == 0 && chBase d % 128 == 0 && chStride d % 128 == 0
  && (if video then chPitch d % 16 == 0 && decide (chLineb d ≤ chPitch d) else chPitch d == 0)
  && bits (dw d 3) 63 48 == 0 && chRec d % 32 == 0
  && (if isEth page then bits (dw d 4) 15 7 == 0 else dw d 4 == 0)
  && bits (dw d 5) 63 48 == 0 && (if decide (9 ≤ k) && isEth page then chReady d % 8 == 0 else chReady d == 0)
  && (if k == ckVideoOut then chRaten d != 0 && chRated d != 0 else dw d 6 == 0) && dw d 7 == 0
  && (if video then decide (chLines d * chPitch d ≤ chStride d) else true)
  && (if audio then decide (chLineb d * chLines d * 4 ≤ chStride d) else true)

/-- The further conditions of R366: one partition for each requester, and no repeated receive address. -/
def chanFits (s : State) (page ch tag : Nat) (d : List W64) : Bool :=
  ((List.range 16).all fun k =>
    let pg := 0x220 + k
    vioReq pg != vioReq page || (chansOn s pg).all fun c =>
      (pg == page && c == ch) || ctPart (ctxEntry s (chTag (chanOf s pg c))) == ctPart (ctxEntry s tag))
  && (!isEth page || (chansOn s page).all fun c =>
      c == ch || !isRx (chanOf s page c).desc || chAddr (chanOf s page c).desc != chAddr d)

/-! ### Faults (R390) -/

/-- A channel's access fails: the record, the FAULT interrupt, and the channel stops. -/
def vioFail (s : State) (page ch : Nat) (b : EdgeBad) : State :=
  let c := chanOf s page ch
  let (k, addr) : Nat × Nat := match b with
    | .fault f a => (if f.kind = 2 then 2 else 1, a)
    | .poison a => (3, a)
  let s0 := match b with
    | .fault f a => xltRecord s f false (vioReq page) (chTag c) a
    | .poison _ => s
  let held := infoHeld s0 page 0x120
  let s1 := raiseIrq (capture s0 page 0x120 30 (k * 2 ^ 27 + ch * 2 ^ 16 + chTag c)) page 0
  let s2 := if held then journal s1 page 0 (natLe 8 addr) else { s1 with vioAddr := tput s1.vioAddr page (BitVec.ofNat 64 addr) }
  setVChan s2 page ch { chanOf s2 page ch with state := vsFaulted }

/-- A channel's write and read; a failure stops the channel. -/
def chWrite (s : State) (page ch va : Nat) (bs : List Byte) : State :=
  if !running (chanOf s page ch) then s
  else match rangeWrite s (vioUnit page) (chTag (chanOf s page ch)) va bs with
    | .ok s1 => s1
    | .error b => vioFail s page ch b

/-- A packet dropped on a port. -/
def vioDrop (s : State) (page : Nat) : State := pmcEvent (rcount s page 0x11C) 5 (page - 0x220) 1 1

/-- Lines, packets or frames lost on a channel. -/
def chLose (c : VChan) (n : Nat) : VChan := { c with lost := satAdd 0xFFFF c.lost n }

/-! ### Frames and lines (R368-R371) -/

/-- The Cadence input that a channel feeds, and the sources bound to it as video (Table 11-1). -/
def chInput (page ch : Nat) : Nat :=
  if isEth page then (page - 0x220) * 32 + ch
  else if isCsi page then 0x80 + (page - 0x224) * 16 + ch
  else 0x80 + (page - 0x22C)
def chSources (s : State) (kind page ch : Nat) : List Nat := sourcesOf s kind (chInput page ch)

/-- A counter of `n` bits extended to stay near a previous extended value. -/
def extendNear (n old x : Nat) : Nat :=
  let d := (x + 2 ^ n - old % 2 ^ n) % 2 ^ n
  if d < 2 ^ (n - 1) then old + d else if 2 ^ n - d ≤ old then old - (2 ^ n - d) else old

/-- Slot of frame `f` in a ring. -/
def slotOf (d : List W64) (f : Nat) : Nat := chBase d + f % chNfr d * chStride d

/-- The slot record of a frame that has ended (R371). -/
def slotRecord (s : State) (page ch : Nat) (short : Bool) : State :=
  let c := chanOf s page ch
  if chRec c.desc = 0 then s
  else chWrite s page ch (chRec c.desc + 32 * (c.frame % chNfr c.desc))
    (natLe 8 c.frame ++ natLe 8 c.frameAt ++ natLe 2 c.landed ++ natLe 2 c.lostLines ++ [if short then 1 else 0] ++ List.replicate 11 0)

/-- The frame in progress ends; `rest`: its lines that have not landed land as lost. -/
def endFrame (s : State) (page ch : Nat) (rest short : Bool) : State :=
  let c := chanOf s page ch
  if !c.inFrame then s
  else
    let n := if rest then chLines c.desc - c.landed else 0
    let c1 := { chLose c n with landed := c.landed + n, lostLines := c.lostLines + n, inFrame := false, seen := [] }
    slotRecord (setVChan s page ch c1) page ch short

/-- A frame starts: the sources bound to the channel advance, and the frame takes the number of the first of them, or the
channel's own count. -/
def beginFrame (s : State) (page ch : Nat) (stamp : W32) (ext media : Nat) : State :=
  let srcs := chSources s kdVideoIn page ch
  let s1 := srcs.foldl (fun s n => frameStart s n media) s
  let c := chanOf s1 page ch
  let f := match srcs with
    | n :: _ => posFrame (sourceOf s1 n).pos
    | [] => if c.begun then (c.frame + 1) % 2 ^ 48 else 0
  setVChan s1 page ch { c with
    begun := true, frame := f, inFrame := true, stamp, frameAt := s1.now, landed := 0, lostLines := 0, seen := [], pos := ext, entry := 0 }

/-- The next line lands; `lost`: it counts as lost. -/
def landLine (s : State) (page ch : Nat) (lost : Bool) : State :=
  let c := chanOf s page ch
  let c1 := if lost then { chLose c 1 with lostLines := c.lostLines + 1 } else c
  let s1 := setVChan s page ch { c1 with landed := c.landed + 1, seen := c.seen.filter fun y => y.1 != c.landed }
  (chSources s1 kdVideoIn page ch).foldl lineLanded (pmcEvent s1 5 (page - 0x220) 0 1)

/-- Whether every byte of line `n` has arrived. -/
def lineFull (c : VChan) (n : Nat) : Bool := (List.range (chLineb c.desc)).all fun b => c.seen.contains (n, b)

/-- Lines below `upTo` land, lost where bytes are missing; then the complete lines that follow. -/
def landUpTo (page ch upTo : Nat) : Nat → State → State
  | 0, s => s
  | fuel + 1, s =>
    let c := chanOf s page ch
    if c.landed ≥ chLines c.desc || !running c then s
    else if lineFull c c.landed then landUpTo page ch upTo fuel (landLine s page ch false)
    else if c.landed < upTo then landUpTo page ch upTo fuel (landLine s page ch true)
    else s

/-- Bytes of a sample row are placed, after the lines that this packet lands. -/
def placeRow (page ch : Nat) (s : State) (row : Nat × Nat × List Byte) : State :=
  let (line, off, data) := row
  let s1 := landUpTo page ch (line - 1) 4321 s
  let c := chanOf s1 page ch
  let s2 := chWrite s1 page ch (slotOf c.desc c.frame + line * chPitch c.desc + off) data
  let c2 := chanOf s2 page ch
  let new := ((List.range data.length).map fun k => (line, off + k)).filter fun y => !c2.seen.contains y
  landUpTo page ch 0 4321 (setVChan s2 page ch { c2 with seen := c2.seen ++ new })

/-- Whether a row may be placed (R369). -/
def rowOk (c : VChan) (row : Nat × Nat × List Byte) : Bool :=
  decide (c.landed ≤ row.1) && decide (row.1 < chLines c.desc) && decide (row.2.1 + row.2.2.length ≤ chLineb c.desc)

/-! ### Received packets -/

/-- The running receive channel of a port that a packet's address, UDP port and payload type match (R367). -/
def matchChan (s : State) (page : Nat) (dst : W32) (udp : BitVec 16) (pt : BitVec 7) : Option Nat :=
  (chansOn s page).find? fun ch =>
    let d := (chanOf s page ch).desc
    isRx d && chAddr d == BitVec.ofNat 64 (dst.toNat * 2 ^ 32 + udp.toNat * 2 ^ 16 + pt.toNat)

/-- A packet of a port: one that matches no running channel goes to Fragan, and one for a channel of another kind is dropped. -/
def onPacket (s : State) (port : Nat) (dst : W32) (udp : BitVec 16) (pt : BitVec 7) (kind : Nat) (fmtOk : Bool) (f : Nat → Nat → State) : Out :=
  onUnit (decide (port < 4)) <|
    let page := 0x220 + port
    if !portUp s page then .next s
    else match matchChan s page dst udp pt with
      | none => .next s
      | some ch => if chKind (chanOf s page ch).desc != kind || !fmtOk then .next (vioDrop s page) else .next (f page ch)

/-- A change of RTP time-stamp ends the frame in progress short and starts a new one (R369). -/
def frameByStamp (s : State) (page ch : Nat) (stamp : W32) : State :=
  let c := chanOf s page ch
  if c.begun && c.stamp == stamp then s
  else
    let s1 := endFrame s page ch true true
    let ext := if c.begun then extendNear 32 c.pos stamp.toNat else stamp.toNat
    beginFrame s1 page ch stamp ext (ext / Config.framePeriod (chInput page ch))

/-- ST2110_PACKET (R369, R371). A packet of a frame that has ended belongs to lines that have landed. -/
def execSt2110Packet (m : VideoPacket) (s : State) : Out :=
  onPacket s m.port m.dst m.udp m.pt ckVideoIn m.formatOk fun page ch =>
    if m.fieldBit then vioDrop s page
    else
      let s1 := frameByStamp s page ch m.stamp
      let c := chanOf s1 page ch
      if !running c then s1
      else if !c.inFrame || !(m.rows.all (rowOk c)) then vioDrop s1 page
      else
        let s2 := m.rows.foldl (placeRow page ch) s1
        if m.marker && running (chanOf s2 page ch) then
          endFrame (landUpTo page ch (chLines c.desc) 4321 s2) page ch false false
        else s2

/-- A CSI-2 channel that receives: its receiver is up and the channel runs. -/
def onCsi (s : State) (rx vc : Nat) (f : Nat → State) : Out :=
  onUnit (decide (rx < 8) && decide (vc < 16)) <|
    let page := 0x224 + rx
    if portUp s page && running (chanOf s page vc) then .next (f page) else .next s

/-- CSI2_FRAME_START: a frame in progress ends short. -/
def execCsi2FrameStart (rx vc frame : Nat) (s : State) : Out :=
  onCsi s rx vc fun page =>
    let c := chanOf s page vc
    let s1 := endFrame s page vc false true
    let ext := if c.begun then extendNear 16 c.pos (frame % 0x10000) else frame % 0x10000
    beginFrame s1 page vc 0 ext ext

/-- CSI2_LONG_PACKET: the payload lands as the next line; one past the last line is dropped. -/
def execCsi2LongPacket (rx vc dt : Nat) (hdr : HeaderError) (crcBad : Bool) (data : List Byte) (s : State) : Out :=
  onUnit (decide (rx < 8) && decide (vc < 16)) <|
    let page := 0x224 + rx
    let c := chanOf s page vc
    if !portUp s page then .next s
    else if hdr = .uncorrectable then .next (vioDrop s page)
    else if !running c || dt ≠ chFmtx c.desc || !c.inFrame then .next s
    else if c.landed ≥ chLines c.desc then .next (vioDrop s page)
    else
      let s1 := chWrite s page vc (slotOf c.desc c.frame + c.landed * chPitch c.desc) (data.take (chLineb c.desc))
      if running (chanOf s1 page vc) then .next (landLine s1 page vc (crcBad || data.length != chLineb c.desc)) else .next s1

/-- CSI2_FRAME_END. -/
def execCsi2FrameEnd (rx vc : Nat) (s : State) : Out :=
  onCsi s rx vc fun page =>
    let c := chanOf s page vc
    endFrame s page vc false (decide (c.landed < chLines c.desc))

/-! ### Audio (R372) -/

/-- Address of sample frame `n`. -/
def sampleAddr (d : List W64) (n : Nat) : Nat := chBase d + n / chLineb d % chNfr d * chStride d + n % chLineb d * 4 * chLines d

/-- Sample frames written from `n` on, each a list of words, channel by channel. -/
def writeFrames (page ch : Nat) : Nat → List (List W32) → State → State
  | _, [], s => s
  | n, x :: xs, s =>
    writeFrames page ch (n + 1) xs
      (pmcEvent (chWrite s page ch (sampleAddr (chanOf s page ch).desc n) (x.flatMap fun w => natLe 4 w.toNat)) 5 (page - 0x220) 0 1)

/-- The audio position is that of the sample frames from the start that have landed or been filled. -/
def audioMoved (s : State) (page ch : Nat) : State :=
  let c := chanOf s page ch
  (chSources s kdAudio page ch).foldl (fun s n => countTo s n (BitVec.ofNat 64 (c.pos - c.frame))) s

/-- Samples of an AES67 payload: big-endian words of 2 or 3 bytes, left-justified. -/
def payloadWord (bs : List Byte) : W32 := BitVec.ofNat 32 (leNat bs.reverse * 2 ^ (32 - 8 * bs.length))
def payloadFrames (d : List W64) (bs : List Byte) : List (List W32) :=
  let w := if chFmtx d = 0 then 2 else 3
  (List.range (bs.length / (w * chLines d))).map fun k => (List.range (chLines d)).map fun c =>
    payloadWord ((bs.drop ((k * chLines d + c) * w)).take w)

/-- AES67_PACKET: a gap is filled with zeros and counted in packets of this size; only the last sample frames of a gap that the
ring holds are left to see. -/
def execAes67Packet (m : AudioPacket) (s : State) : Out :=
  onPacket s m.port m.dst m.udp m.pt ckAudioIn m.formatOk fun page ch =>
    let c := chanOf s page ch
    let fs := payloadFrames c.desc m.payload
    let k := fs.length
    let n := if c.begun then extendNear 32 c.pos m.stamp.toNat else m.stamp.toNat
    if k = 0 || m.payload.length % ((if chFmtx c.desc = 0 then 2 else 3) * chLines c.desc) != 0 then vioDrop s page
    else if c.begun && n < c.pos then vioDrop s page
    else
      let c0 := if c.begun then chLose c (ceilDiv (n - c.pos) k) else { c with begun := true, frame := n, pos := n }
      let from_ := max c0.pos (n - chNfr c.desc * chLineb c.desc)
      let s1 := writeFrames page ch from_ (List.replicate (n - from_) (List.replicate (chLines c.desc) 0)) (setVChan s page ch c0)
      let s2 := writeFrames page ch n fs s1
      if running (chanOf s2 page ch) then audioMoved (setVChan s2 page ch { chanOf s2 page ch with pos := n + k }) page ch else s2

/-- Width of a TDM slot. -/
def tdmWidth (s : State) (page : Nat) : Nat := match rbits s page 0x100 29 28 with | 0 => 16 | 1 => 24 | _ => 32

/-- Bytes that an out channel reads and sends; a failure stops the channel. -/
def sendBytes (s : State) (page ch va n : Nat) (f : VChan → VChan) : State :=
  match rangeRead s (vioUnit page) (chTag (chanOf s page ch)) va n with
  | .ok bs => setVChan s page ch { f (chanOf s page ch) with sent := bs }
  | .error b => vioFail s page ch b

/-- TDM_FRAME_SYNC: channel 0 lands the received sample frame, channel 1 sends one. -/
def execTdmFrameSync (port : Nat) (samples : List W32) (s : State) : Out :=
  onUnit (decide (port < 4)) <|
    let page := 0x22C + port
    if !portUp s page then .next s
    else
      let c := chanOf s page 0
      let w := tdmWidth s page
      let x := (List.range (chLines c.desc)).map fun k => (samples.getD k 0) <<< (32 - w)
      let s1 := if running c then
          let s1 := writeFrames page 0 c.pos [x] s
          if running (chanOf s1 page 0) then audioMoved (setVChan s1 page 0 { chanOf s1 page 0 with pos := c.pos + 1 }) page 0 else s1
        else s
      let o := chanOf s1 page 1
      .next (if running o then sendBytes s1 page 1 (sampleAddr o.desc o.pos) (4 * chLines o.desc) fun c => { c with pos := c.pos + 1 } else s1)

/-! ### Ancillary data (R373) -/

/-- ANCILLARY_PACKET: the payload goes into the next entry; one above 1,020 bytes, or past the last entry, is dropped. -/
def execAncillaryPacket (m : AudioPacket) (s : State) : Out :=
  onPacket s m.port m.dst m.udp m.pt ckAncIn m.formatOk fun page ch =>
    let c := chanOf s page ch
    let s1 := if c.begun && c.stamp == m.stamp then s
      else
        let ext := if c.begun then extendNear 32 c.pos m.stamp.toNat else m.stamp.toNat
        beginFrame s page ch m.stamp ext (ext / Config.framePeriod (chInput page ch))
    let c1 := chanOf s1 page ch
    if m.payload.length > 1020 || c1.entry ≥ chLines c1.desc then vioDrop s1 page
    else
      let s2 := chWrite s1 page ch (slotOf c1.desc c1.frame + 1024 * c1.entry) (natLe 4 m.payload.length ++ m.payload)
      setVChan s2 page ch { chanOf s2 page ch with entry := c1.entry + 1 }

/-! ### Transmission (R373-R375) -/

/-- An out channel of a kind that runs on an enabled Ethernet port. -/
def onSend (s : State) (page ch kind : Nat) (f : VChan → State) : Out :=
  onUnit (isEth page && decide (ch < 32)) <|
    let c := chanOf s page ch
    if portUp s page && running c && chKind c.desc == kind then .next (f c) else .next s

/-- Time of frame `k` of a video-out channel. -/
def frameTime (d : List W64) (k : Nat) : Nat := ceilDiv (k * chRated d * 1000000000) (chRaten d)

/-- VIDEO_OUT_FRAME: at its frame time the channel reads the ready word and sends the slot it names; a slot sent again is counted. -/
def execVideoOutFrame (page ch : Nat) (s : State) : Out :=
  onSend s page ch ckVideoOut fun c =>
    let k := if c.begun then c.frame else ceilDiv (s.now * chRaten c.desc) (chRated c.desc * 1000000000)
    let s1 := atLeast s (frameTime c.desc k)
    match rangeNat s1 (vioUnit page) (chTag c) (chReady c.desc) 8 with
    | .error b => vioFail s1 page ch b
    | .ok w =>
      let same : Bool := c.begun && nbits w 63 16 == c.lastCount
      let c1 := { (if same then chLose c 1 else c) with begun := true, frame := k + 1, lastCount := nbits w 63 16 }
      let base := chBase c.desc + nbits w 5 0 * chStride c.desc
      let rows := (List.range (chLines c.desc)).map fun l =>
        rangeRead s1 (vioUnit page) (chTag c) (base + l * chPitch c.desc) (chLineb c.desc)
      let s2 := setVChan s1 page ch c1
      match rows.findSome? fun r => match r with | .error b => some b | .ok _ => none with
      | some b => vioFail s2 page ch b
      | none => setVChan s2 page ch { c1 with sent := rows.flatMap fun r => match r with | .ok bs => bs | .error _ => [] }

/-- AUDIO_OUT_SEND: the sample frame whose send time the device timestamp has reached, at 48 kHz. -/
def execAudioOutSend (page ch : Nat) (s : State) : Out :=
  onSend s page ch ckAudioOut fun c =>
    let n := if c.begun then c.pos else ceilDiv (s.now * 48000) 1000000000
    let s1 := atLeast s (ceilDiv (n * 1000000000) 48000)
    sendBytes s1 page ch (sampleAddr c.desc n) (4 * chLines c.desc) fun c => { c with begun := true, pos := n + 1 }

/-- ANCILLARY_OUT_SEND: each entry of the ready slot whose length is not zero is sent. -/
def execAncillaryOutSend (page ch : Nat) (s : State) : Out :=
  onSend s page ch ckAncOut fun c =>
    let rd (a n : Nat) : Except EdgeBad (List Byte) := rangeRead s (vioUnit page) (chTag c) a n
    match (rd (chReady c.desc) 8).map leNat with
    | .error b => vioFail s page ch b
    | .ok w =>
      let base := chBase c.desc + nbits w 5 0 * chStride c.desc
      let entries : List (Except EdgeBad (List Byte)) := (List.range (chLines c.desc)).map fun k =>
        match (rd (base + 1024 * k) 4).map leNat with
        | .error b => .error b
        | .ok n => if n = 0 then .ok [] else rd (base + 1024 * k + 4) (min n 1020)
      match entries.findSome? fun r => match r with | .error b => some b | .ok _ => none with
      | some b => vioFail s page ch b
      | none => setVChan s page ch { c with
          begun := true, lastCount := nbits w 63 16, sent := entries.flatMap fun r => match r with | .ok bs => bs | .error _ => [] }

/-! ### Enabling and stopping (R365, R366, R388) -/

/-- A channel stops: a frame in progress ends short and its record is written. -/
def chanStop (s : State) (page ch : Nat) : State :=
  let eth := isEth page
  let s1 := if running (chanOf s page ch) && chKind (chanOf s page ch).desc == ckVideoIn then endFrame s page ch eth true else s
  setVChan s1 page ch { chanOf s1 page ch with ctl := clrBit (chanOf s1 page ch).ctl 31, state := vsOff, inFrame := false }

/-- A channel is enabled under a tag: its descriptor is read and checked, and it runs or is refused. -/
def chanStart (s : State) (page ch : Nat) (v : W32) : State :=
  let s0 := if running (chanOf s page ch) then chanStop s page ch else s
  let c : VChan := { ctl := v, descAddr := (chanOf s0 page ch).descAddr, lost := (chanOf s0 page ch).lost }
  let s1 := setVChan s0 page ch c
  let refuse (d : List W64) : State := raiseIrq (setVChan s1 page ch { c with desc := d, state := vsRefused }) page 1
  if c.descAddr.toNat % 64 ≠ 0 then refuse []
  else match rangeRead s1 (vioUnit page) (bits v 11 0) c.descAddr.toNat 64 with
    | .error b => vioFail s1 page ch b
    | .ok bs =>
      let d := words64 bs
      if chanShape s1 page ch d && chanFits s1 page ch (bits v 11 0) d then setVChan s1 page ch { c with desc := d, state := vsRunning }
      else refuse d

/-- A write of VIO_CH_CTL for the channel that VIO_CH_SEL names. -/
def chCtlWrite (s : State) (page : Nat) (v : W32) : State :=
  let ch := rbits s page 0x108 4 0
  if bit v 31 then chanStart s page ch v
  else
    let s1 := chanStop s page ch
    setVChan s1 page ch { chanOf s1 page ch with ctl := v }

/-! ### Ports and the PTP servo (R376, R389) -/

/-- VIO_STAT.UP changes with LINK. -/
def execVioLinkChange (page : Nat) (up : Bool) (s : State) : Out :=
  onUnit (isVio page) <|
    if (rbits s page 0x104 31 31 == 1) == up then .next s
    else .next (raiseIrq (rput s page 0x104 31 31 (if up then 1 else 0)) page 2)

/-- PTP sources on a port. -/
def ptpSources (s : State) (port : Nat) : List Nat :=
  (s.sources.filter fun x => srcKind x.2 == kdPtp && srcInput x.2 % 4 == port).map (·.1)

/-- LOCKED of a port's VIO_STAT; a change raises LINK. -/
def setLocked (s : State) (port : Nat) (on : Bool) : State :=
  if (rbits s (0x220 + port) 0x104 30 30 == 1) == on then s
  else raiseIrq (rput s (0x220 + port) 0x104 30 30 (if on then 1 else 0)) (0x220 + port) 2

/-- The servo loses lock: LOCKED is cleared, the PTP sources stop, and the loss is journalled. -/
def loseLock (s : State) (port : Nat) : State :=
  let s1 := setLocked { s with ptp := { s.ptp with locked := false, good := 0, bad := 0 } } port false
  journal ((ptpSources s1 port).foldl stopSource s1) (0x220 + port) 1 (natLe 8 s.now)

/-- The servo locks: LOCKED is set and the PTP sources leave STOPPED; a forward step fires triggers late. -/
def gainLock (s : State) (port : Nat) (stepped : Bool) : State :=
  let s1 := setLocked { s with ptp := { s.ptp with locked := true, everLocked := true, good := 0, bad := 0 } } port true
  (ptpSources s1 port).foldl (fun s n => sourceMoved (setSource s n { sourceOf s n with state := 1 }) n stepped) s1

/-- The device timestamp is set to PTP time: the offset is taken off. -/
def stepClock (s : State) (offset : Int) : State := { s with now := ((s.now : Int) - offset).toNat }

/-- PTP_SYNC: `offset` is the device timestamp less PTP time, in ns. -/
def execPtpSync (offset delay : Int) (s : State) : Out :=
  match servoPort s with
  | none => .next s
  | some port =>
    let small : Bool := decide (offset.natAbs < 1000)
    let p : Ptp := { s.ptp with lastSync := s.now, offset, delay }
    if s.ptp.locked then
      let bad := if small then 0 else s.ptp.bad + 1
      let s1 := { s with ptp := { p with bad } }
      .next (if bad ≥ 4 then loseLock s1 port else s1)
    else if !s.ptp.everLocked then
      let good := if small then s.ptp.good + 1 else 0
      let s1 := { s with ptp := { p with good } }
      if good ≥ 16 then
        let s2 := stepClock s1 offset
        .next (gainLock { s2 with ptp := { s2.ptp with lastSync := s2.now } } port true)
      else .next s1
    else
      let s1 := { s with ptp := p }
      if offset < -1000000 then
        let s2 := stepClock s1 offset
        .next (gainLock (journal { s2 with ptp := { s2.ptp with lastSync := s2.now } } (0x220 + port) 2 (natLe 8 offset.natAbs)) port true)
      else if small then .next (gainLock s1 port false)
      else .next s1

/-- PTP_SYNC_TIMEOUT: 3 s have passed since the last sync message of a locked servo. -/
def execPtpSyncTimeout (s : State) : Out :=
  match servoPort s with
  | none => .next s
  | some port => whenever s.ptp.locked s (loseLock (atLeast s (s.ptp.lastSync + 3000000000)) port)

/-- After a write of VIO_CFG: a servo whose port no longer runs it is not locked. -/
def servoCheck (s : State) (page : Nat) : State :=
  if s.ptp.locked && rbits s page 0x104 30 30 == 1 && servoPort s != some (page - 0x220) then loseLock s (page - 0x220) else s

end Sys2Proof.Machine
end

