-- ==== Sys2Proof/Machine/Compositor.lean ====
section
/-! DEFINITION. Display pipes (13_video_audio_and_compositor.md, R377-R385): enabling, the frame descriptor, scan lines with their
layers, write-back, and the DisplayPort link. -/
namespace Sys2Proof.Machine

/-- A pipe, and the state with it replaced or updated. -/
def pipeOf (s : State) (n : Nat) : Pipe := tget {} s.pipes n
def setPipe (s : State) (n : Nat) (x : Pipe) : State := { s with pipes := tput s.pipes n x }
def updPipe (s : State) (n : Nat) (f : Pipe → Pipe) : State := setPipe s n (f (pipeOf s n))

/-- The range-translation unit of a pipe, by its requester number (Table 08-2). -/
def cmpUnit (n : Nat) : Nat := 0x126 + n

/-- Timing of a pipe as taken at its enable. -/
def Pipe.htot (x : Pipe) : Nat := bits x.htim 31 16
def Pipe.hact (x : Pipe) : Nat := bits x.htim 15 0
def Pipe.vtot (x : Pipe) : Nat := bits x.vtim 31 16
def Pipe.vact (x : Pipe) : Nat := bits x.vtim 15 0
def Pipe.khz (x : Pipe) : Nat := bits x.pclk 20 0
def Pipe.tag (x : Pipe) : Nat := bits x.cfg 11 0

/-! ### Enabling (R377) and the link -/

/-- Payload rate of a trained link in units of 1/330 Mb/s: lanes x rate x 0.8, or x 128/132 for UHBR10. -/
def payload (rate lanes : Nat) : Nat :=
  2 ^ lanes * match rate with
    | 1 => 1620 * 264
    | 2 => 2700 * 264
    | 3 => 5400 * 264
    | 4 => 8100 * 264
    | 5 => 10000 * 320
    | _ => 0

/-- Whether the timing registers allow an enable with configuration `v`. -/
def timingOk (s : State) (n : Nat) (v : W32) : Bool :=
  let x : Pipe := { cfg := v, htim := rget s (pgCmp n) 0x104, vtim := rget s (pgCmp n) 0x108, pclk := rget s (pgCmp n) 0x10C }
  let bpp := if bits v 26 25 = 0 then 24 else 30
  decide (x.hact ≤ 3840) && decide (x.vact ≤ 2160) && decide (x.hact + 80 ≤ x.htot) && decide (x.vact + 8 ≤ x.vtot)
  && decide (x.khz ≤ 1100000) && decide (x.khz * 1000 ≤ 120 * (x.htot * x.vtot))
  && (!bit v 30 || decide (x.khz * bpp * 330 ≤ 1000 * payload (pipeOf s n).rate (pipeOf s n).lanes))

/-- A write of CMP_CFG by Fragan: EN = 1 starts a pipe that is off, unless it is refused; EN = 0 stops it at once; other changes wait
for the next enable. -/
def cmpCfgWrite (s : State) (n : Nat) (v : W32) : State :=
  let x := pipeOf s n
  if bit v 31 then
    if x.on then rset s (pgCmp n) 0x100 v
    else if timingOk s n v then
      let s1 := rset s (pgCmp n) 0x100 v
      setPipe s1 n { on := true, cfg := v, htim := rget s (pgCmp n) 0x104, vtim := rget s (pgCmp n) 0x108, pclk := rget s (pgCmp n) 0x10C,
                     ptr := bits (rget s (pgCmp n) 0x114) 15 0 * 2 ^ 32 + (rget s (pgCmp n) 0x110).toNat,
                     line := bits (rget s (pgCmp n) 0x108) 15 0, line0At := s.now, hpd := x.hpd, rate := x.rate, lanes := x.lanes, fltAddr := x.fltAddr }
    else s
  else setPipe (rset s (pgCmp n) 0x100 v) n { hpd := x.hpd, rate := x.rate, lanes := x.lanes, fltAddr := x.fltAddr }

/-- DP_LINK_TRAINING: with a sink present the link comes up at a rate and lane count; rate 0: training failed. -/
def execDpLinkTraining (n rate lanes : Nat) (s : State) : Out :=
  onUnit (decide (n < 4) && decide (rate ≤ 5) && decide (lanes ≤ 2)) <|
    whenever (pipeOf s n).hpd s (updPipe s n fun x => { x with rate, lanes := if rate = 0 then 0 else lanes })

/-- HOT_PLUG_LOSS: the main link turns off; timing, position and write-back run on. -/
def execHotPlugLoss (n : Nat) (s : State) : Out :=
  onUnit (decide (n < 4)) <|
    whenever (pipeOf s n).hpd s (raiseIrq (updPipe s n fun x => { x with hpd := false, rate := 0, lanes := 0 }) (pgCmp n) 3)

/-- HOT_PLUG_DETECT. -/
def execHotPlugDetect (n : Nat) (s : State) : Out :=
  onUnit (decide (n < 4)) <| .next (updPipe s n fun x => { x with hpd := true })

/-! ### Faults (R385) -/

/-- A fault of a layer or of write-back on a scan line. -/
def cmpRecord (s : State) (n kind layer : Nat) (wb : Bool) (addr : Nat) : State :=
  let x := pipeOf s n
  let held := infoHeld s (pgCmp n) 0x124
  let s1 := raiseIrq (capture s (pgCmp n) 0x124 30 (kind * 2 ^ 27 + layer * 2 ^ 24 + (if wb then 2 ^ 23 else 0) + x.line)) (pgCmp n) 0
  if held then journal s1 (pgCmp n) 0 (natLe 8 addr) else updPipe s1 n fun x => { x with fltAddr := BitVec.ofNat 64 addr }

/-- The record of a failed access: 1 translation, 2 permission, 4 uncorrectable data. -/
def cmpBad (s : State) (n layer : Nat) (wb : Bool) : EdgeBad → State
  | .fault f addr => cmpRecord (xltRecord s f false (0x26 + n) (pipeOf s n).tag addr) n (if f.kind = 2 then 2 else 1) layer wb addr
  | .poison addr => cmpRecord s n 4 layer wb addr

/-! ### The frame descriptor (Table 13-3, R379-R381) -/

def fdBg (d : List W64) : Nat := bits (dw d 0) 29 0
def fdWbBase (d : List W64) : Nat := bits (dw d 1) 47 0
def fdWbNfr (d : List W64) : Nat := bits (dw d 2) 45 40
def fdWbFmt (d : List W64) : Nat := bits (dw d 2) 35 32
def fdWbPitch (d : List W64) : Nat := bits (dw d 2) 31 0
def fdReady (d : List W64) : Nat := bits (dw d 3) 47 0
def fdTone (d : List W64) : Nat := bits (dw d 4) 47 0

/-- Word `k` of layer `l`, and its fields. -/
def lyW (d : List W64) (l k : Nat) : W64 := dw d (8 + 8 * l + k)
def lyEn (d : List W64) (l : Nat) : Bool := bit (lyW d l 0) 63
def lyFmt (d : List W64) (l : Nat) : Nat := bits (lyW d l 0) 62 59
def lyCmpr (d : List W64) (l : Nat) : Bool := bit (lyW d l 0) 54
def lyBase (d : List W64) (l : Nat) : Nat := bits (lyW d l 1) 47 0
def lyPitch (d : List W64) (l : Nat) : Nat := bits (lyW d l 2) 31 0
def lySx (d : List W64) (l : Nat) : Nat := bits (lyW d l 3) 63 48
def lySy (d : List W64) (l : Nat) : Nat := bits (lyW d l 3) 47 32
def lySw (d : List W64) (l : Nat) : Nat := bits (lyW d l 3) 31 16
def lySh (d : List W64) (l : Nat) : Nat := bits (lyW d l 3) 15 0
def lyDx (d : List W64) (l : Nat) : Nat := bits (lyW d l 4) 63 48
def lyDy (d : List W64) (l : Nat) : Nat := bits (lyW d l 4) 47 32
def lyDw (d : List W64) (l : Nat) : Nat := bits (lyW d l 4) 31 16
def lyDh (d : List W64) (l : Nat) : Nat := bits (lyW d l 4) 15 0

/-- Whether an enabled layer keeps to Table 13-3 and R381. -/
def layerOk (x : Pipe) (d : List W64) (l : Nat) : Bool :=
  [0, 1, 2, 4, 5, 6].contains (lyFmt d l) && bits (lyW d l 0) 58 57 != 3 && bits (lyW d l 0) 53 48 == 0 && bits (lyW d l 0) 39 0 == 0
  && (!lyCmpr d l || decide (lyFmt d l ≤ 2))
  && bits (lyW d l 1) 63 48 == 0 && lyBase d l % 128 == 0 && bits (lyW d l 2) 63 32 == 0 && lyPitch d l % 16 == 0
  && decide (1 ≤ lySw d l) && decide (1 ≤ lySh d l)
  && decide (lyDx d l + lyDw d l ≤ x.hact) && decide (lyDy d l + lyDh d l ≤ x.vact)
  && lyW d l 5 == 0 && lyW d l 6 == 0 && lyW d l 7 == 0
  && decide (lyDw d l ≤ 16 * lySw d l) && decide (lyDh d l ≤ 16 * lySh d l) && decide (lySw d l ≤ 8 * lyDw d l)
  && decide (lySh d l ≤ (if lySw d l > 1920 then 4 else 8) * lyDh d l)

/-- Whether a frame descriptor passes. -/
def frameOk (x : Pipe) (d : List W64) : Bool :=
  let order := (List.range 8).map fun i => nbits (bits (dw d 0) 55 32) (3 * i + 2) (3 * i)
  bits (dw d 0) 62 56 == 0 && bits (dw d 0) 31 30 == 0
  && (!bit (dw d 0) 63 || (List.range 8).all fun l => order.contains l)
  && bits (dw d 1) 63 48 == 0 && fdWbBase d % 128 == 0
  && bits (dw d 2) 63 46 == 0 && bits (dw d 2) 39 36 == 0 && fdWbPitch d % 16 == 0
  && (fdWbBase d == 0 || (decide (2 ≤ fdWbNfr d) && [0, 1, 5].contains (fdWbFmt d)))
  && bits (dw d 3) 63 48 == 0 && fdReady d % 8 == 0 && bits (dw d 4) 63 48 == 0 && fdTone d % 2 == 0
  && dw d 5 == 0 && dw d 6 == 0 && dw d 7 == 0
  && (List.range 8).all fun l => !lyEn d l || layerOk x d l

/-- DESCRIPTOR_FETCH: on scan line VACT the pointer slot and the descriptor it names are read and checked. -/
def execDescriptorFetch (n : Nat) (s : State) : Out :=
  onUnit (decide (n < 4)) <|
    let x := pipeOf s n
    if !x.on || x.line ≠ x.vact || x.fetched || !tagLive s x.tag then .next s
    else match rangeNat s (cmpUnit n) x.tag x.ptr 8 with
      | .error b => .next (cmpBad s n 0 false b)
      | .ok 0 => .next (setPipe s n { x with fetched := true, next := none })
      | .ok a => match rangeRead s (cmpUnit n) x.tag a 576 with
        | .error b => .next (cmpBad s n 0 false b)
        | .ok bs =>
          let d := words64 bs
          if frameOk x d then .next (setPipe s n { x with fetched := true, next := some d })
          else .next (raiseIrq (rcount (setPipe s n { x with fetched := true, next := none }) (pgCmp n) 0x11C) (pgCmp n) 1)

/-- At scan line 0 the accepted descriptor takes effect; else the previous one stays in force, counted when none was read in time. -/
def applyFrame (s : State) (n : Nat) : State :=
  let x := pipeOf s n
  match x.next with
  | some d => setPipe s n { x with desc := d, next := none, previous := false, layersOff := 0, applied := true }
  | none =>
    let s1 := setPipe s n { x with previous := true, applied := true }
    if x.fetched || !tagLive s x.tag then s1 else raiseIrq (rcount s1 (pgCmp n) 0x120) (pgCmp n) 2

/-- FRAME_DESCRIPTOR_APPLY: the pipe is about to start scan line 0. -/
def execFrameDescriptorApply (n : Nat) (s : State) : Out :=
  onUnit (decide (n < 4)) <|
    let x := pipeOf s n
    whenever (x.on && !x.applied && decide (x.line + 1 = x.vtot)) s (applyFrame s n)

/-! ### Layers (R382, R383) -/

/-- What a layer contributes to a line: its source bytes (none: transparent), the fault met, and whether it turns the layer off. -/
structure LayerRead where
  bytes : List (Option Byte) := []
  bad : Option (Nat × EdgeBad) := none
  off : Bool := false

/-- Bytes and pixels of a pixel group (R379, ST 2110-20). -/
def groupSize : Nat → Nat × Nat
  | 4 => (4, 2)
  | 5 => (5, 2)
  | 6 => (15, 4)
  | 2 => (8, 1)
  | _ => (4, 1)

/-- Source rows under line `y` of a layer's destination: those that the vertical filter's four taps reach. -/
def sourceRows (d : List W64) (l y : Nat) : List Nat :=
  let r := y * lySh d l / lyDh d l
  ((List.range 4).filterMap fun k => if r + k < 1 ∨ lySh d l ≤ r + k - 1 then none else some (lySy d l + (r + k - 1)))

/-- Bytes from `va`, a poisoned one absent. -/
def readLoose (s : State) (u tag va n : Nat) : LayerRead :=
  match rangePas s u tag .r va n with
  | .error b => { bad := some (1, b), off := true }
  | .ok pas =>
    let bytes := pas.map fun pa => if poisoned s pa then none else some (memByte s pa)
    { bytes, bad := ((List.range n).find? fun i => poisoned s (pas.getD i 0)).map fun i => (4, .poison (va + i)) }

/-- Parts of a line joined. -/
def joinReads (a b : LayerRead) : LayerRead :=
  { bytes := a.bytes ++ b.bytes, bad := match a.bad with | some x => some x | none => b.bad, off := a.off || b.off }

/-- A row of a linear surface. -/
def linearRow (s : State) (u tag : Nat) (d : List W64) (l y : Nat) : LayerRead :=
  let (num, den) := groupSize (lyFmt d l)
  let from_ := lySx d l / den * num
  let dst := ceilDiv (lySx d l + lySw d l) den * num
  readLoose s u tag (lyBase d l + y * lyPitch d l + from_) (dst - from_)

/-- A row of a compressed surface, block by block; a malformed block is transparent. -/
def blockPart (s : State) (u tag base : Nat) (f : Surf) (y bx x0 x1 : Nat) : LayerRead :=
  let b := y / 32 * f.bx + bx
  let sz := fmtSize f.fmt
  let lo := max x0 (32 * bx)
  let hi := min x1 (32 * bx + f.bw b)
  let n := (hi - lo) * sz
  let clear : List (Option Byte) := List.replicate n none
  match rangeNat s u tag (base + 64 + 8 * b) 8 with
  | .error (.poison a) => { bytes := clear, bad := some (4, .poison a) }
  | .error e => { bad := some (1, e), off := true }
  | .ok h =>
    if !blockOk h then { bytes := clear, bad := some (3, .poison (base + 64 + 8 * b)) }
    else match rangeRead s u tag (base + 16 * bhOff h) (16 * bhLen h) with
      | .error (.poison a) => { bytes := clear, bad := some (4, .poison a) }
      | .error e => { bad := some (1, e), off := true }
      | .ok body =>
        let head := natLe 8 h
        let rd (a : Nat) : Byte :=
          if 64 + 8 * b ≤ a ∧ a < 72 + 8 * b then head.getD (a - 64 - 8 * b) 0 else body.getD (a - 16 * bhOff h) 0
        match decodeBlock rd f b with
        | none => { bytes := clear, bad := some (3, .poison (base + 64 + 8 * b)) }
        | some px => { bytes := ((px.drop ((y % 32 * f.bw b + lo % 32) * sz)).take n).map some }

def surfaceRow (s : State) (u tag : Nat) (d : List W64) (l y : Nat) : LayerRead :=
  let sz := fmtSize (lyFmt d l)
  let clear : List (Option Byte) := List.replicate (lySw d l * sz) none
  match rangeRead s u tag (lyBase d l) 64 with
  | .error (.poison a) => { bytes := clear, bad := some (4, .poison a) }
  | .error e => { bad := some (1, e), off := true }
  | .ok hdr => match parseSurf fun a => hdr.getD a 0 with
    | none => { bytes := clear, bad := some (3, .poison (lyBase d l)) }
    | some f =>
      if f.fmt ≠ lyFmt d l then { bytes := clear, bad := some (3, .poison (lyBase d l)) }
      else if y ≥ f.height then { bytes := clear }
      else
        let x1 := min (lySx d l + lySw d l) f.width
        let row := (List.range f.bx).foldl (fun r bx =>
          if 32 * bx < x1 ∧ lySx d l < 32 * bx + 32 then joinReads r (blockPart s u tag (lyBase d l) f y bx (lySx d l) x1) else r) {}
        { row with bytes := row.bytes ++ List.replicate ((lySx d l + lySw d l - max x1 (lySx d l)) * sz) none }

/-- A layer's source for a scan line. -/
def readLayer (s : State) (n : Nat) (x : Pipe) (l : Nat) : LayerRead :=
  (sourceRows x.desc l (x.line - lyDy x.desc l)).foldl (fun r y =>
    joinReads r (if lyCmpr x.desc l then surfaceRow s (cmpUnit n) x.tag x.desc l y else linearRow s (cmpUnit n) x.tag x.desc l y)) {}

/-- Layers that the scan line shows. -/
def layersOn (x : Pipe) : List Nat :=
  (List.range 8).filter fun l => lyEn x.desc l && !bit x.layersOff l && decide (lyDy x.desc l ≤ x.line) && decide (x.line < lyDy x.desc l + lyDh x.desc l)

/-- One layer of the line: a fault is recorded, a translation or permission fault turns the layer off, and a late line is counted
unless the layer faulted (R385, R388). -/
def takeLayer (n : Nat) (late : BitVec 8) (acc : State × List (Nat × List (Option Byte))) (l : Nat) : State × List (Nat × List (Option Byte)) :=
  let (s, ls) := acc
  let r := readLayer s n (pipeOf s n) l
  match r.bad with
  | some (k, b) =>
    let s1 := match b with
      | .poison a => if k = 3 then cmpRecord s n 3 l false a else cmpBad s n l false b
      | .fault _ _ => cmpBad s n l false b
    if r.off then (updPipe s1 n fun x => { x with layersOff := setBit x.layersOff l }, ls) else (s1, ls ++ [(l, r.bytes)])
  | none =>
    if bit late l then (pmcEvent (raiseIrq (rcount s (pgCmp n) 0x120) (pgCmp n) 2) 6 n 0 1, ls)
    else (s, ls ++ [(l, r.bytes)])

/-! ### Scan lines (R378, R384) -/

/-- Bytes of a written-back line. -/
def wbBytes (x : Pipe) : Nat := if fdWbFmt x.desc = 5 then ceilDiv x.hact 2 * 5 else 4 * x.hact

/-- The blended line is written back; a fault stops write-back for the frame. -/
def writeBack (s : State) (n : Nat) (layers : List (Nat × List (Option Byte))) : State :=
  let x := pipeOf s n
  if fdWbBase x.desc = 0 || x.wbStopped then s
  else
    let tone := if fdTone x.desc = 0 then []
      else match rangeRead s (cmpUnit n) x.tag (fdTone x.desc) 130 with | .ok bs => bs | .error _ => []
    let bytes := (List.range (wbBytes x)).map fun i => Config.blend x.cfg x.desc tone x.line layers i
    let at_ := fdWbBase x.desc + x.frame % fdWbNfr x.desc * (fdWbPitch x.desc * x.vact) + x.line * fdWbPitch x.desc
    match rangeWrite s (cmpUnit n) x.tag at_ bytes with
    | .ok s1 => if x.line + 1 = x.vact then updPipe s1 n fun x => { x with wbDone := true } else s1
    | .error b => updPipe (cmpBad s n 0 true b) n fun x => { x with wbStopped := true }

/-- Whether a time lies within 1 µs of a frame boundary on PTP time (R378). -/
def nearBoundary (x : Pipe) (t : Nat) : Bool :=
  let m := t * x.khz % (x.htot * x.vtot * 1000000)
  decide (m ≤ 1000 * x.khz) || decide (x.htot * x.vtot * 1000000 ≤ m + 1000 * x.khz)

/-- The pipe moves to its next scan line. -/
def nextLine (s : State) (n : Nat) : State :=
  let x := pipeOf s n
  let line := (x.line + 1) % x.vtot
  let s0 := if line = 0 && !x.applied then applyFrame s n else s
  let s1 := atLeast s0 (x.line0At + ceilDiv ((if line = 0 then x.vtot else line) * x.htot * 1000000) x.khz)
  let s2 := updPipe s1 n fun x =>
    if line = 0 then { x with
      line, frame := (x.frame + 1) % 2 ^ 48, line0At := s1.now, fetched := false, applied := false, wbStopped := false, wbDone := false
      ptpLocked := bit x.cfg 29 && s1.ptp.locked && nearBoundary x s1.now }
    else { x with line }
  let y := pipeOf s2 n
  (sourcesOf s2 kdVideoOut n).foldl (fun s k => countTo s k (mkPos y.frame y.line)) s2

/-- SCAN_LINE: the next line; an active line is blended from its layers and written back. -/
def execScanLine (n : Nat) (late : BitVec 8) (s : State) : Out :=
  onUnit (decide (n < 4)) <|
    if !(pipeOf s n).on || (pipeOf s n).khz = 0 || (pipeOf s n).vtot = 0 then .next s
    else
      let s1 := nextLine s n
      let x := pipeOf s1 n
      if x.line ≥ x.vact || !tagLive s1 x.tag then .next s1
      else
        let (s2, layers) := (layersOn x).foldl (takeLayer n late) (s1, [])
        .next (writeBack s2 n layers)

/-- WRITEBACK_READY: the frame's last line has been performed. -/
def execWritebackReady (n : Nat) (s : State) : Out :=
  onUnit (decide (n < 4)) <|
    let x := pipeOf s n
    if !x.wbDone || !tagLive s x.tag then .next s
    else
      let s1 := setPipe s n { x with wbDone := false }
      match rangeWrite s1 (cmpUnit n) x.tag (fdReady x.desc) (natLe 8 (x.frame * 2 ^ 16 + x.frame % fdWbNfr x.desc)) with
      | .ok s2 => .next s2
      | .error b => .next (cmpBad s1 n 0 true b)

end Sys2Proof.Machine
end

