-- ==== Sys2Proof/Machine/Compress.lean ====
section
/-! DEFINITION. The compression engines (14_compression_engine.md): their rings, the four operations, and completion. A step runs a
whole descriptor; the formats are those of Codec.lean. -/
namespace Sys2Proof.Machine

/-! ### Engines and rings (R393, R394) -/

/-- Engine `e`, its ring `r`, and the state with the engine replaced. -/
def cprOf (s : State) (e : Nat) : Cpr := tget {} s.cprs e
def setCpr (s : State) (e : Nat) (c : Cpr) : State := { s with cprs := tput s.cprs e c }
def cprRing (c : Cpr) (r : Nat) : CprRing := tget {} c.rings r
def putRing (c : Cpr) (r : Nat) (x : CprRing) : Cpr := { c with rings := tput c.rings r x }

/-- The range-translation unit of an engine, by its requester number (Table 08-2). -/
def cprUnit (e : Nat) : Nat := 0x12A + e

/-- Fields of CPR_RING_CTL (Table 14-9). -/
def CprRing.on (x : CprRing) : Bool := bit x.ctl 31
def CprRing.size (x : CprRing) : Nat := 2 ^ bits x.ctl 30 27
def CprRing.tag (x : CprRing) : Nat := bits x.ctl 11 0

/-- A fault of kind `k` at an address, met while ring `r` is served (Table 14-10, R406). -/
def cprRecord (s : State) (e r tag k addr : Nat) : State :=
  let held := infoHeld s (pgCpr e) 0x11C
  let s1 := raiseIrq (capture s (pgCpr e) 0x11C 30 (k * 2 ^ 27 + r * 2 ^ 25 + tag)) (pgCpr e) 0
  if held then journal s1 (pgCpr e) 0 (natLe 8 addr)
  else setCpr s1 e { cprOf s1 e with fltAddr := BitVec.ofNat 64 addr }

/-- The record of a failed access: translation, permission, or uncorrectable data. -/
def cprBad (s : State) (e r tag : Nat) : EdgeBad → State
  | .fault f addr => cprRecord (xltRecord s f false (unitReq s (cprUnit e)) tag addr) e r tag (if f.kind = 2 then 2 else 1) addr
  | .poison addr => cprRecord s e r tag 3 addr

/-- Completion status of a failed access (Table 14-6). -/
def badStatus : EdgeBad → Nat
  | .fault _ _ => 4
  | .poison _ => 5

/-- A write of CPR_RING_CTL for ring `r`: EN = 1 binds the ring, its counts from zero; EN = 0 stops it, and a descriptor of it in
progress issues no new beat and writes no record (R393, R406, R407). -/
def ringCtlWrite (s : State) (e r : Nat) (v : W32) : State :=
  let c := cprOf s e
  let c1 := if c.serving = r then { c with desc := none, outcome := none } else c
  if bit v 31 then
    if (cprRing c r).on then setCpr s e (putRing c r { cprRing c r with ctl := v })
    else setCpr s e (putRing c r { ctl := v, wbase := (cprRing c r).wbase, base := (cprRing c r).wbase })
  else setCpr s e (putRing c1 r { cprRing c r with ctl := v })

/-! ### Descriptors (Table 14-1) -/

/-- Fields of a descriptor. -/
def cdOp (d : List W64) : Nat := bits (dw d 0) 63 60
def cdLevel (d : List W64) : Nat := bits (dw d 0) 59 56
def cdPred (d : List W64) : Nat := bits (dw d 0) 55 53
def cdFmt (d : List W64) : Nat := bits (dw d 0) 52 49
def cdCont (d : List W64) : Bool := bit (dw d 0) 48
def cdSigen (d : List W64) : Bool := bit (dw d 0) 47
def cdSrc (d : List W64) : Nat := bits (dw d 1) 47 0
def cdDst (d : List W64) : Nat := bits (dw d 2) 47 0
def cdSrcLen (d : List W64) : Nat := bits (dw d 3) 39 0
def cdWidth (d : List W64) : Nat := bits (dw d 3) 63 48
def cdHeight (d : List W64) : Nat := bits (dw d 3) 47 32
def cdPitch (d : List W64) : Nat := bits (dw d 3) 31 0
def cdDstLen (d : List W64) : Nat := bits (dw d 4) 39 0
def cdSlot (d : List W64) : Nat := bits (dw d 6) 63 48
def cdCpl (d : List W64) : Nat := bits (dw d 6) 47 0
def cdCrc (d : List W64) : W32 := BitVec.ofNat 32 (bits (dw d 7) 63 32)
def cdDone (d : List W64) : Nat := bits (dw d 7) 31 0

/-- Bytes from the first to the last pixel of the linear image. -/
def cdLinear (d : List W64) : Nat := (cdHeight d - 1) * cdPitch d + cdWidth d * fmtSize (cdFmt d)

/-- The image of a surface descriptor. -/
def cdSurf (d : List W64) : Surf :=
  { fmt := cdFmt d, width := cdWidth d, height := cdHeight d, crc := 0, data := surfData (cdWidth d) (cdHeight d) }

/-- Blocks of a surface, the raw size of one in whole 16-byte units, and the room that a compress needs (R401). -/
def Surf.blocks (f : Surf) : Nat := f.bx * f.by_
def Surf.units (f : Surf) (b : Nat) : Nat := ceilDiv (f.bw b * f.bh b * fmtSize f.fmt) 16
def Surf.room (f : Surf) : Nat := f.data + 16 * (List.range f.blocks).foldl (fun n b => n + f.units b) 0

/-- Pixel-size code of a format: 0 to 3 for 1 to 8 bytes. -/
def sizeCode (fmt : Nat) : Nat :=
  match fmtSize fmt with
  | 1 => 0
  | 2 => 1
  | 4 => 2
  | _ => 3

/-- Whether a context of the ring's tag holds the fence slot (R289). -/
def tagGranted (s : State) (tag slot : Nat) : Bool := s.contexts.any fun c => c.2.tag == tag && granted s slot c.1

/-- Whether a descriptor is accepted; one that is not completes with status 0x06 (R395, R401, R404, R6). -/
def cdOk (s : State) (tag : Nat) (d : List W64) : Bool :=
  let stream := decide (cdOp d ≤ 1)
  decide (cdOp d ≤ 3) && decide (cdLevel d ≤ 9) && (cdOp d % 2 == 0 || cdLevel d == 0) && bits (dw d 0) 46 32 == 0
  && bits (dw d 1) 63 48 == 0 && bits (dw d 2) 63 48 == 0 && bits (dw d 4) 63 40 == 0 && cdCpl d % 32 == 0
  && (!cdSigen d || tagGranted s tag (cdSlot d))
  && (if cdCont d then stream && cdDone d != 0 else dw d 7 == 0)
  && (if stream then
        decide (cdPred d ≤ 1) && (cdPred d == 0 || (fmtLanes (cdFmt d)).isSome) && bits (dw d 3) 63 40 == 0 && cdSrcLen d != 0
      else
        decide (cdPred d ≤ 5) && (cdOp d == 2 || cdPred d != 5) && (fmtLanes (cdFmt d)).isSome
        && decide (1 ≤ cdWidth d) && decide (cdWidth d ≤ 16384) && decide (1 ≤ cdHeight d) && decide (cdHeight d ≤ 16384)
        && decide (cdWidth d * fmtSize (cdFmt d) ≤ cdPitch d)
        && decide ((if cdOp d = 2 then (cdSurf d).room else cdLinear d) ≤ cdDstLen d))

/-! ### CPR_POLL (R394) -/

/-- The ring stops: RFLT for it, the RING interrupt and a journal record. -/
def ringFault (s : State) (e r : Nat) : State :=
  let c := cprOf s e
  journal (raiseIrq (setCpr s e (putRing c r { cprRing c r with fault := true })) (pgCpr e) 1) (pgCpr e) 1 (natLe 4 r)

/-- TAIL of a ring is read, and accepted or not. -/
def readTail (s : State) (e r : Nat) : State :=
  let c := cprOf s e
  let x := cprRing c r
  if !x.on || x.fault then s
  else match rangeNat s (cprUnit e) x.tag x.base.toNat 4 with
    | .error b => cprBad s e r x.tag b
    | .ok t =>
      let tail := BitVec.ofNat 32 t
      if (tail - x.head).toNat ≤ x.size then setCpr s e (putRing c r { x with tail }) else ringFault s e r

/-- Whether a ring holds a descriptor to run. -/
def ringWork (c : Cpr) (r : Nat) : Bool := let x := cprRing c r; x.on && !x.fault && x.head != x.tail

/-- The descriptor at HEAD of a ring is fetched and checked; a refused one has its outcome at once. -/
def fetchDesc (s : State) (e r : Nat) : State :=
  let c := cprOf s e
  let x := cprRing c r
  match rangeRead s (cprUnit e) x.tag (x.base.toNat + 64 + 64 * (x.head.toNat % x.size)) 64 with
  | .error b => cprBad (setCpr s e { c with serving := r }) e r x.tag b
  | .ok bs =>
    let d := words64 bs
    setCpr s e { c with
      serving := r, desc := some d, gen := genOf s (cdSlot d)
      outcome := if cdOk s x.tag d then none else some (6, 0, 0, 0, 0) }

/-- CPR_POLL: an idle engine reads TAIL of its rings, and takes the next descriptor round-robin. -/
def execCprPoll (e : Nat) (s : State) : Out :=
  onUnit (decide (e < 4)) <|
    if (cprOf s e).desc.isSome then .next s
    else
      let s1 := (List.range 4).foldl (fun s r => readTail s e r) s
      let c := cprOf s1 e
      match ((List.range 4).map fun k => (c.serving + 1 + k) % 4).find? (ringWork c) with
      | some r => .next (fetchDesc s1 e r)
      | none => .next s1

/-! ### Running a descriptor -/

/-- What an operation in progress has done: the state, bytes in and out, the running CRC, and chunks of this descriptor. -/
structure CprRun where
  s : State
  inn : Nat
  out : Nat
  crc : W32
  chunks : Nat

/-- The result of an operation: its status, the access that failed, and what was done. -/
structure CprEnd where
  run : CprRun
  status : Nat
  bad : Option EdgeBad := none

/-- Whether the source and destination ranges of a descriptor overlap. -/
def cdOverlap (d : List W64) : Bool :=
  let n := if cdOp d ≤ 1 then cdSrcLen d else if cdOp d = 2 then cdLinear d else (cdSurf d).room
  decide (cdSrc d < cdDst d + cdDstLen d) && decide (cdDst d < cdSrc d + n)

/-- `n` bytes of an undefined output from `va`: each holds a free value. -/
def openBytes (s : State) (unit tag va n : Nat) : State :=
  match rangeWrite s unit tag va ((List.range n).map fun i => Config.openByte s.free i) with
  | .ok s1 => { s1 with free := s.free + 1 }
  | .error _ => s

/-- The outcome of an operation is kept until its completion; a fault is recorded. A check value that differs leaves the output
undefined, as does an overlap of source and destination (R395, R405). -/
def endRun (e tag : Nat) (d : List W64) (x : CprEnd) : State :=
  let s := x.run.s
  let r := (cprOf s e).serving
  let s1 := match x.bad with
    | some b => cprBad s e r tag b
    | none => if x.status = 3 then cprRecord s e r tag 4 (cdSrc d + x.run.inn) else s
  let s2 := if x.status = 2 || cdOverlap d then openBytes s1 (cprUnit e) tag (cdDst d) x.run.out else s1
  let out := if x.status = 2 then 0 else x.run.out
  let s3 := pmcEvent (pmcEvent s2 7 e 0 x.run.inn) 7 e 1 out
  setCpr s3 e { cprOf s3 e with
    outcome := some (BitVec.ofNat 8 x.status, x.run.inn, out, x.run.crc, cdDone d + x.run.chunks) }

/-- An engine whose descriptor has operation `op` and has not run yet: the descriptor runs. -/
def cprOp (op e : Nat) (run : Nat → Nat → List W64 → State → CprEnd) (s : State) : Out :=
  onUnit (decide (e < 4)) <|
    let c := cprOf s e
    match c.desc, c.outcome with
    | some d, none =>
      let tag := (cprRing c c.serving).tag
      if cdOp d = op then .next (endRun e tag d (run (cprUnit e) tag d s)) else .next s
    | _, _ => .next s

/-- The start of a run. -/
def runStart (d : List W64) (s : State) : CprRun := { s, inn := 0, out := 0, crc := cdCrc d, chunks := 0 }

/-! ### Streams (R399, R404, R405) -/

/-- Chunk by chunk: each is read, coded and written if it fits, with the header before the first and the trailer after the last. -/
def packChunks (u tag : Nat) (d : List W64) : Nat → CprRun → CprEnd
  | 0, r => { run := r, status := 0 }
  | k + 1, r =>
    let n := min chunkSize (cdSrcLen d - r.inn)
    match rangeRead r.s u tag (cdSrc d + r.inn) n with
    | .error b => { run := r, status := badStatus b, bad := some b }
    | .ok bs =>
      let crc := crcMore r.crc bs
      let head := if r.inn = 0 ∧ !cdCont d then streamHeader (cdLevel d) (cdPred d) (sizeCode (cdFmt d)) (cdSrcLen d) else []
      let tail := if r.inn + n = cdSrcLen d then natLe 4 crc.toNat else []
      let out := head ++ codeChunk (cdLevel d) (cdPred d) (sizeCode (cdFmt d)) bs ++ tail
      if r.out + out.length > cdDstLen d then { run := r, status := 1 }
      else match rangeWrite r.s u tag (cdDst d + r.out) out with
        | .error b => { run := r, status := badStatus b, bad := some b }
        | .ok s1 => packChunks u tag d k { s := s1, inn := r.inn + n, out := r.out + out.length, crc, chunks := r.chunks + 1 }

/-- COMPRESS_STREAM. -/
def execCompressStream (e : Nat) (s : State) : Out :=
  cprOp 0 e (fun u tag d s => packChunks u tag d (ceilDiv (cdSrcLen d) chunkSize) (runStart d s)) s

/-- The trailer after the last chunk: its CRC is compared. -/
def checkTrailer (u tag : Nat) (d : List W64) (r : CprRun) : CprEnd :=
  if r.inn + 4 > cdSrcLen d then { run := r, status := 3 }
  else match rangeNat r.s u tag (cdSrc d + r.inn) 4 with
    | .error b => { run := r, status := badStatus b, bad := some b }
    | .ok c => { run := { r with inn := r.inn + 4 }, status := if c = r.crc.toNat then 0 else 2 }

/-- Chunk by chunk: `left` original bytes remain, where the header told their number; else the last chunk is the one that only
the trailer follows. -/
def unpackChunks (u tag : Nat) (d : List W64) (pred size : Nat) : Nat → Option Nat → CprRun → CprEnd
  | 0, _, r => { run := r, status := 3 }
  | k + 1, left, r =>
    if left = some 0 || (left.isNone && r.chunks != 0 && r.inn + 4 == cdSrcLen d) then checkTrailer u tag d r
    else if r.inn + 4 > cdSrcLen d then { run := r, status := 3 }
    else match rangeNat r.s u tag (cdSrc d + r.inn) 4 with
      | .error b => { run := r, status := badStatus b, bad := some b }
      | .ok h =>
        let len := h % 2 ^ 17
        let last := r.inn + 4 + len + 4 == cdSrcLen d
        if r.inn + 4 + len > cdSrcLen d then { run := r, status := 3 }
        else match rangeRead r.s u tag (cdSrc d + r.inn) (4 + len) with
          | .error b => { run := r, status := badStatus b, bad := some b }
          | .ok bs =>
            let n := match left with
              | some n => min chunkSize n
              | none =>
                if !last then chunkSize
                else if h.testBit 31 then min chunkSize len
                else min chunkSize (Config.rangeLength (bs.drop 4))
            match decodeChunk pred size n bs with
            | none => { run := r, status := 3 }
            | some (took, data) =>
              if r.out + data.length > cdDstLen d then { run := r, status := 1 }
              else match rangeWrite r.s u tag (cdDst d + r.out) data with
                | .error b => { run := r, status := badStatus b, bad := some b }
                | .ok s1 => unpackChunks u tag d pred size k (left.map fun x => x - n)
                    { s := s1, inn := r.inn + took, out := r.out + data.length, crc := crcMore r.crc data, chunks := r.chunks + 1 }

/-- A stream decompress from its start, or from where a stopped one goes on. -/
def unpackStream (u tag : Nat) (d : List W64) (s : State) : CprEnd :=
  let r := runStart d s
  let fuel := cdSrcLen d / 4 + 2
  if cdCont d then unpackChunks u tag d (cdPred d) (sizeCode (cdFmt d)) fuel none r
  else if cdSrcLen d < 16 then { run := r, status := 3 }
  else match rangeRead s u tag (cdSrc d) 16 with
    | .error b => { run := r, status := badStatus b, bad := some b }
    | .ok h => match parseStream h with
      | none => { run := r, status := 3 }
      | some (pred, _, size, n) =>
        let x := unpackChunks u tag d pred size fuel (some n) { r with inn := 16 }
        if x.run.chunks = 0 && x.status != 0 then { x with run := { x.run with inn := 0 } } else x

/-- DECOMPRESS_STREAM. -/
def execDecompressStream (e : Nat) (s : State) : Out := cprOp 1 e unpackStream s

/-! ### Surfaces (R400, R401, R405) -/

/-- Address of row `y` of block `b` in the linear image at `base`, and the rows of a block read in order. -/
def blockRow (d : List W64) (f : Surf) (base b y : Nat) : Nat :=
  base + (b / f.bx * 32 + y) * cdPitch d + b % f.bx * 32 * fmtSize f.fmt
def readRows (s : State) (u tag : Nat) (d : List W64) (f : Surf) (b : Nat) : Nat → Except EdgeBad (List Byte)
  | 0 => .ok []
  | y + 1 => match readRows s u tag d f b y with
    | .error x => .error x
    | .ok bs => (rangeRead s u tag (blockRow d f (cdSrc d) b y) (f.bw b * fmtSize f.fmt)).map (bs ++ ·)

/-- The rows of a block written to the linear image. -/
def writeRows (u tag : Nat) (d : List W64) (f : Surf) (b : Nat) (bs : List Byte) : Nat → State → Except EdgeBad State
  | 0, s => .ok s
  | y + 1, s => match writeRows u tag d f b bs y s with
    | .error x => .error x
    | .ok s1 =>
      let n := f.bw b * fmtSize f.fmt
      rangeWrite s1 u tag (blockRow d f (cdDst d) b y) ((bs.drop (y * n)).take n)

/-- The pixels of an image in row-major order, from the bytes of its blocks. -/
def imageBytes (f : Surf) (blocks : List (List Byte)) : List Byte :=
  (List.range f.height).flatMap fun y => (List.range f.bx).flatMap fun bx =>
    let b := y / 32 * f.bx + bx
    let n := f.bw b * fmtSize f.fmt
    ((blocks.getD b []).drop (y % 32 * n)).take n

/-- The blocks of an image coded and written in order; `heads` collects their headers, `pix` their pixels. -/
def packBlocks (u tag : Nat) (d : List W64) (f : Surf) : Nat → Nat → List Nat → List (List Byte) → CprRun → CprEnd
  | 0, _, heads, pix, r =>
    let crc := crc32c (imageBytes f pix)
    let head := surfHeader f.fmt f.width f.height crc ++ heads.flatMap (natLe 8)
    (match rangeWrite r.s u tag (cdDst d) (head ++ List.replicate (f.data - head.length) 0) with
    | .error b => { run := r, status := badStatus b, bad := some b }
    | .ok s1 => { run := { s := s1, inn := r.inn, out := f.data + r.out, crc, chunks := 0 }, status := 0 })
  | k + 1, b, heads, pix, r =>
    match readRows r.s u tag d f b (f.bh b) with
    | .error x => { run := { r with out := 0, inn := 0 }, status := badStatus x, bad := some x }
    | .ok bs =>
      let (data, mode, pred) := codeBlock (cdLevel d) (cdPred d) f.fmt (f.bw b) bs
      match rangeWrite r.s u tag (cdDst d + f.data + r.out) data with
      | .error x => { run := { r with out := 0, inn := 0 }, status := badStatus x, bad := some x }
      | .ok s1 => packBlocks u tag d f k (b + 1)
          (heads ++ [mkBlockHeader mode pred (data.length / 16) ((f.data + r.out) / 16)]) (pix ++ [bs])
          { r with s := s1, inn := r.inn + bs.length, out := r.out + data.length }

/-- COMPRESS_SURFACE. -/
def execCompressSurface (e : Nat) (s : State) : Out :=
  cprOp 2 e (fun u tag d s => packBlocks u tag d (cdSurf d) (cdSurf d).blocks 0 [] [] (runStart d s)) s

/-- The blocks of a surface decoded in order and written to the linear image; `hdr`: the bytes before its data area. -/
def unpackBlocks (u tag : Nat) (d : List W64) (f : Surf) (hdr : List Byte) : Nat → Nat → List (List Byte) → CprRun → CprEnd
  | 0, _, pix, r =>
    let crc := crc32c (imageBytes f pix)
    { run := { r with crc }, status := if crc = f.crc then 0 else 2 }
  | k + 1, b, pix, r =>
    let h := leNat ((hdr.drop (64 + 8 * b)).take 8)
    if !blockOk h || bhOff h * 16 < f.data || bhOff h * 16 + bhLen h * 16 > f.room then { run := r, status := 3 }
    else match rangeRead r.s u tag (cdSrc d + 16 * bhOff h) (16 * bhLen h) with
      | .error x => { run := r, status := badStatus x, bad := some x }
      | .ok body =>
        let rd (a : Nat) : Byte := if a < hdr.length then hdr.getD a 0 else body.getD (a - 16 * bhOff h) 0
        match decodeBlock rd f b with
        | none => { run := r, status := 3 }
        | some bs =>
          match writeRows u tag d f b bs (f.bh b) r.s with
          | .error x => { run := r, status := badStatus x, bad := some x }
          | .ok s1 => unpackBlocks u tag d f hdr k (b + 1) (pix ++ [bs])
              { r with s := s1, inn := max r.inn (16 * bhOff h + 16 * bhLen h), out := r.out + bs.length }

/-- A surface decompress: the header must be that of the descriptor's image. -/
def unpackSurface (u tag : Nat) (d : List W64) (s : State) : CprEnd :=
  let f := cdSurf d
  let r := runStart d s
  match rangeRead s u tag (cdSrc d) f.data with
  | .error b => { run := r, status := badStatus b, bad := some b }
  | .ok hdr => match parseSurf fun a => hdr.getD a 0 with
    | none => { run := r, status := 3 }
    | some g =>
      if g.fmt = f.fmt ∧ g.width = f.width ∧ g.height = f.height then unpackBlocks u tag d g hdr g.blocks 0 [] { r with inn := f.data }
      else { run := r, status := 3 }

/-- DECOMPRESS_SURFACE. -/
def execDecompressSurface (e : Nat) (s : State) : Out := cprOp 3 e unpackSurface s

/-! ### Completion (R403) -/

/-- The 32 bytes of a completion record. -/
def cprRecordBytes (d : List W64) (status : BitVec 8) (inn out : Nat) (crc : W32) (chunks : Nat) : List Byte :=
  natLe 4 (bits (dw d 0) 31 0) ++ [status, 0, 0, 0] ++ natLe 8 inn ++ natLe 8 out ++ natLe 4 crc.toNat ++ natLe 4 chunks

/-- The fence outcome of a status: SVAL for 0x00, none for 0x01, ERROR for the others (Table 14-6, R550). -/
def cprFence (s : State) (tag : Nat) (gen : BitVec 16) (d : List W64) (status : BitVec 8) : State :=
  if !cdSigen d || status == 1 || !tagGranted s tag (cdSlot d) || genOf s (cdSlot d) != gen then s
  else if status = 0 then (signalFence s (cdSlot d) (dw d 5) true).1
  else fenceError s (cdSlot d)

/-- A write by an engine that may fail: a failure is recorded and nothing is written. -/
def cprWrite (s : State) (e r tag va : Nat) (bs : List Byte) : State :=
  match rangeWrite s (cprUnit e) tag va bs with
  | .ok s1 => s1
  | .error b => cprBad s e r tag b

/-- CPR_COMPLETE: the record, the fence, then HEAD. -/
def execCprComplete (e : Nat) (s : State) : Out :=
  onUnit (decide (e < 4)) <|
    let c := cprOf s e
    match c.desc, c.outcome with
    | some d, some (st, inn, out, crc, chunks) =>
      let x := cprRing c c.serving
      let s1 := if cdCpl d % 32 = 0 then cprWrite s e c.serving x.tag (cdCpl d) (cprRecordBytes d st inn out crc chunks) else s
      let s2 := settleWaits (cprFence s1 x.tag c.gen d st)
      let s3 := cprWrite s2 e c.serving x.tag (x.base.toNat + 8) (natLe 4 (x.head + 1).toNat)
      let c3 := cprOf s3 e
      .next (rcount (setCpr s3 e (putRing { c3 with desc := none, outcome := none } c3.serving { cprRing c3 c3.serving with head := x.head + 1 }))
        (pgCpr e) 0x118)
    | _, _ => .next s

end Sys2Proof.Machine
end

