-- ==== Sys2Proof/Machine/Hub.lean ====
section
/-! DEFINITION. The Hub command queues and the commands of contexts, queues, memory, fences, events, windows and virtual
functions (R277-R280, R289-R304, R551, R554-R556, Tables 10-7 and 10-15). -/
namespace Sys2Proof.Machine

/-! ### The queue (R302, R303, R554) -/

/-- Operation codes of Table 10-15. -/
def hubOps : List Nat :=
  [1, 2, 3, 4, 5, 6, 7, 8, 9, 0xA, 0xB, 0xC, 0xD, 0xE, 0xF, 0x10, 0x11, 0x12, 0x13, 0x14, 0x15, 0x16, 0x17, 0x18,
   0x20, 0x21, 0x22, 0x30, 0x31, 0x32, 0x33, 0x34, 0x40, 0x41]

/-- What Fragan answers to a command: a refusal, one for which a free value was taken, a change with its results, or a change whose reply comes later. -/
inductive HubAns where
  | refuse (status : Nat)
  | refuseIn (s : State) (status : Nat)
  | done (s : State) (results : List W64)
  | later (s : State)

/-- A reply of four words joins a function's unread replies (R302). -/
def pushReply (s : State) (vi : Nat) (req : W32) (status : Nat) (results : List W64) : State :=
  viUpd s vi fun x => { x with
    replies := x.replies ++ [[BitVec.ofNat 64 (req.toNat + status * 2 ^ 32), results.getD 0 0, results.getD 1 0, results.getD 2 0]] }

/-- REQ of a command. -/
def cmdReq (w : List W64) : W32 := BitVec.ofNat 32 (bits (w.getD 0 0) 31 0)

/-- The mask of a field. -/
def fm (hi lo : Nat) : Nat := 2 ^ (hi + 1) - 2 ^ lo

/-- No bit is set outside the named fields of words 1-7, nor in bits [55:32] of word 0 (R554). -/
def fieldsOk (masks : List Nat) (w : List W64) : Bool :=
  bits (w.getD 0 0) 55 32 == 0
  && (List.range 7).all fun i => (w.getD (i + 1) 0 &&& ~~~ BitVec.ofNat 64 (masks.getD i 0)) == 0

/-- Fragan performs the front command of a function's queue when it is of this operation code. An operation code listed nowhere is
refused by whatever step meets it. In minimal mode only FW_STAGE and DEV_RESET are accepted (R483); a command marked PF is for the
physical function (R304). Nothing is performed while 16 replies are unread, or while the function's reset runs (R303, R556). -/
def hubRun (op : Nat) (pf : Bool) (masks : List Nat) (body : State → Nat → List W64 → HubAns) (vi : Nat) (s : State) : Out :=
  onUnit (decide (vi < 64)) <|
    let v := viOf s vi
    match v.cmds with
    | [] => .next s
    | w :: rest =>
      let o := bits (w.getD 0 0) 63 56
      let s0 := viUpd s vi fun x => { x with cmds := rest }
      let answer (st : Nat) : Out := .next (pushReply s0 vi (cmdReq w) st [])
      if v.resetBusy || v.disabled || decide (16 ≤ v.replies.length) then .next s
      else if s.boot.minimal && o != 0x30 && o != 0x33 then answer 3
      else if !hubOps.contains o then answer 2
      else if o ≠ op then .next s
      else if pf && vi != 0 then answer 3
      else if !fieldsOk masks w then answer 2
      else match body s0 vi w with
        | .refuse st => answer st
        | .refuseIn s1 st => .next (pushReply s1 vi (cmdReq w) st [])
        | .done s1 rs => .next (pushReply s1 vi (cmdReq w) 0 rs)
        | .later s1 => .next s1

/-- Field [hi:lo] of word `i` of a command. -/
def arg (w : List W64) (i hi lo : Nat) : Nat := bits (w.getD i 0) hi lo

/-- The refusal of an object that does not exist, or that belongs to another function (R554); 0 for none. -/
def ownErr (vi : Nat) (owner : Option Nat) : Nat :=
  match owner with
  | none => 2
  | some o => if vi = 0 ∨ o = vi then 0 else 3

/-- The function that a context, queue or semaphore belongs to. -/
def ctxVi (s : State) (c : Nat) : Option Nat := (ctxOf s c).map (·.vi)
def queueVi (s : State) (q : Nat) : Option Nat := (tfind s.queues q).bind fun x => ctxVi s x.ctx
def semaVi (s : State) (n : Nat) : Option Nat := (tfind s.semas n).bind fun x => ctxVi s x.ctx

/-- The rest of a command once the context it names is found. -/
def withCtx (s : State) (vi ctx : Nat) (f : Context → HubAns) : HubAns :=
  match ctxOf s ctx with
  | none => .refuse 2
  | some c => if vi = 0 ∨ c.vi = vi then f c else .refuse 3

/-! ### Pages (R279) -/

/-- Whether every page from `a` up to `end_` is granted to a function. -/
def coveredBy (gs : List Grant) (vi : Nat) : Nat → Nat → Nat → Bool
  | 0, a, end_ => decide (end_ ≤ a)
  | fuel + 1, a, end_ =>
    if end_ ≤ a then true
    else match gs.find? fun g => g.vi == vi && decide (g.first ≤ a) && decide (a < g.first + g.count) with
      | some g => coveredBy gs vi fuel (g.first + g.count) end_
      | none => false
def pagesGranted (s : State) (vi first count : Nat) : Bool := coveredBy s.grants vi s.grants.length first (first + count)

/-- Whether two runs share a page. -/
def runsMeet (a n b m : Nat) : Bool := decide (a < b + m) && decide (b < a + n)

/-- Whether a leaf reached from a table of a level names a page that satisfies `f` (first page, pages). -/
def tableNames (s : State) (f : Nat → Nat → Bool) : Nat → Nat → Bool
  | 0, table => (List.range 512).any fun i =>
    let e : W64 := BitVec.ofNat 64 (memNat s (table + 8 * i) 8)
    pteV e && pteLeaf e && f (ptePage e) (levelPages 0)
  | level + 1, table => (List.range 512).any fun i =>
    let e : W64 := BitVec.ofNat 64 (memNat s (table + 8 * i) 8)
    pteV e && (if pteLeaf e then f (ptePage e) (levelPages (level + 1)) else tableNames s f level (ptePage e * 0x1000))

/-- Tags in use. -/
def tagsInUse (s : State) : List Nat := (s.ctxTab.filter fun e => ctV e.2).map (·.1)

/-- Valid range entries of a tag whose pages satisfy `f`: their indices. -/
def entriesWhere (s : State) (tag : Nat) (f : Nat → Nat → Bool) : List Nat :=
  (List.range 64).filter fun i =>
    let (w0, w1) := rangeAt s (ctRtb (ctxEntry s tag)) i
    reV w1 && f (rePpn w1) (reLen w0)

/-- Whether an entry of a tag covers the ring of a live queue (R280). -/
def coversRing (s : State) (tag i : Nat) : Bool :=
  let (w0, w1) := rangeAt s (ctRtb (ctxEntry s tag)) i
  s.queues.any fun q => tagOf s q.2.ctx == tag && rangeHits w0 w1 q.2.ring

/-- A range entry is removed. -/
def clearEntry (s : State) (tag i : Nat) : State := storeAt s (ctRtb (ctxEntry s tag) + 16 * i) (List.replicate 16 0)

/-- The entries of every tag that satisfy `f` are removed whole, and each tag concerned is invalidated. -/
def removeEntries (s : State) (f : Nat → Nat → Bool) : State :=
  (tagsInUse s).foldl (fun s t =>
    match entriesWhere s t f with
    | [] => s
    | is => invalidateTag (is.foldl (fun s i => clearEntry s t i) s) t) s

/-- GRANT: a page bound to another function is refused, with status 0x04 while that one's reset runs (R301); so is a reserved one.
A run that leaves HBM is an invalid argument. -/
def grantBody (s : State) (_ : Nat) (w : List W64) : HubAns :=
  let vi := arg w 1 5 0
  let a := arg w 2 33 0
  let n := arg w 3 33 0
  match s.grants.find? fun g => g.vi != vi && runsMeet a n g.first g.count with
  | some g => if n = 0 then .refuse 2 else .refuse (if (viOf s g.vi).resetBusy then 4 else 3)
  | none =>
    if n = 0 || !inHbm (a * 0x1000) (n * 0x1000) then .refuse 2
    else if touchesReserved s (a * 0x1000) (n * 0x1000) then .refuse 3
    else .done { s with grants := s.grants ++ [{ first := a, count := n, vi }] } []
def execGrant : Nat → State → Out := hubRun 5 true [fm 5 0, fm 33 0, fm 33 0] grantBody

/-- A run removed from a grant: what is left before it and behind it. -/
def cutGrant (a n : Nat) (g : Grant) : List Grant :=
  if !runsMeet a n g.first g.count then [g]
  else (if g.first < a then [{ g with count := a - g.first }] else [])
    ++ (if a + n < g.first + g.count then [{ g with first := a + n, count := g.first + g.count - (a + n) }] else [])

/-- REVOKE: refused with status 0x04 while a leaf of a tag in use names a page of the run, or an entry that does covers a live
ring; else those entries go, their tags are invalidated, and the pages are free (R279). -/
def revokeBody (s : State) (_ : Nat) (w : List W64) : HubAns :=
  let a := arg w 1 33 0
  let n := arg w 2 33 0
  let f := runsMeet a n
  if n = 0 then .refuse 2
  else if (tagsInUse s).any fun t =>
      tableNames s f 3 (ctRoot (ctxEntry s t)) || (entriesWhere s t f).any (coversRing s t) then .refuse 4
  else
    let s1 := removeEntries s f
    .done { s1 with grants := s1.grants.flatMap (cutGrant a n) } []
def execRevoke : Nat → State → Out := hubRun 6 true [fm 33 0, fm 33 0] revokeBody

/-! ### Contexts (R251, R252, R277, R298) -/

/-- CTX_CREATE -/
def ctxCreateBody (s : State) (vi : Nat) (w : List W64) : HubAns :=
  let i := arg w 1 2 0
  let share : Bool := arg w 2 12 12 == 1
  let other := arg w 2 11 0
  let root := arg w 3 45 12 * 0x1000
  let ctx := lowestFree 4096 fun n => (tfind s.contexts n).isSome
  if !bit (viOf s vi).parts i then .refuse 3
  else if (tfind s.parts i).isNone then .refuse 2
  else if share then
    match ctxOf s other with
    | none => .refuse 2
    | some c =>
      if c.vi ≠ vi then .refuse 3
      else if c.part ≠ i then .refuse 2
      else match ctx with
        | none => .refuse 1
        | some n => .done { s with contexts := tput s.contexts n { vi, part := i, tag := c.tag } }
            [BitVec.ofNat 64 n, BitVec.ofNat 64 c.tag]
  else if !pagesGranted s vi (root / 0x1000) 1 || touchesReserved s root 0x1000 then .refuse 3
  else match ctx, lowestFree 4096 (tagBusy s) with
    | some n, some tag => .done (newContext s n tag vi i root) [BitVec.ofNat 64 n, BitVec.ofNat 64 tag]
    | _, _ => .refuse 1
def execCtxCreate : Nat → State → Out := hubRun 1 false [fm 2 0, fm 12 0, fm 45 12] ctxCreateBody

/-- CTX_DESTROY: the sequence of process death (R298). -/
def ctxDestroyBody (s : State) (vi : Nat) (w : List W64) : HubAns :=
  withCtx s vi (arg w 1 11 0) fun _ => .done (killContext s (arg w 1 11 0) false false) []
def execCtxDestroy : Nat → State → Out := hubRun 2 false [fm 11 0] ctxDestroyBody

/-- The contexts that a KILL names: twelve fields of 16 bits, 0xFFFF for none. -/
def killNames (w : List W64) : List Nat :=
  (([1, 2, 3].flatMap fun i => [0, 1, 2, 3].map fun k => arg w i (16 * k + 15) (16 * k))).filter (· != 0xFFFF)

/-- KILL: every context named is checked first (R304: a refusal changes nothing). All are DYING before the first is taken down. -/
def killBody (s : State) (vi : Nat) (w : List W64) : HubAns :=
  match (killNames w).map (fun n => ownErr vi (ctxVi s n)) |>.find? (· != 0) with
  | some st => .refuse st
  | none =>
    let dying := { s with contexts := s.contexts.map fun c =>
      (c.1, if (killNames w).contains c.1 then { c.2 with state := CtxState.dying } else c.2) }
    .done ((killNames w).foldl (fun s n => killContext s n false false) dying) []
def execKill : Nat → State → Out := hubRun 0x15 false [fm 63 0, fm 63 0, fm 63 0] killBody

/-! ### Queues (R280, R505, R551) -/

/-- QUEUE_CREATE: the ring must be aligned to its size and covered by one range entry with R; the vector must be one the function
holds (R280, R555). -/
def queueCreateBody (s : State) (vi : Nat) (w : List W64) : HubAns :=
  let ctx := arg w 1 11 0
  let ring := arg w 2 47 0
  let l := arg w 3 4 0
  withCtx s vi ctx fun c =>
    if l < 4 || l > 16 || ring % (64 * 2 ^ l) != 0 || decide ((viOf s c.vi).vectors ≤ arg w 5 5 0) then .refuse 2
    else match rangeCovers s c.tag ring (64 * 2 ^ l) false with
      | none => .refuse 2
      | some pa => match lowestFree 1024 fun n => (tfind s.queues n).isSome with
        | none => .refuse 1
        | some n => .done (newQueue s n { ctx, log2 := l, prio := arg w 4 2 0, vector := arg w 5 5 0, ring, ringPa := pa }) [BitVec.ofNat 64 n]
def execQueueCreate : Nat → State → Out := hubRun 3 false [fm 11 0, fm 47 0, fm 4 0, fm 2 0, fm 5 0] queueCreateBody

/-- QUEUE_DESTROY: refused while a job of the queue runs (R551). -/
def queueDestroyBody (s : State) (vi : Nat) (w : List W64) : HubAns :=
  let q := arg w 1 9 0
  match ownErr vi (queueVi s q) with
  | 0 => if s.jobs.any fun j => j.2.queue == q && !jobWaiting j.2 then .refuse 4 else .done (destroyQueue s q) []
  | st => .refuse st
def execQueueDestroy : Nat → State → Out := hubRun 4 false [fm 9 0] queueDestroyBody

/-! ### Range entries (R257, R258, R263) -/

/-- The refusal of a new range entry, the first case that holds (R257); 0 for none. -/
def mapErr (s : State) (c : Context) (w0 w1 : W64) : Nat :=
  let tab := (List.range 64).map fun i => rangeAt s (ctRtb (ctxEntry s c.tag)) i
  let live := tab.filter fun e => reV e.2
  let vpn := reVpn w0
  let n := reLen w0
  let pa := rePpn w1 * 0x1000
  let len := n * 0x1000
  if live.length = 64 then 1
  else if live.any fun e => runsMeet vpn n (reVpn e.1) (reLen e.1) then 2
  else if !reV w1 then 2
  else if n = 0 || decide (2 ^ 36 < vpn + n) then 2
  else if (!reR w1 && !reW w1) || bits w1 63 40 != 0 || bits w1 35 34 != 0 then 2
  else if (inHbm pa len && pagesGranted s c.vi (rePpn w1) n && !touchesReserved s pa len) || inHost c.vi pa len || inSpoke s c.part pa len then 0
  else 3

/-- MAP_RANGE: the entry goes to the lowest place whose V is 0. -/
def mapRangeBody (s : State) (vi : Nat) (w : List W64) : HubAns :=
  withCtx s vi (arg w 1 11 0) fun c =>
    let w0 := w.getD 2 0
    let w1 := w.getD 3 0
    let rtb := ctRtb (ctxEntry s c.tag)
    match mapErr s c w0 w1, lowestFree 64 fun i => reV (rangeAt s rtb i).2 with
    | 0, some i => .done (storeAt s (rtb + 16 * i) (natLe 8 w0.toNat ++ natLe 8 w1.toNat)) [BitVec.ofNat 64 i]
    | 0, none => .refuse 1
    | st, _ => .refuse st
def execMapRange : Nat → State → Out := hubRun 7 false [fm 11 0, fm 63 0, fm 63 0] mapRangeBody

/-- UNMAP_RANGE: an entry that is not valid is no argument; one that covers a live ring stays (R280). -/
def unmapRangeBody (s : State) (vi : Nat) (w : List W64) : HubAns :=
  withCtx s vi (arg w 1 11 0) fun c =>
    let i := arg w 2 5 0
    if !reV (rangeAt s (ctRtb (ctxEntry s c.tag)) i).2 then .refuse 2
    else if coversRing s c.tag i then .refuse 4
    else .done (invalidateTag (clearEntry s c.tag i) c.tag) []
def execUnmapRange : Nat → State → Out := hubRun 8 false [fm 11 0, fm 5 0] unmapRangeBody

/-- INVALIDATE -/
def invalidateBody (s : State) (vi : Nat) (w : List W64) : HubAns :=
  withCtx s vi (arg w 1 11 0) fun c => .done (invalidateTag s c.tag) []
def execInvalidate : Nat → State → Out := hubRun 9 false [fm 11 0] invalidateBody

/-! ### Fences (R289-R293) -/

/-- Fence slots. -/
def fenceSlots : Nat := 65536
def freeFence (s : State) : Option Nat := lowestFree fenceSlots fun n => (tfind s.fences n).isSome

/-- FENCE_ALLOC -/
def fenceAllocBody (s : State) (vi : Nat) (w : List W64) : HubAns :=
  let ctx := arg w 1 11 0
  withCtx s vi ctx fun _ =>
    match freeFence s with
    | none => .refuse 1
    | some n => .done { s with fences := tput s.fences n { owner := ctx, value := w.getD 2 0 } }
        [BitVec.ofNat 64 n, BitVec.ofNat 64 (genOf s n).toNat]
def execFenceAlloc : Nat → State → Out := hubRun 0xA false [fm 11 0, fm 63 0] fenceAllocBody

/-- Whether a context owns a slot. -/
def ownsFence (f : Fence) (ctx : Nat) : Bool := f.owner == ctx && f.home.isNone && !f.ownerGone

/-- FENCE_FREE: the owner frees the slot, or abandons it while importers remain; an importer drops its grant (R292). -/
def fenceFreeBody (s : State) (vi : Nat) (w : List W64) : HubAns :=
  let ctx := arg w 1 11 0
  let n := arg w 2 15 0
  withCtx s vi ctx fun _ =>
    match tfind s.fences n with
    | none => .refuse 2
    | some f =>
      if ownsFence f ctx then
        if hasImporters f then
          .done (fenceAbandon { s with fences := tput s.fences n { f with ownerGone := true } } n) []
        else .done (fenceFreeSlot s n) []
      else if f.grants.contains ctx then .done (dropGrant s n ctx) []
      else .refuse 3
def execFenceFree : Nat → State → Out := hubRun 0xB false [fm 11 0, fm 15 0] fenceFreeBody

/-- A slot's owner commands: the refusal, 0 for none. -/
def fenceOwnErr (s : State) (vi n : Nat) : Nat :=
  match tfind s.fences n with
  | none => 2
  | some f => if f.home.isSome || f.ownerGone then 3 else ownErr vi (some ((ctxVi s f.owner).getD 64))

/-- FENCE_EXPORT: the handle holds the home device, the generation and the slot (R292). -/
def fenceExportBody (s : State) (vi : Nat) (w : List W64) : HubAns :=
  let n := arg w 1 15 0
  let dev : Bool := arg w 2 63 63 == 1
  let t := arg w 2 5 0
  if dev && decide (16 ≤ t) then .refuse 2
  else match fenceOwnErr s vi n, tfind s.fences n with
    | 0, some f =>
      .done { s with fences := tput s.fences n { f with exportedTo := f.exportedTo ++ [(dev, t)] } }
        [BitVec.ofNat 64 (ownId s * 2 ^ 32 + (genOf s n).toNat * 2 ^ 16 + n)]
    | 0, none => .refuse 2
    | st, _ => .refuse st
def execFenceExport : Nat → State → Out := hubRun 0xC false [fm 15 0, 2 ^ 63 + fm 5 0] fenceExportBody

/-- A grant of a slot to a context. -/
def addGrant (f : Fence) (ctx : Nat) : Fence := { f with grants := if f.grants.contains ctx then f.grants else f.grants ++ [ctx] }

/-- The proxy of a home slot, if this device holds one. -/
def proxyOf (s : State) (dev slot : Nat) : Option Nat := (s.fences.find? fun f => f.2.home == some (dev, slot)).map (·.1)

/-- FENCE_IMPORT: of this device's own slot, or through a proxy of a peer's; whether the peer's home accepts the handle, and with
what value, is the home's matter (R292, R293). -/
def fenceImportBody (s : State) (vi : Nat) (w : List W64) : HubAns :=
  let ctx := arg w 1 11 0
  let dev := arg w 2 35 32
  let gen : BitVec 16 := BitVec.ofNat 16 (arg w 2 31 16)
  let n := arg w 2 15 0
  withCtx s vi ctx fun c =>
    if dev = ownId s then
      match tfind s.fences n with
      | none => .refuse 2
      | some f =>
        if genOf s n ≠ gen || f.home.isSome then .refuse 2
        else if !f.exportedTo.contains (false, c.vi) then .refuse 3
        else .done { s with fences := tput s.fences n (addGrant f ctx) } [BitVec.ofNat 64 n]
    else
      let s1 := { s with free := s.free + 1 }
      if !Config.importOk s.free then .refuseIn s1 2
      else match proxyOf s dev n with
        | some k => match tfind s.fences k with
          | some f => .done { s1 with fences := tput s1.fences k (addGrant f ctx) } [BitVec.ofNat 64 k]
          | none => .refuse 2
        | none => match freeFence s with
          | none => .refuse 1
          | some k =>
            let f : Fence :=
              { owner := ctx, value := Config.importValue s.free, state := Config.importState s.free, grants := [ctx], home := some (dev, n) }
            .done { s1 with fences := tput s1.fences k f } [BitVec.ofNat 64 k]
def execFenceImport : Nat → State → Out := hubRun 0xD false [fm 11 0, fm 35 0] fenceImportBody

/-- FENCE_RESET: from VALUE or ERROR, to a value not below the current one (R290). -/
def fenceResetBody (s : State) (vi : Nat) (w : List W64) : HubAns :=
  let n := arg w 1 15 0
  match fenceOwnErr s vi n, tfind s.fences n with
  | 0, some f =>
    if f.state = fsExhausted || f.state = fsAbandoned || decide ((w.getD 2 0).toNat < f.value.toNat) then .refuse 2
    else .done (setFence s n { f with value := w.getD 2 0, state := fsValue }) []
  | 0, none => .refuse 2
  | st, _ => .refuse st
def execFenceReset : Nat → State → Out := hubRun 0xE false [fm 15 0, fm 63 0] fenceResetBody

/-- EVENT_ARM (R295): an arm whose condition already holds fires at once. -/
def eventArmBody (s : State) (vi : Nat) (w : List W64) : HubAns :=
  let n := arg w 1 15 0
  let onState : Bool := arg w 3 63 63 == 1
  let value : W64 := if onState then BitVec.ofNat 64 (arg w 3 1 0) else w.getD 2 0
  if (onState && w.getD 2 0 != 0) || (!onState && arg w 3 1 0 != 0) then .refuse 2
  else if (tfind s.fences n).isNone || decide ((viOf s vi).vectors ≤ arg w 4 5 0) then .refuse 2
  else if vi != 0 && !(s.contexts.any fun c => c.2.vi == vi && granted s n c.1) then .refuse 3
  else if decide (4096 ≤ s.arms.length) then .refuse 1
  else .done (fireArms { s with arms := s.arms ++ [{ slot := n, onState, value, vi, vector := arg w 4 5 0 }] } n) []
def execEventArm : Nat → State → Out := hubRun 0xF false [fm 15 0, fm 63 0, 2 ^ 63 + fm 1 0, fm 5 0] eventArmBody

/-- What a Tandem peer's message does to a home slot or a proxy (R291-R293, R424): a signal takes effect at the home; a change
reaches the proxy; the home's reply ends the FSIG that waits for it; an import adds the device that now holds a proxy, and a
dropped proxy takes it away. -/
def fenceMessage (s : State) (u : FenceMsg) : State :=
  match u with
  | .signal n v gen =>
    match tfind s.fences n with
    | some f => if f.home.isNone && genOf s n == gen then (signalFence s n v false).1 else s
    | none => s
  | .update n v st =>
    match tfind s.fences n with
    | some f => if f.home.isSome && f.state != fsAbandoned then setFence s n { f with value := v, state := st } else s
    | none => s
  | .reply n v st =>
    let waits (g : Group) : Bool := match g.block with | .fsig k x _ => k == n && x == v | _ => false
    match s.cores.findSome? fun c => (c.2.groups.find? fun g => waits g.2).map fun g => (c.1, g.1) with
    | some (p, g) => updGroup s p g fun gr => match gr.block with | .fsig _ _ rd => resumeGroup gr rd st | _ => gr
    | none => s
  | .attach dev n gen =>
    match tfind s.fences n with
    | some f =>
      if f.home.isNone && genOf s n == gen && f.exportedTo.contains (true, dev) && !f.proxies.contains dev then
        { s with fences := tput s.fences n { f with proxies := f.proxies ++ [dev] } }
      else s
    | none => s
  | .detach dev n =>
    match tfind s.fences n with
    | some f =>
      let f1 := { f with proxies := f.proxies.filter (· != dev) }
      if f.home.isSome || !f.proxies.contains dev then s
      else if f1.ownerGone && !hasImporters f1 then fenceFreeSlot s n
      else { s with fences := tput s.fences n f1 }
    | none => s

/-- FENCE_UPDATE -/
def execFenceUpdate (u : FenceMsg) (s : State) : Out := .next (fenceMessage s u)

/-! ### Semaphores (R184, R304) -/

/-- SEMA_ALLOC -/
def semaAllocBody (s : State) (vi : Nat) (w : List W64) : HubAns :=
  let ctx := arg w 1 11 0
  let short : Bool := arg w 2 0 0 == 1
  withCtx s vi ctx fun _ =>
    match lowestFree 256 fun n => (tfind s.semas n).isSome with
    | none => .refuse 1
    | some n => .done { s with semas := tput s.semas n { ctx, short, shortNow := short } } [BitVec.ofNat 64 n]
def execSemaAlloc : Nat → State → Out := hubRun 0x10 false [fm 11 0, fm 0 0] semaAllocBody

/-- SEMA_FREE: refused while held. -/
def semaFreeBody (s : State) (vi : Nat) (w : List W64) : HubAns :=
  let n := arg w 1 7 0
  match ownErr vi (semaVi s n), tfind s.semas n with
  | 0, some x => if x.holder.isSome then .refuse 4 else .done { s with semas := tdel s.semas n } []
  | 0, none => .refuse 2
  | st, _ => .refuse st
def execSemaFree : Nat → State → Out := hubRun 0x11 false [fm 7 0] semaFreeBody

/-! ### Advice (R272) -/

/-- The parts of an advised range outside a run, each with the kept leaves that lie in it. -/
def cutAdvice (vpn n : Nat) (a : Advice) : List Advice :=
  let left := if a.first < vpn then
      [{ a with count := vpn - a.first, kept := a.kept.filter fun k => decide (k.1 < vpn) }] else []
  let right := if vpn + n < a.first + a.count then
      [{ a with first := vpn + n, count := a.first + a.count - (vpn + n), kept := a.kept.filter fun k => decide (vpn + n ≤ k.1) }] else []
  if runsMeet vpn n a.first a.count then left ++ right else [a]

/-- A kept host page comes back: its leaf names it with W, and the HBM page returns to the pool. -/
def restoreKept (s : State) (tag : Nat) (k : Nat × Nat × Nat × Nat) : State :=
  let e : W64 := BitVec.ofNat 64 (memNat s k.2.1 8)
  let s1 := putPte s k.2.1 (putBits (putBits e 45 12 k.2.2.1) 4 4 1)
  { s1 with pools := s1.pools ++ [(tag, false, ptePage e, k.2.2.2)] }

/-- ADVISE: advice of the kind over the range is replaced or cleared; more than 64 ranges of a tag are refused; clearing
read-mostly restores the host leaves. -/
def adviseBody (s : State) (vi : Nat) (w : List W64) : HubAns :=
  let start := arg w 2 47 0
  let len := arg w 3 47 0
  let kind := arg w 4 1 0
  let clear : Bool := arg w 4 8 8 == 1
  let value := arg w 5 4 0
  let valueOk := match kind with
    | 0 => decide (value < 2)
    | 1 => value == 0
    | _ => decide (value ≤ 16)
  withCtx s vi (arg w 1 11 0) fun c =>
    if kind = 3 || !valueOk || start % 0x1000 != 0 || len % 0x1000 != 0 || len == 0 || decide (2 ^ 48 < start + len) then .refuse 2
    else
      let vpn := start / 0x1000
      let n := len / 0x1000
      let same (a : Advice) : Bool := a.tag == c.tag && a.kind == kind
      let kept := (s.advice.filter same).flatMap fun a => a.kept.filter fun k => decide (vpn ≤ k.1) && decide (k.1 < vpn + n)
      let rest := s.advice.flatMap fun a => if same a then cutAdvice vpn n a else [a]
      let new := if clear then rest else rest ++ [{ tag := c.tag, first := vpn, count := n, kind, value, kept }]
      if decide (64 < (new.filter fun a => a.tag == c.tag).length) then .refuse 1
      else
        let s1 := { s with advice := new }
        if clear && !kept.isEmpty then .done (invalidateTag (kept.foldl (fun s k => restoreKept s c.tag k) s1) c.tag) []
        else .done s1 []
def execAdvise : Nat → State → Out := hubRun 0x12 false [fm 11 0, fm 47 0, fm 47 0, fm 8 8 + fm 1 0, fm 4 0] adviseBody

/-! ### Spoke windows (R265, R267) -/

/-- Whether a device can be reached: its route link is UP (R421). -/
def reachable (s : State) (dev : Nat) : Bool :=
  match routeOf s dev with
  | some n => (linkOf s n).state == lkUp
  | none => false

/-- WINDOW_OPEN: a free entry here and a free inbound entry at the peer, which names it; refused once the random generator has failed
(R487). -/
def windowOpenBody (s : State) (vi : Nat) (w : List W64) : HubAns :=
  let i := arg w 1 2 0
  let peer := arg w 2 3 0
  let len := arg w 3 19 0
  if s.boot.rngFailed || !bit (viOf s vi).parts i then .refuse 3
  else if (tfind s.parts i).isNone || len = 0 || decide (0x80000 < len) || !reachable s peer then .refuse 2
  else match lowestFree 16 (fun k => bit (owin s k) 31), Config.peerWindow s.free with
    | some k, some r =>
      let v := 2 ^ 31 + i * 2 ^ 28 + peer * 2 ^ 8 + r % 16
      .done (rset { s with free := s.free + 1, winOwner := tput s.winOwner k vi } 0x42 (0x100 + 4 * k) (BitVec.ofNat 32 v)) [BitVec.ofNat 64 k]
    | some _, none => .refuseIn { s with free := s.free + 1 } 1
    | none, _ => .refuse 1
def execWindowOpen : Nat → State → Out := hubRun 0x13 false [fm 2 0, fm 3 0, fm 19 0] windowOpenBody

/-- WINDOW_CLOSE: the range entries that name the window go and their tags are invalidated; then the entry is cleared. -/
def windowCloseBody (s : State) (vi : Nat) (w : List W64) : HubAns :=
  let k := arg w 1 3 0
  let owner := if bit (owin s k) 31 then some ((tfind s.winOwner k).getD 0) else none
  match ownErr vi owner with
  | 0 =>
    let s1 := removeEntries s (runsMeet ((spokeBase + k * spokeSize) / 0x1000) (spokeSize / 0x1000))
    .done (rset { s1 with winOwner := tdel s1.winOwner k } 0x42 (0x100 + 4 * k) 0) []
  | st => .refuse st
def execWindowClose : Nat → State → Out := hubRun 0x14 false [fm 3 0] windowCloseBody

/-! ### Virtual functions (R300, R301, R555, R556) -/

/-- Contexts of a function. -/
def ctxsOfVi (s : State) (vi : Nat) : List Nat := (s.contexts.filter fun c => c.2.vi == vi).map (·.1)

/-- VI_CONFIG -/
def viConfigBody (s : State) (_ : Nat) (w : List W64) : HubAns :=
  let t := arg w 1 5 0
  let v := arg w 3 6 0
  let total := (List.range 64).foldl (fun n i => n + (if i = t then v else (viOf s i).vectors)) 0
  if arg w 4 15 0 = 0 then .refuse 2
  else if decide (64 < v) || decide (4096 < total) then .refuse 1
  else .done (viUpd s t fun x => { x with parts := BitVec.ofNat 8 (arg w 2 7 0), vectors := v, drain := arg w 4 15 0 }) []
def execViConfig : Nat → State → Out := hubRun 0x16 true [fm 5 0, fm 7 0, fm 6 0, fm 15 0] viConfigBody

/-- A disable or a reset of a function discards its waiting commands and its unread replies (R556). -/
def flushVi (s : State) (t : Nat) : State :=
  { viUpd s t (fun x => { x with cmds := [], replies := [] }) with mbx := tdel s.mbx (pgVi t) }

/-- Jobs of a function that satisfy `f`. -/
def viJobs (s : State) (t : Nat) (f : Job → Bool) : List Nat := jobsWhere s fun x => ctxVi s x.ctx == some t && f x

/-- The drain has ended: jobs still running are killed, every context of the function is taken down with all its fences abandoned,
and its pages stop responding; the VI_DISABLE replies. -/
def endDrain (s : State) (t : Nat) : State :=
  let s1 := (ctxsOfVi s t).foldl (fun s c => killContext s c true true) s
  let req := (viOf s1 t).disableReq
  let s2 := viUpd (flushVi s1 t) t fun x => { x with draining := false, disabled := true, disableReq := none }
  match req with
  | some (vi, r) => pushReply s2 vi r 0 []
  | none => s2

/-- VI_DISABLE of a function: its contexts are DYING, its packets not started complete with status 0x04, and its running jobs drain;
with none running the drain ends at once. `req`: the function and REQ to be answered. -/
def disableVi (s : State) (t : Nat) (req : Option (Nat × W32)) : State :=
  let s1 := flushVi { s with contexts := s.contexts.map fun c =>
    (c.1, if c.2.vi = t then { c.2 with state := CtxState.dying } else c.2) } t
  let s2 := (ctxsOfVi s1 t).foldl (fun s c => (queuesOf s c).foldl disarmOn (stopEdges s (tagOf s c))) s1
  let s3 := (viJobs s2 t jobWaiting).foldl (fun s j => completeJob (endJob s j 4 0) j) s2
  let s4 := viUpd s3 t fun x => { x with draining := true, drainAt := s.now + x.drain * 100000, disableReq := req }
  if (viJobs s4 t fun _ => true).isEmpty then endDrain s4 t else s4

/-- VI_DISABLE: the physical function cannot be disabled; a second one while the first drains finds the object in use. -/
def viDisableBody (s : State) (vi : Nat) (w : List W64) : HubAns :=
  let t := arg w 1 5 0
  if t = 0 then .refuse 2
  else if (viOf s t).draining || (viOf s t).resetBusy then .refuse 4
  else .later (disableVi s t (some (vi, cmdReq w)))
def execViDisable : Nat → State → Out := hubRun 0x17 true [fm 5 0] viDisableBody

/-- VI_DRAIN_EXPIRY -/
def execViDrainExpiry (vi : Nat) (s : State) : Out :=
  onUnit (decide (vi < 64)) <|
    whenever (viOf s vi).draining s (endDrain (atLeast s (viOf s vi).drainAt) vi)

/-- Beats counted by the stream engines' STR_STOP_BEATS, of all cores. -/
def stopBeatsSum (s : State) : Nat := allCores.foldl (fun n p => n + (rget s (pgStr p) 0x114).toNat) 0

/-- A reset of a function starts (R301): nothing drains; every job and packet completes with status 0x04; its contexts are taken
down with their fences abandoned. One that runs takes a further one in; it takes over a disable, whose command replies 0x04. -/
def resetVi (s : State) (t : Nat) : State :=
  if (viOf s t).resetBusy then s
  else
    let s0 := match (viOf s t).disableReq with
      | some (vi, r) => pushReply s vi r 4 []
      | none => s
    let s1 := viUpd (flushVi s0 t) t fun x => { x with resetBusy := true, draining := false, disableReq := none }
    let s2 := (ctxsOfVi s1 t).foldl (fun s c => killContext s c true true) s1
    let edge := Config.stopBeats s2.free
    let beats := stopBeatsSum s2 - stopBeatsSum s1 + edge
    viUpd { s2 with free := s2.free + 1 } t fun x => { x with rstBeats := BitVec.ofNat 32 (satAdd 0xFFFFFFFF x.rstBeats.toNat beats) }

/-- VI_RESET: the reply comes with the acknowledgement, merged or not; a reset of its own function discards it (R301, R556). -/
def viResetBody (s : State) (vi : Nat) (w : List W64) : HubAns :=
  let t := arg w 1 5 0
  let s1 := resetVi s t
  .later (if vi = t then s1 else viUpd s1 t fun x => { x with resetReqs := x.resetReqs ++ [(vi, cmdReq w)] })
def execViReset : Nat → State → Out := hubRun 0x18 true [fm 5 0] viResetBody

/-- VI_RESET_ACK: the reset-complete acknowledgement; the function's pages are free, and every VI_RESET replies 0x00. -/
def ackReset (s : State) (t : Nat) : State :=
  let reqs := (viOf s t).resetReqs
  let s1 := viUpd { s with grants := s.grants.filter fun g => g.vi != t } t fun x => { x with resetBusy := false, resetReqs := [] }
  let s2 := pushReply s1 0 0xFFFFFFF0 0 [BitVec.ofNat 64 t]
  reqs.foldl (fun s r => pushReply s r.1 r.2 0 []) s2
def execViResetAck (vi : Nat) (s : State) : Out :=
  onUnit (decide (vi < 64)) <| whenever (viOf s vi).resetBusy s (ackReset s vi)

/-- FUNCTION_LEVEL_RESET: counted by HIF_FLR_CNT (Table 19-9). A function that is not enabled takes none. -/
def execFunctionLevelReset (vi : Nat) (s : State) : Out :=
  onUnit (decide (vi < 64)) <|
    whenever (vi == 0 || decide (vi ≤ s.numVfs)) s (resetVi (rcount s 0x201 0x104) vi)

/-- VF_ENABLE_CLEAR: every virtual function is disabled, and none exists (R300, R502). -/
def execVfEnableClear (s : State) : Out :=
  let s1 := (List.range s.numVfs).foldl (fun s i =>
    if (viOf s (i + 1)).draining || (viOf s (i + 1)).resetBusy then s else disableVi s (i + 1) none) s
  .next { s1 with numVfs := 0 }

/-- VF_ENABLE_SET: virtual functions 1 to NumVFs exist (R502); the device has 63 (Table 01-5). None is enabled in minimal mode. -/
def execVfEnableSet (num : Nat) (s : State) : Out :=
  onUnit (decide (num < 64)) <|
    whenever (!s.boot.minimal && s.boot.up) s
      { (List.range num).foldl (fun s i => viUpd s (i + 1) fun x => { x with disabled := false }) s with numVfs := num }

end Sys2Proof.Machine
end

