-- ==== Sys2Proof/Machine/MemoryUnits.lean ====
section
/-! DEFINITION. The HBM channel controllers and the system-cache slices (08_memory_and_system_cache.md): windows, patrol, ECC
and poison, lookups, eviction, flushes; and the translation block's own commands (R252, R258, R268, R269).

The bytes of memory are one table: the system cache is the point of coherence (R238), so a slice here holds which lines it
has, with their marks, and no data of its own. -/
namespace Sys2Proof.Machine

/-! ### Where an address lies (R223, R224, R238) -/

/-- The partition whose region holds an address, and its owned pseudo-channels in ascending number. -/
def partAt (s : State) (pa : Nat) : Option Nat :=
  (s.parts.find? fun e => decide (partBase s e.1 ≤ pa) && decide (pa < partTop s e.1)).map (·.1)
def ownedPcs (s : State) (i : Nat) : List Nat :=
  match tfind s.parts i with | some p => setBits p.pcs 64 | none => []

/-- The pseudo-channel of an address (R224). -/
def pcAt (s : State) (pa : Nat) : Option Nat :=
  (partAt s pa).bind fun i =>
    let own := ownedPcs s i
    own[((pa - partBase s i) / 256) % own.length]?

/-- The partition that owns a pseudo-channel, and the address of its line `l` (the placement of R224 turned round). -/
def pcOwner (s : State) (pc : Nat) : Option Nat := (s.parts.find? fun e => bit e.2.pcs pc).map (·.1)
def pcLine (s : State) (i pc l : Nat) : Nat :=
  let own := ownedPcs s i
  partBase s i + (l / 2 * own.length + own.idxOf pc) * 256 + l % 2 * 128

/-- Lines of a pseudo-channel: 768 MiB (R25, R230). -/
def pcLines : Nat := 0x600000

/-- XOR of the 4-bit groups of a number, `n` of them. -/
def fold4 : Nat → Nat → Nat
  | 0, _ => 0
  | n + 1, x => (x % 16) ^^^ fold4 n (x / 16)

/-- Slice and set of an address (R238). -/
def sliceOf (pa : Nat) : Nat := nbits pa 10 7 ^^^ fold4 9 (nbits pa 45 11)
def sliceSet (pa : Nat) : Nat := nbits pa 21 11

/-- A slice record, and its update. -/
def sliceRec (s : State) (n : Nat) : Slice := tget {} s.slices n
def setSlice (s : State) (n : Nat) (x : Slice) : State := { s with slices := tput s.slices n x }
/-- A channel record, and its update. -/
def chanRec (s : State) (c : Nat) : Channel := tget {} s.chans c
def setChan (s : State) (c : Nat) (x : Channel) : State := { s with chans := tput s.chans c x }

/-! ### HBM reads (R228-R230) -/

/-- A record of an uncorrectable error (Table 08-9): the first is held, others set MULTI; each is journalled. -/
def memError (s : State) (pc part kind pa rq : Nat) : State :=
  let pg := pgMem (pc / 2)
  let held := infoHeld s pg 0x114
  let s1 := capture s pg 0x114 30 (pc % 2 * 2 ^ 29 + part * 2 ^ 26 + kind * 2 ^ 24)
  let s2 := if held then s1 else setChan s1 (pc / 2) { chanRec s1 (pc / 2) with errAddr := pa, errReq := rq }
  raiseIrq (journal (rbump s2 pg 0x110 31 20 1) pg 0 (natLe 8 pa)) pg 0

/-- A line is read from HBM: a single-bit error is corrected and counted; a multi-bit error or a report of the stack poisons it;
a line already poisoned is recorded again (R228, R229). -/
def hbmLine (s0 : State) (pc part pa rq : Nat) (err : EccError) : State :=
  let s := pmcEvent s0 1 (pc / 2) 0 1
  if poisoned s pa then memError s pc part 3 pa rq
  else match err with
    | .clean => s
    | .single => pmcEvent (rbump s (pgMem (pc / 2)) 0x110 19 0 1) 1 (pc / 2) 2 1
    | .multi => poisonLine (memError s pc part 1 pa rq) pa
    | .stack => poisonLine (memError s pc part 2 pa rq) pa

/-- HBM_READ: a channel that is not trained holds the request (R245), and so does a pseudo-channel whose owner holds no majority
(R451). -/
def execHbmRead (line rq : Nat) (err : EccError) (s : State) : Out :=
  onUnit (decide (line < hbmTop) && decide (rq < 64)) <|
    match partAt s (lineOf line), pcAt s (lineOf line) with
    | some i, some pc => whenever (bit s.trained (pc / 2) && !noMajority s (pgMem (pc / 2)) 0x100 0 (8 * (pc % 2))) s (hbmLine s pc i (lineOf line) rq err)
    | _, _ => .next s

/-- MEM_PATROL: the next line of pseudo-channel 2c + pc in address order; SCRUB = 0 stops the patrol (R230). -/
def execMemPatrol (c pc : Nat) (err : EccError) (s : State) : Out :=
  onUnit (decide (c < 32) && decide (pc < 2)) <|
    let n := 2 * c + pc
    match pcOwner s n with
    | none => .next s
    | some i =>
      whenever (bit s.trained c && rbits s (pgMem c) 0x100 18 16 != 0) s <|
        let x := chanRec s c
        let l := if pc = 0 then x.patrol0 else x.patrol1
        let s1 := hbmLine s n i (pcLine s i n l) 0x3F err
        let y := chanRec s1 c
        setChan s1 c (if pc = 0 then { y with patrol0 := (l + 1) % pcLines } else { y with patrol1 := (l + 1) % pcLines })

/-- Guaranteed lines of an access class (Table 08-1), none for the class without a guarantee. -/
def classLines : Nat → Option Nat
  | 0 => some 256
  | 1 => some 128
  | _ => none

/-- Whether a demand lies above the guarantee. -/
def demandOver (demand cls : Nat) : Bool := match classLines cls with | some g => decide (g < demand) | none => false

/-- A window's lines of one pseudo-channel are counted for the partition that owns it (events 0x00-0x02 of Table 20-3). -/
def countWindow (s : State) (pc served demand cls : Nat) : State :=
  match pcOwner s pc with
  | none => s
  | some i =>
    let within := min served ((classLines cls).getD 0)
    pmcEvent (pmcEvent (pmcEvent s 3 i 0 within) 3 i 1 (served - within)) 3 i 2 (if demandOver demand cls then 1 else 0)

/-- MEM_WINDOW: the window ends at the next full microsecond (R231, R233, Table 08-7). -/
def execMemWindow (c : Nat) (v : WindowInput) (s : State) : Out :=
  onUnit (decide (c < 32)) <|
    let pg := pgMem c
    let s0 := { s with now := (s.now / 1000 + 1) * 1000 }
    let s1 := countWindow (countWindow s0 (2 * c) v.served0 v.demand0 v.class0) (2 * c + 1) v.served1 v.demand1 v.class1
    let s2 := rset s1 pg 0x108 (BitVec.ofNat 32 (min v.served1 300 * 2 ^ 16 + min v.served0 300))
    let ovr := (if demandOver v.demand0 v.class0 then 1 else 0) + (if demandOver v.demand1 v.class1 then 1 else 0)
    .next (if ovr = 0 then s2 else raiseIrq (rcount s2 pg 0x10C ovr) pg 1)

/-! ### Slices (R239-R244) -/

/-- The owner of a way by the way map (Table 08-10), and the ways of a partition. -/
def wayOwner (s : State) (n w : Nat) : Nat :=
  if w < 8 then rbits s (pgSyc n) 0x100 (4 * w + 2) (4 * w) else rbits s (pgSyc n) 0x104 (4 * (w - 8) + 2) (4 * (w - 8))

/-- Key of a line of a slice, and the line there. -/
def sliceKey (set w : Nat) : Nat := 16 * set + w
def sliceAt (x : Slice) (set w : Nat) : Option SliceLine := tfind x.lines (sliceKey set w)

/-- The way that holds a line. -/
def sliceWay (x : Slice) (pa : Nat) : Option Nat :=
  (List.range 16).find? fun w => match sliceAt x (sliceSet pa) w with
    | some l => l.valid && l.line == lineOf pa
    | none => false

/-- A slice's tree after an access to a way. -/
def sliceTouch (x : Slice) (set w : Nat) : Slice := { x with tree := tset 0 x.tree set (plruTouch (tget 0 x.tree set) w 4 1) }

/-- A slice error record (Table 08-13). -/
def sycError (s : State) (n kind way set pa : Nat) (poison : Bool) : State :=
  let pg := pgSyc n
  let held := infoHeld s pg 0x114
  let s1 := capture s pg 0x114 30 (kind * 2 ^ 28 + way * 2 ^ 24 + set * 2 ^ 13)
  let s2 := if held then s1 else setSlice s1 n { sliceRec s1 n with errAddr := pa }
  let s3 := rbump s2 pg 0x110 31 20 1
  let s4 := if held then journal s3 pg 0 (natLe 8 pa) else s3
  if poison then raiseIrq (poisonLine s4 pa) pg 0 else s4

/-- A slice's line record replaced. -/
def putSliceLine (s : State) (n set w : Nat) (l : SliceLine) : State :=
  setSlice s n { sliceRec s n with lines := tput (sliceRec s n).lines (sliceKey set w) l }

/-- What the ECC of the slice reports in the way that hits (R244): a clean line with a multi-bit error is dropped. -/
def sliceEcc (s : State) (n set w : Nat) (l : SliceLine) : SliceError → State
  | .clean => s
  | .single => rbump s (pgSyc n) 0x110 19 0 1
  | .dataMulti =>
    if l.dirty then putSliceLine (sycError s n 1 w set l.line true) n set w { l with poison := true }
    else putSliceLine (sycError s n 3 w set l.line false) n set w { l with valid := false }
  | .tagMulti =>
    let s1 := putSliceLine (sycError s n 2 w set l.line true) n set w { l with poison := true }
    if infoHeld s (pgSyc n) 0x114 then s1 else setSlice s1 n { sliceRec s1 n with errAddr := 0 }

/-- Occupied eviction entries charged to a partition, and whether it may take one more: two are reserved for each configured
partition, the rest are shared (R242). -/
def evictUsed (x : Slice) (part : Nat) : Nat := (x.evict.filter fun e => e.part == part).length
def evictRoom (s : State) (x : Slice) (part : Nat) : Bool :=
  let parts := s.parts.map (·.1)
  let sharedUsed := parts.foldl (fun n i => n + (evictUsed x i - 2)) 0
  decide (evictUsed x part < 2) || decide (sharedUsed + 2 * parts.length < 32)

/-- The marks of a line after an access: a write makes it dirty unless it carries the no-allocate attribute, which writes
through; an atomic makes it dirty (R241). -/
def accessMarks (l : SliceLine) (v : LookupInput) : SliceLine :=
  { l with
    dirty := if v.atomic then true else if v.write then !v.na else l.dirty
    poison := l.poison && !(v.write && v.whole) }

/-- A line enters a set for a partition; none when the access has to wait for an eviction entry or for the end of a flush. A
partition that owns no way of the slice allocates nothing, nor is anything allocated in a way whose owner holds no majority (R451). -/
def sliceAllocate (s : State) (n part pa : Nat) (v : LookupInput) (dirty : Bool) : Option State :=
  let x := sliceRec s n
  let set := sliceSet pa
  let voted (w : Nat) : Bool := !noMajority s (pgSyc n) (if w < 8 then 0x100 else 0x104) 0 (4 * (w % 8))
  let owned (w : Nat) : Bool := wayOwner s n w == part && voted w
  let open_ (w : Nat) : Bool := owned w && (match x.flush with | some m => !bit m w | none => true)
  if !((List.range 16).any owned) then some s
  else if !((List.range 16).any open_) then none
  else
    let invalid := (List.range 16).find? fun w => open_ w && (match sliceAt x set w with | some l => !l.valid | none => true)
    let w := match invalid with | some w => w | none => plruVictim (tget 0 x.tree set) open_ 16 4 1
    let fresh : SliceLine := accessMarks { valid := true, dirty, poison := poisoned s pa, line := lineOf pa } v
    let place (y : Slice) : State :=
      setSlice s n (sliceTouch { y with lines := tput y.lines (sliceKey set w) fresh } set w)
    match sliceAt x set w with
    | some l =>
      if l.valid && l.dirty then
        if evictRoom s x part then some (place { x with evict := x.evict ++ [{ line := l.line, part, poison := l.poison, begun := false }] })
        else none
      else some (place x)
    | none => some (place x)

/-- A lookup in a slice (R239-R242, R244); none when it waits. -/
def sliceAccess (s0 : State) (n part pa : Nat) (v : LookupInput) : Option State :=
  let set := sliceSet pa
  let s := match sliceWay (sliceRec s0 n) pa with
    | some w => match sliceAt (sliceRec s0 n) set w with
      | some l => sliceEcc s0 n set w l v.err
      | none => s0
    | none => s0
  let x := sliceRec s n
  match sliceWay x pa with
  | some w =>
    match sliceAt x set w with
    | some l => some (setSlice s n (sliceTouch { x with lines := tput x.lines (sliceKey set w) (accessMarks l v) } set w))
    | none => some s
  | none =>
    match x.evict.find? fun e => e.line == lineOf pa with
    | some e =>
      if v.write && !e.begun then
        some (setSlice s n { x with evict := x.evict.map fun y => if y.line = e.line then { y with poison := y.poison && !v.whole } else y })
      else
        let s1 := if e.begun then s else setSlice s n { x with evict := x.evict.filter fun y => y.line != e.line }
        sliceAllocate s1 n part pa v (!e.begun)
    | none => if v.na && !v.atomic then some s else sliceAllocate s n part pa v false

/-- A lookup that has taken `s` to `s1` is counted for its slice and its partition: lookups, hits, dirty evictions (Table 20-3). -/
def countLookup (s s1 : State) (n part pa : Nat) : State :=
  let hit := if (sliceWay (sliceRec s n) pa).isSome then 1 else 0
  let out := (sliceRec s1 n).evict.length - (sliceRec s n).evict.length
  pmcEvent (pmcEvent (pmcEvent (pmcEvent (pmcEvent s1 2 n 0 1) 2 n 1 hit) 2 n 2 out) 3 part 4 1) 3 part 5 hit

/-- SLICE_LOOKUP: a slice in Idle wakes (R431). A write of a whole line clears its poison mark (R229). -/
def execSliceLookup (line part : Nat) (v : LookupInput) (s : State) : Out :=
  onUnit (decide (line < hbmTop) && decide (part < 8)) <|
    let n := sliceOf line
    match sliceAccess s n part line v with
    | none => .next (pmcEvent s 3 part 6 (if evictRoom s (sliceRec s n) part then 0 else 1))
    | some s0 =>
      let s1 := countLookup s s0 n part line
      let s2 := setSlice s1 n { sliceRec s1 n with idle := false }
      .next (if v.write && v.whole then { s2 with poison := s2.poison.filter fun l => l != lineOf line } else s2)

/-- EVICTION_DRAIN: the drain of entry k begins; when it has begun, the line is in HBM and the entry is free (R242). -/
def execEvictionDrain (n k : Nat) (s : State) : Out :=
  onUnit (decide (n < 16) && decide (k < 32)) <|
    let x := sliceRec s n
    match x.evict[k]? with
    | none => .next s
    | some e =>
      if e.begun then
        let s1 := setSlice s n { x with evict := removeAt x.evict k }
        .next (match pcAt s e.line with | some pc => pmcEvent s1 1 (pc / 2) 1 1 | none => s1)
      else .next (setSlice s n { x with evict := modifyAt x.evict k fun e => { e with begun := true } })

/-- SLICE_IDLE: 256 mesh clocks without a lookup (R431). -/
def execSliceIdle (n : Nat) (s : State) : Out :=
  onUnit (decide (n < 16)) <| .next (setSlice s n { sliceRec s n with idle := true })

/-- Lines of a slice in the ways of a mask passed through `f`. -/
def mapWays (x : Slice) (ways : BitVec 16) (f : SliceLine → SliceLine) : Slice :=
  { x with lines := x.lines.map fun e => (e.1, if bit ways (e.1 % 16) then f e.2 else e.2) }

/-- SYC_FLUSH.GO: the ways accept no allocation, and their clean lines are invalid; a write while a flush runs falls under R7
(R243, R249). -/
def startFlush (s : State) (n : Nat) (ways : BitVec 16) : State :=
  let x := sliceRec s n
  match x.flush with
  | some _ => errCount s (pgSyc n)
  | none =>
    let y := mapWays x ways fun l => if l.dirty then l else { l with valid := false }
    rset (setSlice s n { y with flush := some ways }) (pgSyc n) 0x10C (BitVec.ofNat 32 ways.toNat)
def execFlush (n : Nat) (ways : BitVec 16) (s : State) : Out := onUnit (decide (n < 16)) <| .next (startFlush s n ways)

/-- FLUSH_END: every dirty line of the ways has been written back and is invalid. -/
def execFlushEnd (n : Nat) (s : State) : Out :=
  onUnit (decide (n < 16)) <|
    let x := sliceRec s n
    match x.flush with
    | none => .next s
    | some ways =>
      let y := mapWays x ways fun l => { l with valid := false, dirty := false }
      .next (raiseIrq (setSlice s n { y with flush := none }) (pgSyc n) 1)

/-! ### The translation block's commands (R252, R258, R268, R269, Table 09-8) -/

/-- The entry that XLT_CTX_D0-D3 hold. -/
def ctxData (s : State) : BitVec 128 :=
  BitVec.ofNat 128 ([0, 1, 2, 3].foldl (fun n k => n + (rget s 0x40 (0x100 + 4 * k)).toNat * 2 ^ (32 * k)) 0)

/-- CTX_TABLE_WRITE -/
def ctxTableWrite (s : State) (tag : Nat) : State :=
  rset { s with ctxTab := tset 0 s.ctxTab tag (ctxData s) } 0x40 0x110 (BitVec.ofNat 32 tag)
def execCtxTableWrite (tag : BitVec 12) (s : State) : Out := .next (ctxTableWrite s tag.toNat)

/-- CTX_TABLE_READ: mailbox selection 0 of page 0x0040 gives the entry (R276). -/
def ctxTableRead (s : State) (tag : Nat) : State :=
  rset { s with ctxRead := ctxEntry s tag } 0x40 0x110 (BitVec.ofNat 32 (2 ^ 30 + tag))
def execCtxTableRead (tag : BitVec 12) (s : State) : Out := .next (ctxTableRead s tag.toNat)

/-- A queued invalidation starts when none runs: every unit drops the tag (R268). -/
def startInvalidation (s : State) : State :=
  match s.invRun, s.invQueue with
  | none, t :: rest => dropTag { s with invRun := some t, invQueue := rest } t
  | _, _ => s

/-- XLT_INV.GO: a request joins the queue of 8, or merges with a waiting one of its tag; beyond 8 it is ignored and counted. -/
def queueInvalidation (s : State) (tag : Nat) : State :=
  let s1 := rset s 0x40 0x114 (BitVec.ofNat 32 tag)
  if s.invQueue.contains tag then s1
  else if s.invQueue.length ≥ 8 then errCount s1 0x40
  else startInvalidation { s1 with invQueue := s1.invQueue ++ [tag] }
def execTagInvalidation (tag : BitVec 12) (s : State) : Out := .next (queueInvalidation s tag.toNat)

/-- Whether an access translated under a tag is still on its way: a tile that has begun, or a store of one of its groups in a
merging buffer (R269). -/
def tagInFlight (s : State) (tag : Nat) : Bool :=
  s.cores.any fun c =>
    (c.2.eng.any fun e => e.2.queue.any fun t => t.started && t.tag == tag)
    || (match c.2.copy with | some x => x.tag == tag && x.begun.any fun b => b.isSome | none => false)
    || c.2.merge.any fun m => m.stores.any fun y => match tfind c.2.groups y.1 with
        | some g => jobTag s g.job == tag
        | none => false

/-- INVALIDATION_COMPLETE -/
def execInvalidationComplete (s : State) : Out :=
  match s.invRun with
  | none => .next s
  | some t => whenever (!tagInFlight s t) s (pmcEvent (startInvalidation { invalidated s t with invRun := none }) 4 0 1 1)

/-- RANGE_CACHE_FILL: the entry that covers the address is installed; an address that none covers installs nothing; a poisoned
table line is recorded (R258, Table 09-11). -/
def execRangeCacheFill (unit : Nat) (tag : BitVec 12) (va : W64) (s0 : State) : Out :=
  onUnit (decide (unit < 36) || (decide (0x120 ≤ unit) && decide (unit < 0x140))) <|
    let s := pmcEvent s0 4 0 0 1
    let c := ctxEntry s tag.toNat
    if !ctV c then .next s
    else if (List.range 8).any fun k => poisoned s (ctRtb c + 128 * k) then
      .next (xltRecord s { cause := 3, kind := 4, level := 0, entry := 0 } false (unitReq s unit) tag.toNat va.toNat)
    else match rangeFind s (ctRtb c) va.toNat with
      | some (i, w0, w1) => .next (rangeTouch s unit { tag := tag.toNat, index := i, w0, w1 })
      | none => .next s

end Sys2Proof.Machine
end

