-- ==== Sys2Proof/Machine/Spoke.lean ====
section
/-! DEFINITION. Spoke links and Tandem groups (15_spoke_links.md): flits, retraining, failure, admission, the member table, and
remote accesses in both directions (R265, R266, R410-R427). -/
namespace Sys2Proof.Machine

/-- Links of the device. -/
def linkOk (n : Nat) : Bool := decide (n < 8)

/-- SPK_CFG fields. -/
def spkEn (s : State) (n : Nat) : Bool := bit (rget s (pgSpk n) 0x100) 31
def spkLanesMin (s : State) (n : Nat) : Nat := rbits s (pgSpk n) 0x100 30 29
def spkRto (s : State) (n : Nat) : Nat := rbits s (pgSpk n) 0x100 15 0

/-- SPK_FLT_INFO (Table 15-6): the first record is held with its time; a later one is journalled only. -/
def spkRecord (s : State) (n kind peer lane : Nat) : State :=
  let held := infoHeld s (pgSpk n) 0x114
  let s1 := raiseIrq (capture s (pgSpk n) 0x114 30 (kind * 2 ^ 27 + peer % 16 * 2 ^ 23 + lane % 4 * 2 ^ 21)) (pgSpk n) 2
  if held then journal s1 (pgSpk n) 0 (natLe 8 s.now)
  else setLink s1 n { linkOf s1 n with recordAt := BitVec.ofNat 64 s.now }

/-- A packet sent in answer or forwarded; it waits while a credit is missing or an earlier one of its virtual channel waits (R413, R414). -/
def answerOn (s : State) (n slots : Nat) (pk : RemotePacket) : State :=
  let l := linkOf s n
  let wait := setLink s n { l with waiting := l.waiting ++ [(slots, pk)] }
  if l.waiting.any fun w => w.2.vc == pk.vc then wait else (linkSend s n slots pk).getD wait

/-- The packets that wait are sent as far as credits allow, each virtual channel in order. -/
def sendWaiting (s : State) (n : Nat) : State :=
  (linkOf s n).waiting.foldl (fun s w => answerOn s n w.1 w.2) (setLink s n { linkOf s n with waiting := [] })

/-! ### Answers to this device's accesses (R422, R423) -/

/-- The remote access of a tag sent over a link. -/
def remoteAt (s : State) (link tag : Nat) : Option RemoteAcc := s.remotes.find? fun r => r.link == link && r.tag == tag
def dropRemote (s : State) (r : RemoteAcc) : State := { s with remotes := removeFirst (fun x => x == r) s.remotes }

/-- The load of a group that an access belongs to. -/
def remoteLoad (s : State) (r : RemoteAcc) : Option PendLoad :=
  match groupOf s r.core r.slot with
  | some g => match g.block with
    | .load l => if g.job = r.job ∧ l.missing.contains r.pa then some l else none
    | _ => none
  | none => none

/-- The transfer in hand of the engine that an access belongs to. -/
def remoteTile (s : State) (r : RemoteAcc) : Option Transfer :=
  match (engOf (coreOf s r.core) (r.slot - 64)).queue with
  | t :: _ => if t.job = r.job then some t else none
  | [] => none

/-- The TRANSFER job on a core that an access belongs to. -/
def remoteCopy (s : State) (r : RemoteAcc) : Option Copy :=
  match (coreOf s r.core).copy with
  | some x => if x.job = r.job then some x else none
  | none => none

/-- An access ends in an error: the peer's refusal raises its cause; a time-out is a source data error, which stops the job (R212,
R229). -/
def remoteFails (s : State) (r : RemoteAcc) (cause : Option Nat) : State :=
  let s0 := dropRemote s r
  if r.slot < 64 then
    match groupOf s0 r.core r.slot with
    | none => s0
    | some g =>
      if g.job ≠ r.job then s0
      else match cause with
        | none => stopJob s0 r.job false
        | some c =>
          let pc : W64 := match remoteLoad s0 r with | some l => l.pc | none => (lowestPc g).getD 0
          let m : Mask := match remoteLoad s0 r with | some l => lanesAt l r.pa | none => alive g
          takeException s0 r.core r.slot c pc (BitVec.ofNat 64 r.pa) m
  else
    let e := r.slot - 64
    match remoteCopy s0 r with
    | some x =>
      (match cause with
      | none => stopJob (journal (raiseIrq (strRecord s0 r.core e 3 (x.next.getD e 0) (BitVec.ofNat 64 r.pa) 0 x.tag) (pgStr r.core) 1)
          (pgStr r.core) 1 (natLe 8 r.pa)) r.job false
      | some c => settleCopy (updCore s0 r.core fun k => { k with copy := some { x with
          begun := x.begun.set e none
          failed := match x.failed with
            | some f => if x.next.getD e 0 < f.1 then some (x.next.getD e 0, c, r.pa) else some f
            | none => some (x.next.getD e 0, c, r.pa) } }) r.core)
    | none =>
      match remoteTile s0 r with
      | none => s0
      | some t =>
        match cause with
        | none => engineDataError s0 r.core e t 3 r.pa
        | some c => engineFault s0 r.core e t c (if c = 4 then 2 else 1) r.pa

/-- An access is answered: a read's or an atomic's data arrive, a write is acknowledged. -/
def remoteDone (s : State) (r : RemoteAcc) (data : List Byte) : State :=
  let s0 := dropRemote s r
  let bs := (List.range r.size).map fun k => data.getD k 0
  if r.kind = 1 then coreGroups s0 r.core fun g => ackRelease g none (some r.tag)
  else if r.slot < 64 then
    match remoteLoad s0 r with
    | some l => arriveFor (storeAt s0 r.pa bs) r.core r.slot l r.pa r.pa bs
    | none => s0
  else storeAt s0 r.pa bs

/-- REMOTE_RESPONSE: a response, an acknowledgement or an error response; one whose access has timed out is discarded and counted.
Packets for another device are forwarded (R421). -/
def execRemoteResponse (link : Nat) (a : RemotePacket) (s : State) : Out :=
  onUnit (linkOk link) <|
    if (linkOf s link).state ≠ lkUp || !(a.op == 3 || a.op == 4 || a.op == 8) || a.reserved then .next s
    else if a.dst ≠ ownId s then
      match routeOf s a.dst with
      | some n => .next (if (linkOf s n).state = lkUp then answerOn s n (a.len + 1) a else s)
      | none => .next s
    else match remoteAt s link a.tag with
      | none => .next (rcount s (pgSpk link) 0x110)
      | some r => .next (if a.op = 8 then remoteFails s r (some a.cause) else remoteDone s r a.data)

/-- An access ends by time-out: counted and recorded (R423). -/
def timeOut (s : State) (r : RemoteAcc) : State :=
  let peer := bits (owin s ((r.pa - spokeBase) / spokeSize)) 11 8
  remoteFails (spkRecord (rcount s (pgSpk r.link) 0x110) r.link 1 peer 0) r none

/-- REMOTE_TIMEOUT: no answer within SPK_CFG.RTO of the sending. -/
def execRemoteTimeout (tag : Nat) (s : State) : Out :=
  match s.remotes.find? fun r => r.tag == tag with
  | none => .next s
  | some r => .next (timeOut (atLeast s (r.since + spkRto s r.link * 1000)) r)

/-! ### Accesses of peers (R266, R412, R421, R422) -/

/-- The inbound window's answer to an access: the physical address, or the cause that its sender receives. Atomics need R and W. -/
def inboundCheck (s : State) (a : RemotePacket) : Except Nat Nat :=
  let ctl := rget s 0x43 (0x100 + 16 * a.win)
  let base := rbits s 0x43 (0x104 + 16 * a.win) 24 0 * 0x200000
  let len := rbits s 0x43 (0x108 + 16 * a.win) 19 0 * 0x200000
  if !bit ctl 31 || bits ctl 7 4 != a.src || bits ctl 3 0 != a.srcWin || decide (len ≤ a.offset) then .error 3
  else if (a.op == 0 || a.op == 2) && !bit ctl 30 then .error 4
  else if (a.op == 1 || a.op == 2) && !bit ctl 29 then .error 4
  else .ok (base + a.offset)

/-- The effect of an accepted access in memory, and the answer's operation code and data: a read's bytes, an acknowledgement, or an
atomic's old value. -/
def inboundPerform (s : State) (a : RemotePacket) (pa : Nat) : State × Nat × List Byte :=
  match a.op with
  | 0 => (s, 3, memRead s pa (16 * a.len))
  | 1 => (storeAt s pa (a.data.take (16 * a.len)), 4, [])
  | _ =>
    let (wide, val, cmp) := Config.atomicSlot a.data
    let size := if wide then 8 else 4
    let old := memNat s pa size
    (storeAt s pa (natLe size (atomicNew a.aop size old (val % 2 ^ (8 * size)) (cmp % 2 ^ (8 * size)))), 3, natLe size old)

/-- The header of an answer to a packet. -/
def answerTo (s : State) (a : RemotePacket) (op cause : Nat) (data : List Byte) : RemotePacket :=
  { op, vc := 1, src := ownId s, dst := a.src, len := ceilDiv data.length 16, tag := a.tag, cause, data }

/-- A peer's access over a link is checked, performed or refused, and answered. A refusal is recorded as an inbound refusal
(Table 09-11). -/
def inbound (s : State) (link : Nat) (a : RemotePacket) : State :=
  match inboundCheck s a with
  | .error c =>
    let s1 := xltRecord s { cause := c, kind := 5, level := 0, entry := 0 } false (0x2F + link) 0 a.offset
    answerOn s1 link 1 (answerTo s1 a 8 c [])
  | .ok pa =>
    let (s1, op, data) := inboundPerform s a pa
    answerOn s1 link (1 + ceilDiv data.length 16) (answerTo s1 a op 0 data)

/-- Whether a packet's codes are all assigned (R412, R413, Table 05-21). -/
def packetCodesOk (a : RemotePacket) : Bool :=
  decide (a.op < 9) && decide (a.vc < 3) && !a.reserved && (a.op != 2 || decide (a.aop < 11))

/-- REMOTE_REQUEST -/
def execRemoteRequest (link : Nat) (a : RemotePacket) (s : State) : Out :=
  onUnit (linkOk link && decide (a.win < 16) && decide (a.srcWin < 16)) <|
    if (linkOf s link).state ≠ lkUp then .next s
    else if !packetCodesOk a then .next (answerOn s link 1 (answerTo s a 8 4 []))
    else if a.op > 2 then .next s
    else if a.dst ≠ ownId s then
      match routeOf s a.dst with
      | some n =>
        .next (if (linkOf s n).state = lkUp then answerOn s n (if a.op = 0 then 1 else 1 + a.len) a else answerOn s link 1 (answerTo s a 8 3 []))
      | none => .next (answerOn s link 1 (answerTo s a 8 3 []))
    else .next (inbound s link a)

/-- INBOUND_ACCESS: an access of a peer that has arrived over the link of the peer's route. -/
def execInboundAccess (a : RemotePacket) (s : State) : Out :=
  onUnit (decide (a.win < 16) && decide (a.srcWin < 16)) <|
    match routeOf s a.src with
    | none => .next s
    | some link => whenever ((linkOf s link).state == lkUp && packetCodesOk a && decide (a.op ≤ 2)) s (inbound s link a)

/-! ### Failure (R293, R417, R418, R421) -/

/-- Device IDs whose route is a link, other than this device's own. -/
def routedOver (s : State) (n : Nat) : List Nat := (List.range 16).filter fun d => d != ownId s && routeOf s d == some n

/-- The proxies of a home device are abandoned (R293). -/
def abandonProxies (s : State) (dev : Nat) : State :=
  (s.fences.filter fun f => match f.2.home with | some h => h.1 == dev | none => false).foldl (fun s f => fenceAbandon s f.1) s

/-- A link leaves UP: the members behind it are unreachable from now on. -/
def loseReach (s : State) (n : Nat) : State :=
  { s with unreachable := (routedOver s n).foldl (fun t d => if (tfind t d).isSome then t else tput t d s.now) s.unreachable }

/-- What entry to DOWN does: accesses without an answer time out, the credits and keys go, DOWN is raised, and the proxies whose homes
lay behind the link are abandoned. The link trains again while it is enabled. -/
def takeDown (s : State) (n : Nat) : State :=
  let s1 := (s.remotes.filter fun r => r.link == n).foldl timeOut s
  let s2 := loseReach s1 n
  let s3 := raiseIrq (setLink s2 n { linkOf s2 n with
    state := if spkEn s n then lkTraining else lkDown
    crReq := 0, crRsp := 0, crCtl := 0, keys := false, ctr := 0, replay := [], waiting := [], replayRun := 0, nakPending := false, tagFails := []
    expectSeq := 0, nextSeq := 0, ackSeq := 0, lastValid := s.now, retryAt := 0 }) (pgSpk n) 0
  (routedOver s n).foldl abandonProxies s3

/-- LINK_DOWN: 500 µs without a valid flit. -/
def execLinkDown (link : Nat) (s : State) : Out :=
  onUnit (linkOk link) <|
    whenever ((linkOf s link).state != lkDown) s (takeDown (atLeast s ((linkOf s link).lastValid + 500000)) link)

/-! ### Flits (R411, R414-R416, R418) -/

/-- A NAK of `seq`: every flit from it on is sent again, one replay; the eighth in a row without ACK advancing retrains the link. -/
def replayFrom (s : State) (n seq : Nat) : State :=
  let l := linkOf s n
  let again := l.replay.dropWhile fun x => x.1 != seq
  if again.isEmpty then s
  else
    let s1 := pmcEvent (pmcEvent (rcount s (pgSpk n) 0x108) 8 n 0 again.length) 8 n 1 1
    setLink s1 n { l with
      sent := l.sent + BitVec.ofNat 64 again.length
      replayRun := l.replayRun + 1
      state := if l.replayRun + 1 ≥ 8 then lkRetraining else l.state }

/-- FLIT_NAK -/
def execFlitNak (link seq : Nat) (s : State) : Out :=
  onUnit (linkOk link && decide (seq < 4096)) <|
    let l := linkOf s link
    whenever (l.state == lkUp || l.state == lkTrained) s (replayFrom s link seq)

/-- What an accepted flit brings: its acknowledgement frees the replay buffer, and its credits are counted once (R414, R415). -/
def acceptFlit (l : Link) (f : Flit) (now : Nat) : Link :=
  let left := if l.replay.any fun x => x.1 == f.ack then (l.replay.dropWhile fun x => x.1 != f.ack).tail else l.replay
  { l with
    replay := left
    replayRun := if left.length < l.replay.length then 0 else l.replayRun
    ackSeq := f.seq
    expectSeq := (f.seq + 1) % 4096
    nakPending := false
    crReq := min 512 (l.crReq + f.retReq)
    crRsp := min 512 (l.crRsp + f.retRsp)
    crCtl := min 32 (l.crCtl + f.retCtl)
    lastValid := now }

/-- FLIT_RECEIVE: correction, tag, sequence, in this order; a flit that fails is discarded and answered by a NAK. Tag failures are
counted, and more than 64 in 1 s take the link DOWN. Training flits are not numbered; a NAK flit replays from its SEQ. -/
def execFlitReceive (link : Nat) (f : Flit) (s : State) : Out :=
  onUnit (linkOk link) <|
    let l := { linkOf s link with received := (linkOf s link).received + 1 }
    if l.state ≠ lkUp && l.state ≠ lkTrained then .next s
    else if !f.fecOk then .next (setLink s link { l with nakPending := true })
    else if l.keys && !f.tagOk then
      let fails := (l.tagFails.filter fun t => decide (s.now < t + 1000000000)) ++ [s.now]
      let s1 := rcount (setLink s link { l with nakPending := true, tagFails := fails }) (pgSpk link) 0x10C
      if fails.length > 64 then .next (takeDown (journal (spkRecord s1 link 2 l.peer 0) (pgSpk link) 1 (natLe 8 s.now)) link)
      else .next s1
    else if f.kind = 3 then .next (setLink s link { l with lastValid := s.now })
    else if f.kind = 2 then .next (replayFrom (setLink s link { l with lastValid := s.now }) link f.seq)
    else if f.seq ≠ l.expectSeq then .next (setLink s link { l with nakPending := true })
    else .next (sendWaiting (setLink s link (acceptFlit l f s.now)) link)

/-! ### Training (R416) -/

/-- Width codes: the width that a set of good lanes allows, none without one. -/
def widthOf (good : BitVec 4) : Option Nat :=
  if good = 0xF then some 2
  else if (bit good 0 && bit good 1) || (bit good 2 && bit good 3) then some 1
  else if good ≠ 0 then some 0
  else none

/-- LINK_RETRAIN: the lanes `good` hold lock or train. A first training ends in TRAINED with the credits advertised. A retrain goes no
wider than before, keeps the credits, and returns to the state before, with new keys once CTR is spent (R418); onto fewer lanes it is a DEGRADE. Below LANES_MIN, or with no
lane, the link goes on training. -/
def execLinkRetrain (link : Nat) (good : BitVec 4) (s : State) : Out :=
  onUnit (linkOk link) <|
    let l := linkOf s link
    let first := l.state == lkTraining
    let again := l.state == lkRetraining || ((l.state == lkUp || l.state == lkTrained) && (good != 0xF || ctrSpent l))
    if !first && !again then .next s
    else
      let bad := (List.range 4).find? fun i => !bit good i
      let s1 := match bad with | some i => spkRecord s link 4 l.peer i | none => s
      let l1 := linkOf s1 link
      match (widthOf good).map fun w => if first then w else min w l.lanes with
      | none => .next (setLink s1 link { l1 with state := if first then lkTraining else lkRetraining })
      | some w =>
        if w < spkLanesMin s link then .next (setLink s1 link { l1 with state := if first then lkTraining else lkRetraining })
        else if first then
          .next (setLink s1 link { l1 with state := lkTrained, lanes := w, crReq := 512, crRsp := 512, crCtl := 32, lastValid := s.now, retryAt := 0, waking := false })
        else
          let s2 := setLink s1 link { l1 with
            state := if l.keys then lkUp else lkTrained
            lanes := w, replayRun := 0, ctr := if ctrSpent l then 0 else l.ctr, lastValid := s.now }
          .next (if w < l.lanes then journal (raiseIrq s2 (pgSpk link) 1) (pgSpk link) 2 (natLe 1 w) else s2)

/-! ### Admission and the member table (R419, R420) -/

/-- The member table, the device's own entry always in it. -/
def memberKey (s : State) (id : Nat) : Option (BitVec 384) :=
  if id = ownId s then some Config.ownKey else (s.members.find? fun m => m.1 == id).map (·.2)

/-- Entries joined to the table; an ID that it holds keeps its own entry. -/
def mergeMembers (s : State) (entries : List (Nat × BitVec 384)) : State :=
  entries.foldl (fun s m => if (memberKey s m.1).isSome then s else { s with members := s.members ++ [m] }) s

/-- Whether a peer is admitted. -/
def admits (s : State) (link : Nat) (x : AdmissionOffer) : Bool :=
  x.signatureOk && !s.boot.rngFailed && x.id != ownId s && decide (x.id < 16)
  && (match memberKey s x.id with | some k => k == x.keyHash | none => true)
  && x.members.all (fun m => (m.1 != x.id || m.2 == x.keyHash) && (m.1 != ownId s || m.2 == Config.ownKey))
  && (List.range 8).all fun n => n == link || (linkOf s n).state != lkUp || (linkOf s n).peer != x.id || memberKey s x.id == some x.keyHash

/-- The link stays in TRAINED, or goes back to it, with a record; admission is tried again after 1 s. -/
def toTrained (s : State) (link id : Nat) : State :=
  let s1 := spkRecord s link 3 id 0
  setLink s1 link { linkOf s1 link with state := lkTrained, retryAt := s.now + 1000000000 }

/-- ADMISSION -/
def execAdmission (link : Nat) (x : AdmissionOffer) (s : State) : Out :=
  onUnit (linkOk link) <|
    let l := linkOf s link
    if l.state ≠ lkTrained || l.retryAt ≠ 0 then .next s
    else if admits s link x then
      let s1 := mergeMembers s ((x.id, x.keyHash) :: x.members)
      .next { setLink s1 link { l with state := lkUp, peer := x.id, keys := true, ctr := 0, lastValid := s.now } with
        unreachable := s1.unreachable.filter fun u => !((routedOver s link).contains u.1) }
    else .next (toTrained s link x.id)

/-- ADMISSION_RETRY: 1 s after a refusal the exchange may run again. -/
def execAdmissionRetry (link : Nat) (s : State) : Out :=
  onUnit (linkOk link) <|
    let l := linkOf s link
    if l.state = lkTrained && l.retryAt != 0 then
      let s1 := atLeast s l.retryAt
      .next (setLink s1 link { l with retryAt := 0 })
    else .next s

/-- MEMBER_TABLE: a conflicting entry takes the link to TRAINED; the others are merged. -/
def execMemberTable (link : Nat) (entries : List (Nat × BitVec 384)) (s : State) : Out :=
  onUnit (linkOk link) <|
    if (linkOf s link).state ≠ lkUp then .next s
    else
      let s1 := mergeMembers s (entries.filter fun m => decide (m.1 < 16))
      match entries.find? fun m => match memberKey s m.1 with | some k => k != m.2 | none => false with
      | none => .next s1
      | some m => .next (journal (toTrained (loseReach s1 link) link m.1) (pgSpk link) 3 (natLe 1 m.1))

/-- MEMBER_EXPIRY: an entry other than the device's own whose device has been unreachable for 1 s; its proxies are abandoned. -/
def execMemberExpiry (id : Nat) (s : State) : Out :=
  onUnit (decide (id < 16)) <|
    if id = ownId s || reachable s id then .next s
    else
      let s1 := atLeast s ((tfind s.unreachable id).getD 0 + 1000000000)
      .next { abandonProxies s1 id with members := s1.members.filter fun m => m.1 != id }

/-! ### Wake (R425) -/

/-- WAKE_PATTERN_SEND: SPK_CFG.WAKE; the field clears itself. -/
def execWakePatternSend (link : Nat) (s : State) : Out :=
  onUnit (linkOk link) <| .next (setLink s link { linkOf s link with waking := true })

end Sys2Proof.Machine
end

