-- ==== Sys2Proof/Machine/Power.lean ====
section
/-! DEFINITION. The commands of the power domains, the core rail and the power budget (16_power_management.md). -/
namespace Sys2Proof.Machine

/-! ### Refusals and aborts (R433, R434, Table 16-3) -/

/-- A block's page by which a domain is named where a record needs a block: the first page of the domain's blocks. -/
def domPage (d : Nat) : Nat :=
  if domIsCore d then pgCore d
  else if domIsSlice d then pgSyc (d - 0x30)
  else if domIsEth d then 0x220 + (d - 0x40)
  else if d = 0x44 then 0x224
  else if d = 0x45 then 0x22C
  else if domIsPipe d then pgCmp (d - 0x48)
  else if d = 0x4C then pgCpr 0
  else if d = 0x4D then 0x200
  else if domIsLink d then pgSpk (d - 0x50)
  else if d = 0x58 then pgMem 0
  else if d = 0x59 then pgMem 16
  else if d = 0x60 then pgHub 0
  else 0

/-- The VIO pages of a domain. -/
def domVioPages (d : Nat) : List Nat :=
  if domIsEth d then [0x220 + (d - 0x40)]
  else if d = 0x44 then (List.range 8).map (0x224 + ·)
  else if d = 0x45 then (List.range 4).map (0x22C + ·)
  else []

/-- A job that the dispatcher has started and that still waits for logical core `L`. -/
def assignedTo (s : State) (L : Nat) : Bool :=
  s.jobs.any fun j => (j.2.phase == .started || j.2.phase == .running) && (jobMissing s j.2).contains L

/-- Whether a pseudo-channel of HBM stack `n` belongs to a partition. -/
def stackUsed (s : State) (n : Nat) : Bool := s.parts.any fun e => (List.range 32).any fun k => bit e.2.pcs (32 * n + k)

/-- What the state of the device itself makes a block of the domain answer: the page of the block and the reason. -/
def ownAnswer (s : State) (d : Nat) : Option (Nat × Nat) :=
  if domIsCore d then
    let c := coreOf s d
    if !c.jobs.isEmpty || !c.groups.isEmpty || (match logicalOf s d with | some L => assignedTo s L | none => false) then some (pgCore d, 1)
    else if c.eng.any fun e => !e.2.queue.isEmpty then some (pgStr d, 2)
    else if s.semas.any fun x => match x.2.holder, logicalOf s d with | some h, some L => h.1 == L | _, _ => false then some (pgCore d, 3)
    else if s.remotes.any fun r => r.core == d then some (pgCore d, 4)
    else none
  else if domIsSlice d then
    let x := sliceRec s (d - 0x30)
    if x.flush.isSome || !x.evict.isEmpty then some (pgSyc (d - 0x30), 2) else none
  else if domIsPipe d then (if (pipeOf s (d - 0x48)).on then some (domPage d, 2) else none)
  else if d = 0x4C then
    ([0, 1, 2, 3].find? fun e => (cprOf s e).desc.isSome).map fun e => (pgCpr e, 2)
  else if domIsLink d then (if s.remotes.any fun r => r.link == d - 0x50 then some (domPage d, 4) else none)
  else if domIsHbm d then (if stackUsed s (d - 0x58) then some (domPage d, 5) else none)
  else ((domVioPages d).find? fun pg => !(chansOn s pg).isEmpty).map fun pg => (pg, 2)

/-- The answers of the blocks: what the state decides, else the first refusal that a block makes for a reason of its own. -/
def firstRefusal (s : State) (d : Nat) (answers : List (Nat × Nat)) : Option (Nat × Nat) :=
  match ownAnswer s d with
  | some x => some x
  | none => answers.find? fun a => decide (1 ≤ a.2) && decide (a.2 ≤ 7)

/-- A refusal or an abort is recorded in PWR_REFUSE_INFO, counted for its domain and journalled; a record that finds one held only sets
MULTI. -/
def refusalRecord (s : State) (d page reason : Nat) (abort : Bool) : State :=
  let held := infoHeld s pgPwr 0x114
  let s1 := capture s pgPwr 0x114 30 ((if abort then 2 ^ 29 else 0) + reason * 2 ^ 24 + d * 2 ^ 16)
  let s2 := if held then s1 else { s1 with power := { s1.power with refuserId := rget s page 0, refuseAt := s.now } }
  let s3 := updDom s2 d fun x => if abort then { x with aborts := satAdd 255 x.aborts 1 } else { x with refuses := satAdd 255 x.refuses 1 }
  journal (raiseIrq s3 pgPwr (if abort then 1 else 0)) pgPwr (if abort then 1 else 0) (natLe 1 d ++ natLe 1 reason)

/-! ### Entries (R433-R435) -/

/-- Spares that are powered: in Run, or on the way there. -/
def poweredSpares (s : State) : List Nat :=
  allCores.filter fun p => (roleOf s p).role == rlSpare && ((domOf s p).state != 3 || (domOf s p).target == some 0)

/-- GO with TARGET Run (R433, R19): a domain below Run begins its exit at the operating point asked for; in Run its operating point
changes. A second powered spare is refused. -/
def goRun (s : State) (d op : Nat) (answers : List (Nat × Nat)) : State :=
  if (domOf s d).state = 0 then (if domIsCore d then changeOp s d op else s)
  else if domIsCore d && (roleOf s d).role == rlSpare && (poweredSpares s).any (· != d) then refusalRecord s d (domPage d) 7 false
  else match answers.find? fun a => decide (1 ≤ a.2) && decide (a.2 ≤ 7) with
    | some a => refusalRecord s d a.1 a.2 false
    | none => beginExit (if domIsCore d then updDom s d fun x => { x with op } else s) d

/-- GO with a lower TARGET: an entry begins when every block accepts. Self-test is open to a core at OP2 only (R456). -/
def goDown (s : State) (d t : Nat) (test : Option SelfTest) (answers : List (Nat × Nat)) : State :=
  if test.isSome && (!domIsCore d || (domOf s d).op != 2) then refusalRecord s d (domPage d) 6 false
  else match firstRefusal s d answers with
    | some a => refusalRecord s d a.1 a.2 false
    | none => updDom s d fun x => { x with target := some t, since := s.now, test }

/-- A write of PWR_DOM_CTL (R433, R446, Table 16-10): a state that the domain does not have falls under R7; a GO while a transition of
the domain runs is ignored and counted; none starts while the power fails (R446). -/
def domainGo (s : State) (v : W32) (answers : List (Nat × Nat)) (test : SelfTest) : State :=
  let d := rbits s pgPwr 0x108 7 0
  let t := bits v 30 28
  let put (t : Nat) : State := updDom s d fun x => { x with ctl := BitVec.ofNat 32 (t * 2 ^ 28 + bits v 25 23 * 2 ^ 23) }
  if (domStates d).isEmpty then errCount s pgPwr
  else if !(domStates d).contains t then errCount (put (bits (domOf s d).ctl 30 28)) pgPwr
  else if !bit v 31 then put t
  else if domBusy s d then errCount s pgPwr
  else if s.rel.pfail then put t
  else if t = 0 then goRun (put t) d (bits v 25 24) answers
  else goDown (put t) d t (if bit v 23 && t == 3 then some test else none) answers

/-- The rows of the four targets. -/
def domainRow (t : Nat) (v : W32) (answers : List (Nat × Nat)) (test : SelfTest) (s : State) : Out :=
  whenever (bit v 31 && bits v 30 28 == t) s (domainGo s v answers test)
def execDomainRun (v : W32) (answers : List (Nat × Nat)) (s : State) : Out := domainRow 0 v answers {} s
def execDomainIdle (v : W32) (answers : List (Nat × Nat)) (s : State) : Out := domainRow 1 v answers {} s
def execDomainSleep (v : W32) (answers : List (Nat × Nat)) (s : State) : Out := domainRow 2 v answers {} s
def execDomainDeepSleep (v : W32) (answers : List (Nat × Nat)) (test : SelfTest) (s : State) : Out := domainRow 3 v answers test s

/-- The link of a port goes down, as LINK of its page shows. -/
def portDown (s : State) (page : Nat) : State :=
  if rbits s page 0x104 31 31 = 0 then s else raiseIrq (rput s page 0x104 31 31 0) page 2

/-- What entering a state does to the blocks of a domain (R431): an I/O domain in Sleep has its link down; a slice is idle; the clock of
a core stops. -/
def enterState (s : State) (d t : Nat) : State :=
  if domIsCore d then bankClocks s d
  else if domIsSlice d then setSlice s (d - 0x30) { sliceRec s (d - 0x30) with idle := true }
  else if t < 2 then s
  else if domIsLink d then
    let s1 := takeDown s (d - 0x50)
    setLink s1 (d - 0x50) { linkOf s1 (d - 0x50) with state := lkDown }
  else if domIsPipe d then updPipe s (d - 0x48) fun x => { x with rate := 0, lanes := 0 }
  else (domVioPages d).foldl portDown s

/-- A core as it is placed into service (R104, R143, R220, R360, R432): only its repair map and what its register pages hold is kept. -/
def freshCore (c : Core) : Core :=
  { repaired := c.repaired, cfg := c.cfg, mxaCfg := c.mxaCfg, strCfg := c.strCfg, mismatches := c.mismatches
    injCount := c.injCount, injMv := c.injMv, injNext := c.injNext
    fltPc := c.fltPc, fltAddr := c.fltAddr, fltMask := c.fltMask, chkPc := c.chkPc, chkSlot := c.chkSlot, chkDiff := c.chkDiff
    chkBound := c.chkBound, strAddr := c.strAddr, strSeq := c.strSeq, strTag := c.strTag, gfxAddr := c.gfxAddr, gfxTag := c.gfxTag }
def placeCore (s : State) (p : Nat) : State :=
  { updCore s p (fun c => { freshCore c with clkAt := s.now }) with
    rangeCache := tdel s.rangeCache p
    contexts := s.contexts.map fun c => (c.1, { c.2 with dmode := none }) }

/-- What leaving a state does. -/
def leaveState (s : State) (d was : Nat) : State :=
  if domIsCore d then
    aimRail (if was = 3 then placeCore s d else updCore s d fun c => { c with clkAt := s.now })
  else if domIsSlice d then setSlice s (d - 0x30) { sliceRec s (d - 0x30) with idle := false }
  else if domIsLink d && decide (2 ≤ was) && spkEn s (d - 0x50) then
    setLink s (d - 0x50) { linkOf s (d - 0x50) with state := lkTraining, lastValid := s.now }
  else s

/-- A wake latched during an entry is replayed at its end. -/
def replayWake (s : State) (d : Nat) (was : Domain) : State :=
  if was.wake then beginExit (rcount (updDom s d fun x => { x with wake := false }) pgPwr 0x124) d else s

/-- ENTRY_COMPLETE, within 100 us of the GO (R434, R435); the findings of a self-test are recorded (R458). -/
def execEntryComplete (d : Nat) (s : State) : Out :=
  onUnit (!(domStates d).isEmpty) <|
    let x := domOf s d
    match x.target with
    | none => .next s
    | some 0 => .next s
    | some t =>
      whenever (decide (s.now ≤ x.since + 100000)) s <|
        let s1 := match x.test with | some f => selfTestResult s d f | none => s
        let s2 := updDom (enterState s1 d t) d fun x => { x with state := t, target := none, test := none }
        replayWake (if domIsCore d then aimRail s2 else s2) d x

/-- ENTRY_ABORT: the domain returns to the state it left; a self-test has run to its end. Reason 0x10 comes 100 us after the GO. -/
def execEntryAbort (d reason : Nat) (s : State) : Out :=
  onUnit (!(domStates d).isEmpty && decide (0x10 ≤ reason) && decide (reason ≤ 0x12)) <|
    let x := domOf s d
    match x.target with
    | none => .next s
    | some 0 => .next s
    | some _ =>
      let s0 := if reason = 0x10 then atLeast s (x.since + 100000) else s
      let s1 := match x.test with | some f => selfTestResult s0 d f | none => s0
      let s2 := updDom s1 d fun x => { x with target := none, test := none }
      .next (replayWake (refusalRecord s2 d (domPage d) reason true) d x)

/-- DOMAIN_EXIT_COMPLETE: the exit time has passed (R431, R432). -/
def execDomainExitComplete (d : Nat) (s : State) : Out :=
  onUnit (!(domStates d).isEmpty) <|
    let x := domOf s d
    match x.target with
    | some 0 =>
      let s1 := atLeast s (x.since + exitTime s d)
      .next (leaveState (updDom s1 d fun x => { x with state := 0, target := none }) d x.state)
    | _ => .next s

/-- DOMAIN_WAKE: a wake source of a domain (R435, R436). -/
def execDomainWake (d : Nat) (s : State) : Out :=
  onUnit (!(domStates d).isEmpty) <| .next (wakeDomain s d)

/-- PCIE_L1_EXIT: the link leaves a substate of L1 and the host interface wakes (R436, Table 19-12). -/
def execPcieL1Exit (s : State) : Out :=
  let ps := rbits s 0x200 0x100 22 20
  .next (wakeDomain (if ps = 2 || ps = 3 then raiseIrq (rput s 0x200 0x100 22 20 0) 0x200 0 else s) 0x4D)

/-! ### The core rail (R439-R441) -/

/-- A core whose voltage the rail does not cover gives up its raise. -/
def cancelUncovered (s : State) (mv : Nat) : State :=
  allCores.foldl (fun s p => match (domOf s p).opWanted with
    | some o => if opVolt o + rbits s pgPwr 0x118 15 8 ≤ mv then s else updDom s p fun x => { x with opWanted := none }
    | none => s) s

/-- OP_CHANGE: Fragan holds a real-time partition at its declared operating point, but for the limit of R545; above the nominal point
it raises a best-effort core only while the measured total lies within the profile, and while no thermal threshold or hold stands
(R30, R31, R545). -/
def mayChange (s : State) (p op : Nat) : Bool :=
  let up := decide ((domOf s p).op < op)
  let held := decide (0 < s.power.thermal) || rbits s pgPwr 0x104 30 30 == 1
  match physPart s p with
  | some x =>
    if x.realTime then op == x.op && !(up && held)
    else (decide (op ≤ nominalOp (profileOf s)) || decide (s.power.total ≤ budgetMw (profileOf s))) && !(up && held)
  | none => !(up && held)
def execOpChange (d op : Nat) (s : State) : Out :=
  onUnit (domIsCore d && decide (op < 4)) <|
    whenever ((domOf s d).state == 0 && !domBusy s d && mayChange s d op) s (changeOp s d op)

/-- RAIL_COMMAND: the oldest VOUT_COMMAND is accepted, and a slewing target is superseded (R441); or it fails, and after three retries
the rail is faulted (R440). -/
def execRailCommand (acked : Bool) (s : State) : Out :=
  match s.power.command with
  | [] => .next s
  | t :: rest =>
    if s.power.faulted then .next s
    else if acked then
      let s1 : State := { s with power := { s.power with command := rest, tries := 0, accepted := t, slewing := true } }
      if s.power.slewing then .next (cancelUncovered (raiseIrq (rcount s1 pgPwr 0x120) pgPwr 4) t) else .next s1
    else if s.power.tries < 3 then .next { s with power := { s.power with tries := s.power.tries + 1 } }
    else
      let s1 : State := { s with power := { s.power with command := [], tries := 0, faulted := true } }
      .next (journal (raiseIrq s1 pgPwr 3) pgPwr 2 (natLe 2 t))

/-- RAIL_SETTLED: a READ_VOUT; within 10 mV of the accepted target, the pending raises that it covers go on and settle in 2 us. -/
def execRailSettled (level : Nat) (s : State) : Out :=
  let near := decide (s.power.accepted ≤ level + 10) && decide (level ≤ s.power.accepted + 10)
  if !near || !s.power.slewing then .next { s with power := { s.power with level } }
  else
    let s1 : State := { s with power := { s.power with level, slewing := false } }
    let ready := allCores.filter fun p => match (domOf s p).opWanted with
      | some o => decide (opVolt o + rbits s pgPwr 0x118 15 8 ≤ s.power.accepted)
      | none => false
    let s2 := if ready.isEmpty then s1 else { s1 with now := s1.now + 2000 }
    .next (ready.foldl (fun s p => match (domOf s p).opWanted with | some o => switchOp s p o | none => s) s2)

/-! ### Profile and budget (R442-R444, R31, R545) -/

/-- Core domains in Run or Idle that satisfy `f` go down one operating point; pending raises among them are given up. -/
def lowerCores (s : State) (f : Nat → Bool) : State :=
  (allCores.filter fun p => (domOf s p).state ≤ 1 && f p).foldl (fun s p => changeOp s p ((domOf s p).op - 1)) s

/-- Cores of the graphics class, and of the compute class. -/
def isGraphics (s : State) (p : Nat) : Bool := match physPart s p with | some x => x.graphics | none => false

/-- Class `k` of the measurement exceeds its cap. -/
def overCap (s : State) (k mw : Nat) : Bool :=
  match s.power.caps[k]? with | some c => decide (c < mw) | none => false

/-- POWER_MEASURE: a measurement period ends. Classes above their caps, the profile and a thermal threshold lower best-effort cores by
one operating point; with none left to lower, every domain is held and BUDGET is set (R31, R442, R443). -/
def execPowerMeasure (m : PowerReading) (s : State) : Out :=
  let s0 := atLeast s (s.power.measuredAt + rbits s pgPwr 0x100 15 8 * 1000000)
  let s1 : State := { s0 with power := { s0.power with
    compute := m.compute, graphics := m.graphics, hub := m.hub, io := m.io, total := m.total, level := m.vout
    measuredAt := s0.now, ioHeld := overCap s 3 m.io } }
  let ovr := decide (budgetMw (profileOf s) < m.total)
  let hot := decide (0 < s.power.thermal)
  let low (p : Nat) : Bool := bestEffort s p &&
    (ovr || hot || (if isGraphics s p then overCap s 1 m.graphics else overCap s 0 m.compute))
  let s2 := lowerCores s1 low
  let spent := (allCores.filter (bestEffort s)).all fun p => (domOf s p).op == 0 || decide (1 < (domOf s p).state)
  if ovr && spent then
    let s3 := rput s2 pgPwr 0x104 31 30 3
    .next (if rbits s pgPwr 0x104 31 31 = 1 then s3 else journal (raiseIrq s3 pgPwr 2) pgPwr 3 (natLe 4 m.total))
  else .next (if ovr then s2 else rput s2 pgPwr 0x104 31 30 0)

/-- A change of PWR_CFG.PROFILE to `n` is refused when a real-time partition needs an operating point above its nominal one (R444). -/
def profileOk (s : State) (n : Nat) : Bool := s.parts.all fun e => !e.2.realTime || decide (e.2.op ≤ nominalOp n)

/-- A write of PWR_CFG whose other fields have been stored: the profile takes effect once best-effort cores fit it; a refused one leaves
the previous in force and is journalled (R26, R444). -/
def profileWrite (s : State) (old : W32) : State :=
  let n := profileOf s
  if n = bits old 1 0 then s
  else if !profileOk s n then journal (errCount (rput s pgPwr 0x100 1 0 (bits old 1 0)) pgPwr) pgPwr 4 (natLe 1 n)
  else (allCores.filter fun p => bestEffort s p && decide (nominalOp n < (domOf s p).op)).foldl (fun s p => changeOp s p (nominalOp n)) s

end Sys2Proof.Machine
end

