-- ==== Sys2Proof/Machine/Reliability.lean ====
section
/-! DEFINITION. Spares and moves of logical cores, rotation, the domestique pairs, the journal and the health store
(17_reliability_and_self_test.md). -/
namespace Sys2Proof.Machine

/-! ### Moves of logical cores (R334, R335, R453-R459, R464) -/

/-- The spares in ascending index. -/
def spares (s : State) : List Nat := allCores.filter fun p => (roleOf s p).role == rlSpare

/-- The element with the least, or the greatest, key; the first of a tie. -/
def leastBy (key : Nat → Nat) (xs : List Nat) : Option Nat :=
  xs.foldl (fun o p => match o with | none => some p | some q => if key p < key q then some p else some q) none
def greatestBy (key : Nat → Nat) (xs : List Nat) : Option Nat :=
  xs.foldl (fun o p => match o with | none => some p | some q => if key q < key p then some p else some q) none

/-- When a core was last tested. -/
def testedAt (s : State) (p : Nat) : Nat := (roleOf s p).testAt

/-- PLANNED_MOVE: the map is written once the current job of the core has ended and the spare is prepared. The vacated core is Retired
when it failed the replay threshold (R454); in a rotation its test follows (R459). No map change is made while the power fails (R469). -/
def execPlannedMove (L spare : Nat) (s : State) : Out :=
  onUnit (decide (L < 32) && decide (spare < 36)) <|
    match physOf s L with
    | none => .next s
    | some old =>
      whenever ((roleOf s spare).role == rlSpare && (domOf s spare).state == 0 && !domBusy s spare && (coreOf s old).jobs.isEmpty
          && !s.rel.pfail) s <|
        let rot := s.rel.rotating == some (L, spare)
        let off := s.rel.moveOff.contains old
        let s1 := placeCore s spare
        let s2 := if rot then putMap s1 L spare else setMap s1 L spare
        let r := { roleOf s2 spare with role := rlService }
        let s3 := if rot then putRole s2 spare r else setRole s2 spare r
        let s4 := if off then setRole s3 old { roleOf s3 old with role := rlRetired } else s3
        let s5 : State := { s4 with rel := { s4.rel with
          moveOff := s4.rel.moveOff.filter (· != old)
          rotating := if rot then none else s4.rel.rotating
          vacated := if rot && !off then some (L, old) else s4.rel.vacated } }
        changeOp (rbump s5 4 0x120 15 0 1) spare (partOp s5 L)

/-- A logical core for which no spare remains is withdrawn; a real-time partition is owed another (R464). -/
def withdraw (s : State) (L : Nat) : State :=
  let s1 := setMap s L 0x3F
  match s.parts.find? fun e => bit e.2.cores L with
  | some e => if e.2.realTime then settleOwed { s1 with rel := { s1.rel with owed := s1.rel.owed ++ [e.1] } } else s1
  | none => s1

/-- Whether a physical core may no longer serve its logical core. -/
def outOfService (s : State) (p : Nat) : Bool := (roleOf s p).role == rlRetired || (roleOf s p).role == rlFailed

/-- UNPLANNED_SUBSTITUTION: the spare with the most recent passing test, the lowest index on a tie, is brought to Run and mapped; a
spare that a rotation step has powered serves instead, and the step is abandoned (R453, R472). Its exit time passes. -/
def execUnplannedSubstitution (L : Nat) (s : State) : Out :=
  onUnit (decide (L < 32)) <|
    match physOf s L with
    | none => .next s
    | some old =>
      if !outOfService s old || s.rel.pfail then .next s
      else
        let chosen := match s.rel.rotating with
          | some r => some r.2
          | none => greatestBy (testedAt s) (spares s)
        match chosen with
        | none => .next (withdraw s L)
        | some p =>
          let x := domOf s p
          let s1 := if x.state = 0 then s else { s with now := s.now + exitTime s p }
          let s2 := placeCore (updDom s1 p fun x => { x with state := 0, target := none, wake := false, test := none, op := partOp s1 L }) p
          let s3 := setMap (setRole s2 p { roleOf s2 p with role := rlService }) L p
          .next (aimRail (rbump { s3 with rel := { s3.rel with
            rotating := none
            moveOff := s3.rel.moveOff.filter (· != old) } } 4 0x120 31 16 1))

/-- Physical cores in rotation: those in the Service and Spare roles. -/
def rotationCores (s : State) : List Nat := allCores.filter fun p => (roleOf s p).role == rlService || (roleOf s p).role == rlSpare

/-- ROTATION_STEP: a step begins: the spare with the oldest test is woken for the logical core whose physical core has the oldest one;
PLANNED_MOVE and the self-test of the vacated core follow. It waits for a self-test or an earlier step to end (R19, R459, R472). -/
def execRotationStep (s : State) : Out :=
  let n := (rotationCores s).length
  let mapped := (rotationCores s).filter fun p => (logicalOf s p).isSome
  if rbits s 4 0x100 31 31 = 0 || s.rel.pfail || s.rel.rotating.isSome || s.rel.vacated.isSome
      || (allCores.any fun p => (domOf s p).test.isSome) then .next s
  else match leastBy (testedAt s) (spares s), leastBy (testedAt s) mapped with
    | some spare, some p =>
      match logicalOf s p with
      | some L =>
        if (poweredSpares s).any (· != spare) then .next s
        else
          let s1 := atLeast s (s.rel.rotatedAt + rbits s 4 0x100 23 16 * 60000000000 / n)
          let s2 : State := { s1 with rel := { s1.rel with rotating := some (L, spare), rotatedAt := s1.now } }
          .next (if (domOf s2 spare).state = 0 then s2 else beginExit (updDom s2 spare fun x => { x with op := partOp s2 L }) spare)
      | none => .next s
    | _, _ => .next s

/-- STRIKE_EXPIRY: a core's strike is 30 days old (R455). -/
def execStrikeExpiry (p : Nat) (s : State) : Out :=
  onUnit (decide (p < 36)) <|
    let r := roleOf s p
    whenever (decide (0 < r.strikes)) s <|
      let s1 := atLeast s (r.strikeAt + days30)
      setRole s1 p { r with strikes := 0 }

/-! ### Domestique pairs (R460-R462) -/

/-- Beats of a pair: one every 1 ms while it serves (Table 18-12); none before the ROM's start. -/
def pairBeats (s : State) (x : Pair) : Nat :=
  if x.state = 2 && s.boot.started then x.beats + (s.now - max x.beatAt s.boot.startedAt) / 1000000 else x.beats

/-- A mismatch stops a pair that serves; its work passes to the others (R460). -/
def stopPair (s : State) (i : Nat) : State :=
  let x := { pairOf s i with beats := pairBeats s (pairOf s i) }
  updateHealth (raiseIrq (setPair s i { x with state := 3, mismatches := satAdd 15 x.mismatches 1, stoppedAt := s.now }) 4 1)
def execPairMismatch (pair : Nat) (s : State) : Out :=
  onUnit (decide (pair < 4)) <| whenever ((pairOf s pair).state == 2) s (stopPair s pair)

/-- PAIR_INJECTION: a comparator that reports agreement has failed (R461). -/
def execPairInjection (pair : Nat) (agreed : Bool) (s : State) : Out :=
  onUnit (decide (pair < 4)) <|
    whenever ((pairOf s pair).state == 2) s (if agreed then stopPair s pair else rwrap s (pgHub pair) 0x10C)

/-- PAIR_TEST_END: 5 ms after the stop; a pass returns the pair with a strike, a failure or a second mismatch within 30 days retires it
for good (R462). -/
def execPairTestEnd (pair : Nat) (passed : Bool) (s : State) : Out :=
  onUnit (decide (pair < 4)) <|
    let x := pairOf s pair
    whenever (x.state == 3) s <|
      let s1 := atLeast s (x.stoppedAt + 5000000)
      let again := decide (0 < x.strikes) && decide (x.stoppedAt < x.strikeAt + days30)
      commitPair s1 pair (if passed && !again then { x with state := 2, strikes := 1, strikeAt := x.stoppedAt, beatAt := s1.now } else { x with state := 4 })

/-! ### The journal and the health store (R465-R470) -/

/-- JOURNAL_RECORD -/
def execJournalRecord (r : JournalInput) (s : State) : Out :=
  onUnit (decide (r.kind < 256) && decide (r.severity < 4)) <| .next (journalAs s r.page r.kind r.severity r.info)

/-- The oldest waiting record is committed; in a full ring it takes the place of the oldest, which is counted. -/
def commitOne (s : State) : State :=
  match s.rel.hsPending with
  | [] => s
  | r :: rest =>
    if s.rel.hsRing.length < hsRingSize then { s with rel := { s.rel with hsPending := rest, hsRing := s.rel.hsRing ++ [r] } }
    else rbump { s with rel := { s.rel with hsPending := rest, hsRing := s.rel.hsRing.tail ++ [r] } } 4 0x12C 15 8 1
def commitAll : Nat → State → State
  | 0, s => s
  | n + 1, s => commitAll n (commitOne s)

/-- HEALTH_STORE_COMMIT -/
def execHealthStoreCommit (s : State) : Out := .next (commitOne s)

/-- JOURNAL_TOKEN: 8 s after the last one; the bucket holds 64. -/
def execJournalToken (s : State) : Out :=
  let s1 := atLeast s (s.rel.tokenAt + 8000000000)
  .next { s1 with rel := { s1.rel with tokens := min 64 (s1.rel.tokens + 1), tokenAt := s1.now } }

/-- Generation of a state copy, 0 for none. -/
def copyGen (c : Option StateCopy) : Nat := match c with | some c => c.gen | none => 0

/-- The valid copy with the higher generation (R467). -/
def bestCopy (s : State) : Option StateCopy :=
  if copyGen s.rel.copyB > copyGen s.rel.copyA then s.rel.copyB else s.rel.copyA

/-- Committed STATE records that a copy does not hold yet. -/
def newerStates (s : State) : List Record :=
  let upTo := match bestCopy s with | some c => c.upTo | none => 0
  s.rel.hsRing.filter fun r => r.kind == stateKind && decide (upTo ≤ r.seq)

/-- STATE_COPY_REWRITE: the older copy is rewritten once a state change has been committed, or 64 rotation steps have gathered (R467);
not while the power fails (R469). -/
def execStateCopyRewrite (s : State) : Out :=
  whenever (!s.rel.pfail && !(s.rel.hsPending.any fun r => r.kind == stateKind)
      && (!(newerStates s).isEmpty || decide (64 ≤ s.rel.rotSteps))) s <|
    let c : StateCopy := { gen := max (copyGen s.rel.copyA) (copyGen s.rel.copyB) + 1, upTo := s.rel.nextSeq
                           map := s.map, roles := s.roles, pairs := s.pairs, health := rbits s 4 0x104 31 30
                           rows := s.cores.map fun c => (c.1, c.2.repaired) }
    { s with rel := if copyGen s.rel.copyB < copyGen s.rel.copyA then { s.rel with copyB := some c, rotSteps := 0 }
                    else { s.rel with copyA := some c, rotSteps := 0 } }

/-- POWER_FAIL: PFAIL is raised and every waiting record is committed (R469). -/
def execPowerFail (s : State) : Out :=
  whenever (!s.rel.pfail && s.pins.powered) s <|
    let s1 := raiseIrq { s with rel := { s.rel with pfail := true } } 4 3
    commitAll s1.rel.hsPending.length s1

/-- POWER_RESTORE (R542) -/
def execPowerRestore (s : State) : Out :=
  whenever s.rel.pfail s (journal { s with rel := { s.rel with pfail := false } } 4 5)

end Sys2Proof.Machine
end

