-- ==== Sys2Proof/Machine/Reset.lean ====
section
/-! DEFINITION. What a device reset keeps, the restoration of the health store's state at a start, and the fall of the supplies
(R8, R18, R227, R245, R467, R470, R541). -/
namespace Sys2Proof.Machine

/-- The health store as a reset leaves it: its journal ring and state copies; what waited is lost (R470). Sequence numbers go on. -/
def keptRel (r : Rel) : Rel :=
  let last := match r.hsRing.getLast? with | some x => x.seq + 1 | none => 0
  let upTo := max (match r.copyA with | some c => c.upTo | none => 0) (match r.copyB with | some c => c.upTo | none => 0)
  { hsRing := r.hsRing, copyA := r.copyA, copyB := r.copyB, nextSeq := max last upTo }

/-- Fuses, flash, and the boot area of the health store. -/
def keptBoot (b : Boot) (cause : Nat) : Boot :=
  { fuses := b.fuses, dir0 := b.dir0, dir1 := b.dir1, slotA := b.slotA, slotB := b.slotB, config := b.config, graphImage := b.graphImage
    fails := b.fails, glitches := b.glitches, glitchTotal := b.glitchTotal, dbgFails := b.dbgFails, lockUntil := b.lockUntil
    glitch := if cause = 5 then b.glitch else 0, cause }

/-- A device reset with a cause of Table 18-6: every register takes its reset value (R8), every key is destroyed (R227) and all volatile
state is lost (R470, R541); fuses, flash, the health store and the always-on block stay. The device timestamp runs on, and the host's
memory is the host's. -/
def deviceReset (s : State) (cause : Nat) : State :=
  { State.reset with
    pending := s.pending
    free := s.free
    now := s.now
    mem := s.mem.filter fun e => isHost e.1
    rel := keptRel s.rel
    boot := keptBoot s.boot cause
    pins := { s.pins with svcReqN := true, amberBlink := false } }

/-- A STATE record is applied to what a state copy holds (R467). -/
def applyState (c : StateCopy) (r : Record) : StateCopy :=
  let b (i : Nat) : Nat := (r.info.getD i 0).toNat
  let n (i k : Nat) : Nat := leNat ((r.info.drop i).take k)
  let role : CoreRole := { role := b 2, strikes := b 3, test := b 4, repair := b 5, strikeAt := n 6 8, testAt := n 14 8 }
  let pair : Pair := { state := if b 2 = 1 then 4 else 2, strikes := b 3, strikeAt := n 4 8 }
  match b 0 with
  | 0 => { c with roles := tput c.roles (b 1) role }
  | 1 => { c with map := tput c.map (b 1) (b 2) }
  | 2 => { c with pairs := tput c.pairs (b 1) pair }
  | _ => { c with rows := tput c.rows (b 1) (tget [] c.rows (b 1) ++ [n 2 2]) }

/-- The manufacture record, in force while the health store holds no copy (R18, R465). -/
def manufacture : StateCopy :=
  { gen := 0, upTo := 0, map := State.reset.map, roles := State.reset.roles, pairs := [], health := 0, rows := [] }

/-- Fragan restores the map, the roles, the pairs and the repair maps, and sets the health state (R18, R467, R471). -/
def restoreHealth (s : State) : State :=
  let c := (newerStates s).foldl applyState ((bestCopy s).getD manufacture)
  let s1 : State := { s with
    map := c.map
    roles := c.roles
    pairs := c.pairs.map fun x => (x.1, if x.2.state = 4 then x.2 else { x.2 with state := 2 }) }
  updateHealth (c.rows.foldl (fun s x => updCore s x.1 fun k => { k with repaired := x.2 }) s1)

/-- The rails go off, and with them everything but what a reset keeps and the always-on block holds; the power-down order takes seven
steps of 2 ms (R540). -/
def railsOff (s : State) : State :=
  let s1 := deviceReset s s.boot.cause
  { s1 with pins := { s1.pins with railEn := 0, powered := false, rising := false } }
def downTime : Nat := 14000000

/-- POWER_LOSS: at the worst instant all volatile state is lost, and of the health store at most the record being written (R470). The
always-on domain falls too; the power-up order follows the return of VDD_AON (R538). -/
def execPowerLoss (s : State) : Out :=
  let s1 := railsOff { s with boot := { s.boot with cause := 0 } }
  .next { s1 with pins := { s1.pins with rising := true, attempts := 0, wakeLatched := false, tripped := false, coolSince := none
                                         thermTripN := true, aonTemp := 0, aonSince := s1.now } }

end Sys2Proof.Machine
end

