-- ==== Sys2Proof/Machine/Debug.lean ====
section
/-! DEFINITION. Fuses, lifecycle, the debug port's authentication, the random generator and the glitch detectors (R475, R476,
R487-R490). -/
namespace Sys2Proof.Machine

/-- The SEC page, and its mark in a journal record. -/
def pgSec : Nat := 2

/-! ### Fuses (R475, Table 18-1) -/

/-- Whether a fuse is blown. -/
def fuse (s : State) (i : Nat) : Bool := tget false s.boot.fuses i

/-- The value of `n` fuses from `lo`, the lowest first; a field that meets a group with an uncorrectable error reads unprogrammed. -/
def fuseField (s : State) (lo n : Nat) : Nat :=
  if s.boot.fuseLost.any fun g => decide (g * 64 < lo + n) && decide (lo < g * 64 + 64) then 0
  else (List.range n).foldl (fun v i => if fuse s (lo + i) then v + 2 ^ i else v) 0

/-- Fuses from `lo` that are blown, of `n`. -/
def fuseCount (s : State) (lo n : Nat) : Nat := popCount n (fuseField s lo n)

/-- The state with `n` fuses from `lo` blown; none is ever cleared. -/
def blow (s : State) (lo n : Nat) : State :=
  { s with boot := { s.boot with fuses := (List.range n).foldl (fun t i => tput t (lo + i) true) s.boot.fuses } }

/-- The lifecycle: 0 MANUFACTURE, 1 SECURED, 2 RETURNED (Table 18-2). -/
def lifecycle (s : State) : Nat :=
  let n := fuseCount s 4680 8
  if n = 0 then 0 else if n ≤ 4 then 1 else 2

/-- The security version floors. -/
def fwFloor (s : State) : Nat := fuseCount s 4104 256
def grFloor (s : State) : Nat := fuseCount s 4360 256

/-- Whether the device is an HX one: the majority of three fuses without check bits. -/
def isHx (s : State) : Bool := decide (2 ≤ ([5280, 5281, 5282].filter (fuse s)).length)

/-- SIGNED_VENDOR_REQUEST: the lifecycle becomes RETURNED, and every bit of DUS is blown (Table 18-2). -/
def execSignedVendorRequest (signed : Bool) (s : State) : Out :=
  whenever signed s (blow (blow s 4680 8) 3848 256)

/-! ### Debug levels (R488, R489) -/

/-- The 256 bytes of SEC_DBG_RESP. -/
def debugResponse (s : State) : List Byte := (List.range 64).flatMap fun i => natLe 4 (rget s pgSec (0x200 + 4 * i)).toNat

/-- Bytes of a P-384 public key, and whether its digest is the 384 bits of fuses from `lo`. -/
def keyBytes : Nat := 97
def keyMatches (s : State) (key : List Byte) (lo : Nat) : Bool := (Config.sha384 key).toNat == fuseField s lo 384

/-- A level is granted for the partitions of a mask. -/
def grantLevel (s : State) (level mask : Nat) : State :=
  { s with boot := { s.boot with dbgLevel := level, dbgMask := BitVec.ofNat 8 mask } }

/-- Level 3 is open in MANUFACTURE and RETURNED only (Table 18-9). -/
def levelOpen (s : State) (level : Nat) : Bool := level != 3 || lifecycle s != 1

/-- SEC_DBG_CTL.REQ: a challenge is issued, and the one that is open stands when another is asked for (Table 18-11). In MANUFACTURE
the level opens without authentication (Table 18-2). -/
def debugRequest (s : State) (level mask : Nat) : State :=
  if s.boot.challenge.isSome then errCount s pgSec
  else if lifecycle s = 0 then grantLevel s level mask
  else { s with free := s.free + 1, boot := { s.boot with challenge := some (Config.challenge s.free) } }

/-- Seconds of the lock-out after the nth failure in a row. -/
def lockout (n : Nat) : Nat := min (2 ^ n) 4096

/-- SEC_DBG_CTL.CHK: the key must hash to DKH and the signature must verify; a failure locks checks out, a success clears the count.
A check with no challenge open, or during a lock-out, is not made and is counted. -/
def debugCheck (s : State) (level mask : Nat) : State :=
  match s.boot.challenge with
  | none => errCount s pgSec
  | some c =>
    if s.now < s.boot.lockUntil then errCount s pgSec
    else
      let r := debugResponse s
      let s1 : State := { s with boot := { s.boot with challenge := none } }
      if levelOpen s level && keyMatches s (r.take keyBytes) 3464 && Config.debugSignature (r.drop keyBytes) c (fuseField s 4616 64) level mask then
        grantLevel { s1 with boot := { s1.boot with dbgFails := 0 } } level mask
      else
        let n := satAdd 255 s.boot.dbgFails 1
        { s1 with boot := { s1.boot with dbgFails := n, lockUntil := s.now + lockout n * 1000000000 } }

/-- What a write of SEC_DBG_CTL does once LEVEL and PMASK are stored: LEVEL 0 ends the level; else REQ, and then CHK, are taken. -/
def debugWrite (s : State) (v : W32) : State :=
  let level := bits v 29 28
  let mask := bits v 7 0
  if level = 0 then { s with boot := { s.boot with dbgLevel := 0, dbgMask := 0, challenge := none } }
  else
    let s1 := if bit v 31 then debugRequest s level mask else s
    if bit v 30 then debugCheck s1 level mask else s1

/-- DEBUG_LOCKOUT_EXPIRY -/
def execDebugLockoutExpiry (s : State) : Out := .next (atLeast s s.boot.lockUntil)

/-! ### The random generator and the glitch detectors (R487, R490) -/

/-- RNG_FAIL: SEC_RNG_STAT.FAIL is set; partition creation, window opening and admission are refused until a reset. -/
def execRngFail (s : State) : Out := .next { s with boot := { s.boot with rngFailed := true } }

/-- GLITCH_TRIP: detectors 1-3 rails, 4 clock, 5 temperature. The reset is counted in the health store; with a thermal trip in the same
clock the trip's power-down goes on and the glitch is counted (Table 21-9). -/
def execGlitchTrip (detector : Nat) (s : State) : Out :=
  onUnit (decide (1 ≤ detector) && decide (detector ≤ 5)) <|
    let s1 : State := { s with boot := { s.boot with
      glitch := detector, glitches := s.boot.glitches ++ [s.now], glitchTotal := satAdd 0xFFFF s.boot.glitchTotal 1 } }
    if s.pins.tripped then .next s1
    else if s.pins.powered then .next (deviceReset s1 5)
    else .next s1

end Sys2Proof.Machine
end

