-- ==== Sys2Proof/Machine/Counters.lean ====
section
/-! DEFINITION. What software does with the performance counters: event selection, freeze, snapshot, preset, and the two Hub commands
(20_performance_counters.md, R518-R531). -/
namespace Sys2Proof.Machine

/-- Event codes of a kind (Tables 20-2, 20-3), and its sources (Table 20-1). -/
def evListed (kind evt : Nat) : Bool :=
  match kind with
  | 0 => ([0, 1, 2, 3, 4, 5, 0x10, 0x11, 0x12, 0x13, 0x14, 0x15, 0x16, 0x17, 0x20, 0x21, 0x22, 0x23, 0x24, 0x30, 0x31, 0x40, 0x41]).contains evt
  | 1 => decide (evt ≤ 2)
  | 2 => decide (evt ≤ 2)
  | 3 => decide (evt ≤ 6)
  | 4 => decide (evt ≤ 1)
  | 5 => decide (evt ≤ 1)
  | 6 => decide (evt = 0)
  | 7 => decide (evt ≤ 1)
  | 8 => decide (evt ≤ 1)
  | 9 => decide (evt ≤ 2)
  | _ => false
def evSources : Nat → Nat
  | 0 => 32
  | 1 => 32
  | 2 => 16
  | 3 => 8
  | 4 => 1
  | 5 => 16
  | 6 => 4
  | 7 => 4
  | 8 => 8
  | 9 => 1
  | _ => 0

/-- Counters other than `k` that a source feeds. -/
def fedBy (s : State) (k kind inst : Nat) : Nat :=
  ((List.range 64).filter fun j => j != k && !pmcHigh s j && (let v := (pmcCtr s j).sel; evEn v && evKind v == kind && evInst v == inst)).length

/-- Whether an event selection names a listed event of an existing source, and its enable makes no source feed a ninth counter (R519). -/
def evNamed (v : W32) : Bool := evListed (evKind v) (evCode v) && decide (evInst v < evSources (evKind v))
def evRoom (s : State) (k : Nat) (v : W32) : Bool := !evEn v || pmcHigh s k || decide (fedBy s k (evKind v) (evInst v) < 8)

/-- A written event selection of counter `k` as R6, R7 and R519 leave it, and whether a field was refused: CHAIN of an odd counter is
reserved; a refused selection keeps EN, KIND, INST and EVT. -/
def evFix (s : State) (k : Nat) (v : W32) : W32 × Bool :=
  let w := (if k % 2 = 1 then clrBit v 29 else v) &&& 0xEF3F00FF#32
  if evNamed w && evRoom s k w then (w, false)
  else
    let old := (pmcCtr s k).sel
    (putBits old 30 29 (bits w 30 29), true)

/-- The counter that PMC_CNT_SEL names. -/
def pmcSel (s : State) : Nat := rbits s pmcPage 0x108 5 0

/-- A write of PMC_EVSEL. -/
def evselWrite (s : State) (v : W32) : State :=
  let k := pmcSel s
  let (w, bad) := evFix s k v
  let s1 := setCtr s k { pmcCtr s k with sel := w }
  if bad then errCount s1 pmcPage else s1

/-- A snapshot (R524). -/
def snapshot (s0 : State) : State :=
  let s := pmcTouch s0
  { s with pmc := { s.pmc with
    shadow := s.pmc.counters, shadowFixed := s.pmc.fixed, shadowOvf := s.pmc.ovf, shadowAt := s.now, snapSeq := s.pmc.snapSeq + 1 } }

/-- A write of PMC_CFG whose fields have been stored: FREEZE stops and resumes counting, SNAP takes a snapshot (R523, R524). -/
def pmcCfgWrite (s : State) (v : W32) : State :=
  let s1 := if bit v 31 then { pmcTouch s with pmc := { (pmcTouch s).pmc with frozen := true } }
    else { s with pmc := { s.pmc with frozen := false } }
  if bit v 30 then snapshot s1 else s1

/-- PMC_CMD: PRESET loads the selected counter; CLR_ALL zeros every counter and overflow bit; the counters themselves change under a
freeze by a preset only (R523). -/
def pmcCmdWrite (s : State) (v : W32) : State :=
  let s1 :=
    if !bit v 30 then s
    else if s.pmc.frozen then { s with pmc := { s.pmc with ovf := 0, fovf := 0 } }
    else { s with pmc := { s.pmc with
      counters := s.pmc.counters.map fun c => (c.1, { c.2 with value := 0 }), fixed := [], ovf := 0, fovf := 0 } }
  if bit v 31 then
    let k := pmcSel s1
    setCtr s1 k { pmcCtr s1 k with
      value := BitVec.ofNat 48 ((rget s1 pmcPage 0x110).toNat + rbits s1 pmcPage 0x114 15 0 * 2 ^ 32) }
  else s1

/-- A counter with its overflow bit, and the counts of a logical core, as the shadow bank holds them. -/
def shadowCounter (s : State) (k : Nat) : Nat :=
  (tget {} s.pmc.shadow k : Counter).value.toNat + (if bit s.pmc.shadowOvf k then 2 ^ 48 else 0)
def shadowCore (s : State) (L : Nat) : SlotCounts := tget {} s.pmc.shadowFixed L

/-! ### The Hub commands (R527) -/

/-- PMC_SET; a preset of zero leaves the count. -/
def pmcSetBody (s : State) (_ : Nat) (w : List W64) : HubAns :=
  let k := arg w 1 5 0
  let v : W32 := BitVec.ofNat 32 (arg w 1 63 32)
  let e := (if k % 2 = 1 then clrBit v 29 else v) &&& 0xEF3F00FF#32
  if !evNamed e || !evRoom s k e then .refuse 2
  else
    let x := pmcCtr s k
    .done (setCtr s k { sel := e, value := if arg w 2 47 0 = 0 then x.value else BitVec.ofNat 48 (arg w 2 47 0) }) []
def execPmcSet : Nat → State → Out := hubRun 0x40 true [fm 63 32 + fm 5 0, fm 47 0] pmcSetBody

/-- Whether a function may read what lies in a partition. -/
def mayReadPart (s : State) (vi : Nat) (i : Option Nat) : Bool := match i with | some i => bit (viOf s vi).parts i | none => false

/-- The partition that owns a logical core. -/
def partIdOf (s : State) (L : Nat) : Option Nat := (s.parts.find? fun e => bit e.2.cores L).map (·.1)

/-- Whether a function may read a counter: its source lies in a partition that the function may use; the physical function reads
every counter. -/
def mayReadCounter (s : State) (vi k : Nat) : Bool :=
  let v := (pmcCtr s k).sel
  vi == 0 || (match evKind v with
    | 0 => mayReadPart s vi (partIdOf s (evInst v))
    | 3 => mayReadPart s vi (some (evInst v))
    | _ => false)

/-- PMC_READ: four counts of 48 bits, RET lowest; or a counter with its overflow bit. -/
def pmcReadBody (s : State) (vi : Nat) (w : List W64) : HubAns :=
  let n := arg w 1 5 0
  if arg w 1 8 8 = 1 then
    if !mayReadCounter s vi n then .refuse 3
    else
      let s1 := snapshot s
      .done s1 [BitVec.ofNat 64 (shadowCounter s1 n)]
  else if n ≥ 32 then .refuse 2
  else if !(vi == 0 || mayReadPart s vi (partIdOf s n)) then .refuse 3
  else
    let s1 := snapshot s
    let c := shadowCore s1 n
    let x := c.ret.toNat + c.waste.toNat * 2 ^ 48 + c.front.toNat * 2 ^ 96 + c.back.toNat * 2 ^ 144
    .done s1 ([0, 1, 2].map fun i => BitVec.ofNat 64 (x / 2 ^ (64 * i)))
def execPmcRead : Nat → State → Out := hubRun 0x41 false [fm 8 8 + fm 5 0] pmcReadBody

end Sys2Proof.Machine
end

