-- ==== Sys2Proof/Machine/Images.lean ====
section
/-! DEFINITION. Boot images: the header of Table 18-4 and the checks of R478. -/
namespace Sys2Proof.Machine

/-- A header field of `n` bytes from byte `lo`, little-endian. -/
def hdrNat (m : Image) (lo n : Nat) : Nat := leNat ((m.header.drop lo).take n)
def hdrBytes (m : Image) (lo n : Nat) : List Byte := (m.header.drop lo).take n

/-- Header fields. -/
def imgMagic (m : Image) : List Byte := hdrBytes m 0 4
def imgFormat (m : Image) : Nat := hdrNat m 4 2
def imgKind (m : Image) : Nat := hdrNat m 6 2
def imgSvn (m : Image) : Nat := hdrNat m 8 4
def imgStatev (m : Image) : Nat := hdrNat m 12 4
def imgStatemin (m : Image) : Nat := hdrNat m 16 4
def imgLen (m : Image) : Nat := hdrNat m 24 8
def imgDigest (m : Image) : List Byte := hdrBytes m 32 48
def imgPubkey (m : Image) : List Byte := hdrBytes m 80 97
def imgSig (m : Image) : List Byte := hdrBytes m 272 96

/-- Bytes of a digest. -/
def digestBytes (v : BitVec 384) : List Byte := natLe 48 v.toNat

/-- Kinds of image. -/
def ikFragan : Nat := 1
def ikConfig : Nat := 2
def ikGraph : Nat := 3

/-- Whether a key of the class matches an unrevoked hash; in MANUFACTURE images are checked against VKH0 only (Tables 18-1, 18-2). -/
def keyAccepted (s : State) (kind : Nat) (key : List Byte) : Bool :=
  let slot (base revoke k : Nat) : Bool := keyMatches s key (base + 384 * k) && !fuse s (revoke + k)
  if lifecycle s = 0 then slot 0 1536 0
  else if kind = ikFragan then (List.range 4).any (slot 0 1536)
  else (List.range 4).any (slot 1540 3076)

/-- The fuse floor of a kind. -/
def svnFloor (s : State) (kind : Nat) : Nat := if kind = ikFragan then fwFloor s else grFloor s

/-- The image is what it says it is: every check of R478 but the floor. -/
def imageSound (s : State) (m : Image) (kind : Nat) : Bool :=
  m.header.length == 512 && imgMagic m == [0x43, 0x5A, 0x46, 0x57] && imgFormat m == 1 && imgKind m == kind
  && decide (imgSvn m ≤ 256) && imgLen m == m.body.length && decide (m.body.length ≤ 16 * 2 ^ 20 - 512)
  && keyAccepted s kind (imgPubkey m) && Config.ecdsaOk (imgPubkey m) (m.header.take 272) (imgSig m)
  && imgDigest m == digestBytes (Config.sha384 m.body)

/-- An image is accepted (R478). -/
def imageAccepted (s : State) (m : Image) (kind : Nat) : Bool := imageSound s m kind && decide (svnFloor s kind ≤ imgSvn m)

/-- SVN of an image that may be absent. -/
def svnOf (m : Option Image) : Nat := match m with | some m => imgSvn m | none => 0

end Sys2Proof.Machine
end

