-- ==== Sys2Proof/Machine/Raster.lean ====
section
/-! DEFINITION. The raster pipeline (12_raster_pipeline.md): draw batches, triangle setup and binning, the bin-list pool, bins, fragment
groups, depth and blending. -/
namespace Sys2Proof.Machine

/-! ### Descriptor fields (Tables 12-2 to 12-4) -/

def psWidth (p : List W64) : Nat := bits (p.getD 0 0) 63 48
def psHeight (p : List W64) : Nat := bits (p.getD 0 0) 47 32
def psFast (p : List W64) : Bool := bit (p.getD 0 0) 31
def psNcol (p : List W64) : Nat := bits (p.getD 0 0) 30 28
def psFlush (p : List W64) : Bool := bit (p.getD 0 0) 27
def psDload (p : List W64) : Nat := bits (p.getD 0 0) 26 25
def psDstore (p : List W64) : Bool := bit (p.getD 0 0) 24
def psPool (p : List W64) : Nat := bits (p.getD 1 0) 47 0
def psFlags (p : List W64) : Nat := bits (p.getD 2 0) 47 0
def psDclear (p : List W64) : Nat := bits (p.getD 3 0) 63 32
def psDbase (p : List W64) : Nat := bits (p.getD 3 0) 27 0 * 0x100000
def psStore (p : List W64) (n : Nat) : Bool := bit (p.getD (4 + 3 * n) 0) 54
def psLoad (p : List W64) (n : Nat) : Nat := bits (p.getD (4 + 3 * n) 0) 53 52
def psFmt (p : List W64) (n : Nat) : Nat := bits (p.getD (4 + 3 * n) 0) 51 48
def psBase (p : List W64) (n : Nat) : Nat := bits (p.getD (4 + 3 * n) 0) 47 0
def psPitch (p : List W64) (n : Nat) : Nat := bits (p.getD (5 + 3 * n) 0) 31 0
def psClear (p : List W64) (n : Nat) : Nat := (p.getD (6 + 3 * n) 0).toNat

/-- Bytes of a pixel of a colour format (Table 12-4). -/
def cfmtBytes (f : Nat) : Nat := if f = 2 then 8 else 4

/-- Whether a render-pass descriptor is as Table 12-2 has it. -/
def passOk (p : List W64) : Bool :=
  let z (i hi lo : Nat) : Bool := bits (p.getD i 0) hi lo == 0
  decide (1 ≤ psWidth p) && decide (psWidth p ≤ 8192) && decide (1 ≤ psHeight p) && decide (psHeight p ≤ 8192)
  && decide (psNcol p ≤ 4) && z 0 23 0
  && (if psFast p then decide (psDload p < 2) else z 0 26 24 && z 3 27 0)
  && z 1 63 48 && psPool p % 64 == 0 && z 2 63 48 && psFlags p % 128 == 0 && z 3 31 28
  && (decide (psDclear p ≤ 0x3F800000) || psDclear p == 0x80000000)
  && (List.range 4).all fun n =>
    if n < psNcol p then
      z (4 + 3 * n) 63 55 && psLoad p n != 3 && decide (psFmt p n < 4) && psBase p n % 128 == 0 && z (5 + 3 * n) 63 32
      && psPitch p n % 128 == 0 && decide (psWidth p * cfmtBytes (psFmt p n) ≤ psPitch p n)
    else z (4 + 3 * n) 63 0 && z (5 + 3 * n) 63 0 && z (6 + 3 * n) 63 0

def drNprim (d : List W64) : Nat := bits (drawWord d 3) 31 0
def drIdx (d : List W64) : Nat := bits (drawWord d 4) 47 0
def drNattr (d : List W64) : Nat := bits (drawWord d 5) 52 48
def drVout (d : List W64) : Nat := bits (drawWord d 5) 47 0
def drWmask (d : List W64) : BitVec 4 := BitVec.ofNat 4 (bits (drawWord d 6) 15 12)
def drBlend (d : List W64) : Nat := bits (drawWord d 6) 10 8
def drDisc (d : List W64) : Bool := bit (drawWord d 6) 7
def drCull (d : List W64) : Nat := bits (drawWord d 6) 6 5
def drDcmp (d : List W64) : Nat := bits (drawWord d 6) 4 2
def drDwrite (d : List W64) : Bool := bit (drawWord d 6) 1
def drDtest (d : List W64) : Bool := bit (drawWord d 6) 0
def drY1 (d : List W64) : Nat := bits (drawWord d 7) 63 48
def drX1 (d : List W64) : Nat := bits (drawWord d 7) 47 32
def drY0 (d : List W64) : Nat := bits (drawWord d 7) 31 16
def drX0 (d : List W64) : Nat := bits (drawWord d 7) 15 0

/-- Whether a draw record is as Table 12-3 has it, for a pass. -/
def recordOk (p d : List W64) : Bool :=
  let z (i hi lo : Nat) : Bool := bits (drawWord d i) hi lo == 0
  z 0 63 48 && z 1 63 48 && z 2 63 48 && decide (1 ≤ drawNvert d) && z 4 63 48 && drIdx d % 4 == 0
  && z 5 63 53 && decide (drNattr d ≤ 16) && drVout d % 16 == 0
  && z 6 63 16 && z 6 11 11 && decide (drBlend d < 4) && drCull d != 3
  && decide (drX1 d ≤ psWidth p) && decide (drY1 d ≤ psHeight p) && decide (drX0 d < drX1 d) && decide (drY0 d < drY1 d)

/-! ### Faults (R341, R358) -/

/-- A record in GFX_FLT_INFO (Table 12-9): the first is held with its address and tag. -/
def gfxRecord (s : State) (p kind att bin addr tag : Nat) : State :=
  let held := infoHeld s (pgGfx p) 0x108
  let s1 := raiseIrq (capture s (pgGfx p) 0x108 30 (kind * 2 ^ 27 + att * 2 ^ 24 + bin % 2 ^ 16)) (pgGfx p) 0
  if held then journal s1 (pgGfx p) 0 (natLe 8 addr)
  else updCore s1 p fun c => { c with gfxAddr := BitVec.ofNat 64 addr, gfxTag := tag }

/-- A batch ends: with a fault on a translation or permission failure; stopped under R212 on an uncorrectable error. -/
def gfxFail (s : State) (p j tag att bin : Nat) (b : EdgeBad) : State :=
  match b with
  | .fault f addr => faultJob (gfxRecord (xltRecord s f false (unitReq s p) tag addr) p (if f.kind = 2 then 2 else 1) att bin addr tag) j f.cause
  | .poison addr => stopJob (journal (gfxRecord s p 3 att bin addr tag) (pgGfx p) 1 (natLe 8 addr)) j false

/-! ### DRAW (R340-R343) -/

/-- Head blocks of a pass's pool (R348). -/
def headBlocks (pass : List W64) : Nat := ceilDiv (8 * binCount pass) 256

/-- Vertex groups of the draws before draw `d`, and of all (R344). -/
def groupsBefore (draws : List (List W64)) (d : Nat) : Nat := (draws.take d).foldl (fun n r => n + vertexGroups r) 0

/-- The batch starts: the context takes its depth mode, and the vertex groups may launch. -/
def startBatch (s : State) (j ctx : Nat) (pass : List W64) (draws : List (List W64)) : State :=
  let s1 := match ctxOf s ctx with
    | some c => { s with contexts := tput s.contexts ctx { c with dmode := some (psFast pass) } }
    | none => s
  updJob s1 j fun x => { x with
    phase := .running
    groups := groupsBefore draws draws.length
    batch := { pass, draws, blocks := headBlocks pass } }

/-- DRAW: the descriptor, the records and the pool header are read when the job starts; what they must not hold ends the batch with
status 0x05 (R341). -/
def execDraw (j : Nat) (s : State) : Out :=
  match startedAs s j 2 with
  | none => .next s
  | some x =>
    match x.cores with
    | [] => .next s
    | p :: _ =>
      let tag := tagOf s x.ctx
      let n := bits (pkW x 6) 31 16
      if !vregsOk (jobVregs x) then .next (refuseLaunch s j x)
      else if n = 0 || decide (bits (pkW x 7) 20 10 < 66) then .next (endJob s j 5 0)
      else match rangeRead s p tag (bits (pkW x 4) 47 0) 128 with
        | .error b => .next (gfxFail s p j tag 6 0 b)
        | .ok bs =>
          let pass := words64 bs
          if !passOk pass then .next (endJob s j 5 0)
          else match rangeRead s p tag (bits (pkW x 5) 47 0) (64 * n) with
            | .error b => .next (gfxFail s p j tag 6 0 b)
            | .ok rs =>
              let draws := (List.range n).map fun i => words64 ((rs.drop (64 * i)).take 64)
              let mode : Bool := match ctxOf s x.ctx with
                | some c => (match c.dmode with | some m => m == psFast pass | none => true)
                | none => true
              if !draws.all (recordOk pass) || !mode then .next (endJob s j 5 0)
              else match rangeRead s p tag (psPool pass) 64 with
                | .error b => .next (gfxFail s p j tag 5 0 b)
                | .ok _ => .next (startBatch s j x.ctx pass draws)

/-! ### Triangle setup (R345) -/

/-- A binary32 position as an integer multiple of 2^-149; none for a NaN or an infinity. -/
def fixed149 (x : Nat) : Option Int :=
  match decodeF binary32 x with
  | .fin s m e => let v : Int := m * 2 ^ (e + 149).toNat; some (if s then -v else v)
  | _ => none

/-- 2^-20 as such a multiple: the plane against which triangles are clipped. -/
def nearW : Int := 2 ^ 129

/-- A corner in projective form: x, y and w. -/
abbrev Corner := Int × Int × Int

/-- The corner in which the edge from `a` to `b` meets the clip plane, scaled to a positive w. -/
def cutEdge (a b : Corner) : Corner :=
  let d := b.2.2 - a.2.2
  let t := nearW - a.2.2
  let k : Int := if d < 0 then -1 else 1
  (k * (a.1 * d + (b.1 - a.1) * t), k * (a.2.1 * d + (b.2.1 - a.2.1) * t), k * d * nearW)

/-- A polygon clipped against w = 2^-20, `prev` being the corner before the first. -/
def clipFrom : Corner → List Corner → List Corner
  | _, [] => []
  | prev, c :: cs =>
    let inside (v : Corner) : Bool := decide (nearW ≤ v.2.2)
    (if inside prev != inside c then [cutEdge prev c] else []) ++ (if inside c then [c] else []) ++ clipFrom c cs
def clipPoly (vs : List Corner) : List Corner := match vs.getLast? with | some l => clipFrom l vs | none => []

/-- A quotient rounded to the nearest integer, ties to even; `d` is positive. -/
def divEven (n d : Int) : Int :=
  let q := n.fdiv d
  let r := n - q * d
  if 2 * r < d then q else if 2 * r > d then q + 1 else if q % 2 = 0 then q else q + 1

/-- A corner after division by w, in 1/256 pixel. -/
def snap (c : Corner) : Int × Int := (divEven (c.1 * 256) c.2.2, divEven (c.2.1 * 256) c.2.2)

/-- Twice the signed area of three points, positive when they turn clockwise on the screen. -/
def area2 (a b c : Int × Int) : Int := (b.1 - a.1) * (c.2 - a.2) - (c.1 - a.1) * (b.2 - a.2)

/-- The triangles of a convex polygon, from its first corner. -/
def fan : List (Int × Int) → List ((Int × Int) × (Int × Int) × (Int × Int))
  | a :: rest => (rest.zip rest.tail).map fun e => (a, e.1, e.2)
  | [] => []
def polyArea (ps : List (Int × Int)) : Int := (fan ps).foldl (fun n t => n + area2 t.1 t.2.1 t.2.2) 0

/-- The snapped polygon of a triangle, or none when it is culled: a NaN or infinite position, a corner beyond ±32,768, zero area, or a
face that CULL removes. Front faces turn counter-clockwise on the screen. -/
def setupTri (d : List W64) (verts : List (List Nat)) : Option (List (Int × Int)) :=
  let corner (v : List Nat) : Option Corner :=
    match fixed149 (v.getD 0 0), fixed149 (v.getD 1 0), fixed149 (v.getD 2 0), fixed149 (v.getD 3 0) with
    | some x, some y, some _, some w => some (x, y, w)
    | _, _, _, _ => none
  match verts.mapM corner with
  | none => none
  | some cs =>
    let ps := (clipPoly cs).map snap
    let a := polyArea ps
    let far (v : Int) : Bool := decide (v < -32768 * 256) || decide (32768 * 256 < v)
    if a = 0 || ps.any (fun q => far q.1 || far q.2) then none
    else if (drCull d = 1 && decide (0 < a)) || (drCull d = 2 && decide (a < 0)) then none
    else some ps

/-- The indices of primitive `k`, and the words of its vertices; none when an index is NVERT or more. -/
def primVerts (s : State) (p tag : Nat) (d : List W64) (k : Nat) : Except EdgeBad (Option (List (List Nat))) :=
  let idx (i : Nat) : Except EdgeBad Nat := if drIdx d = 0 then .ok (3 * k + i) else rangeNat s p tag (drIdx d + 4 * (3 * k + i)) 4
  let size := 16 + 4 * drNattr d
  let words (v : Nat) : Except EdgeBad (List Nat) :=
    (rangeRead s p tag (drVout d + v * size) size).map fun bs => (List.range (size / 4)).map fun i => leNat ((bs.drop (4 * i)).take 4)
  match idx 0, idx 1, idx 2 with
  | .ok a, .ok b, .ok c =>
    if a < drawNvert d && b < drawNvert d && c < drawNvert d then
      match words a, words b, words c with
      | .ok x, .ok y, .ok z => .ok (some [x, y, z])
      | .error e, _, _ => .error e
      | _, .error e, _ => .error e
      | _, _, .error e => .error e
    else .ok none
  | .error e, _, _ => .error e
  | _, .error e, _ => .error e
  | _, _, .error e => .error e

/-! ### Bins and their lists (R346-R349) -/

/-- The bins that a polygon's bounding box, clipped to the scissor, overlaps, ascending. -/
def binsOf (pass d : List W64) (ps : List (Int × Int)) : List Nat :=
  match ps with
  | [] => []
  | q :: qs =>
    let lo (f : Int × Int → Int) : Int := qs.foldl (fun m v => minI m (f v)) (f q)
    let hi (f : Int × Int → Int) : Int := qs.foldl (fun m v => maxI m (f v)) (f q)
    let x0 := maxI (lo (·.1)) (256 * drX0 d)
    let x1 := minI (hi (·.1)) (256 * drX1 d - 1)
    let y0 := maxI (lo (·.2)) (256 * drY0 d)
    let y1 := minI (hi (·.2)) (256 * drY1 d - 1)
    if x1 < x0 || y1 < y0 then []
    else (List.range (binCount pass)).filter fun b =>
      let bx := b % binCols pass
      let by_ := b / binCols pass
      decide ((x0 / 8192).toNat ≤ bx) && decide (bx ≤ (x1 / 8192).toNat) && decide ((y0 / 8192).toNat ≤ by_) && decide (by_ ≤ (y1 / 8192).toNat)

/-- Entries of a bin's list. -/
def binLen (b : Batch) (bin : Nat) : Nat := (b.bins.filter fun e => e.1 == bin).length

/-- Bins among `bs` whose lists need a further block for one more entry: a block holds 31. -/
def needBlocks (b : Batch) (bs : List Nat) : List Nat := bs.filter fun bin => binLen b bin % 31 == 0

/-- One entry written to a bin's list in the pool (R347, R348): a new block is named by the block before it, or by the bin's head. -/
def putEntry (s : State) (p tag base : Nat) (b : Batch) (bin draw prim : Nat) : Except EdgeBad (State × Batch) :=
  let k := binLen b bin
  let fresh := k % 31 == 0
  let blk := if fresh then b.blocks else tget 0 b.lastBlock bin
  let link := if k = 0 then base + 8 * bin else base + 256 * tget 0 b.lastBlock bin + 248
  let b1 := { b with
    bins := b.bins ++ [(bin, draw, prim)], blocks := if fresh then b.blocks + 1 else b.blocks, lastBlock := tput b.lastBlock bin blk }
  match if fresh then rangeWrite s p tag link (natLe 8 blk) else .ok s with
  | .error e => .error e
  | .ok s1 => (rangeWrite s1 p tag (base + 256 * blk + 8 * (k % 31)) (natLe 8 (draw * 2 ^ 48 + prim * 2 ^ 16))).map fun s2 => (s2, b1)

def putEntries (s : State) (p tag base : Nat) (b : Batch) (draw prim : Nat) : List Nat → Except EdgeBad (State × Batch)
  | [] => .ok (s, b)
  | bin :: bs => match putEntry s p tag base b bin draw prim with
    | .error e => .error e
    | .ok (s1, b1) => putEntries s1 p tag base b1 draw prim bs

/-- USED and STALL of the pool header. -/
def putPool (s : State) (p tag : Nat) (b : Batch) (stall : Bool) : Except EdgeBad State :=
  match rangeWrite s p tag (psPool b.pass + 16) (natLe 4 b.blocks) with
  | .error e => .error e
  | .ok s1 => rangeWrite s1 p tag (psPool b.pass + 24) (natLe 1 (if stall then 1 else 0))

/-- The batch of a job replaced. -/
def setBatch (s : State) (j : Nat) (b : Batch) : State := updJob s j fun x => { x with batch := b }

/-- The pool is full for a triangle (R349): in FASTCLR the bins are rendered with the entries already written; in ONCHIP binning
stalls. -/
def poolFull (s : State) (p j tag : Nat) (b : Batch) (k : Nat) : State :=
  if psFast b.pass then
    match putPool s p tag b false with
    | .error e => gfxFail s p j tag 5 0 e
    | .ok s1 => setBatch s1 j { b with nextPrim := k, binPhase := true, partialRun := true, binsDone := 0, nextBins := [] }
  else
    match putPool s p tag b true with
    | .error e => gfxFail s p j tag 5 0 e
    | .ok s1 => setBatch (journal (raiseIrq s1 (pgGfx p) 1) (pgGfx p) 2 (natLe 4 b.blocks)) j { b with nextPrim := k, stalled := true }

/-- Primitive `k` of draw `i` is set up and binned; the error is the state in which the setup stops. -/
def setupPrim (s : State) (p j i k : Nat) : Except State State :=
  match jobOf s j with
  | none => .error s
  | some x =>
    let b := x.batch
    let d := b.draws.getD i []
    let tag := tagOf s x.ctx
    let cull : Except State State := .ok (rcount s (pgGfx p) 0x10C)
    match primVerts s p tag d k with
    | .error e => .error (gfxFail s p j tag 6 0 e)
    | .ok none => cull
    | .ok (some vs) =>
      match setupTri d vs with
      | none => cull
      | some ps =>
        let bs := binsOf b.pass d ps
        match rangeNat s p tag (psPool b.pass) 6, rangeNat s p tag (psPool b.pass + 8) 4 with
        | .ok base, .ok limit =>
          if decide (limit - headBlocks b.pass < bs.length) && !bs.isEmpty then cull
          else if decide (limit < b.blocks + (needBlocks b bs).length) && !(needBlocks b bs).isEmpty then .error (poolFull s p j tag b k)
          else match putEntries s p tag base b i k bs with
            | .error e => .error (gfxFail s p j tag 5 0 e)
            | .ok (s1, b1) =>
              .ok (setBatch s1 j (if bs.isEmpty then b1 else { b1 with tris := b1.tris ++ [{ draw := i, prim := k, pts := ps, verts := vs }] }))
        | .error e, _ => .error (gfxFail s p j tag 5 0 e)
        | _, .error e => .error (gfxFail s p j tag 5 0 e)

/-- Primitives from `k` on, `n` of them. -/
def setupFrom (p j i : Nat) : Nat → Nat → State → Except State State
  | 0, _, s => .ok s
  | n + 1, k, s => match setupPrim s p j i k with
    | .ok s1 => setupFrom p j i n (k + 1) s1
    | .error e => .error e

/-- The draw in hand goes on from its next primitive; when all are binned the next draw is in hand. -/
def setupDraw (s : State) (p j : Nat) (x : Job) : State :=
  let b := x.batch
  let d := b.draws.getD b.setUp []
  match setupFrom p j b.setUp (drNprim d - b.nextPrim) b.nextPrim s with
  | .error s1 => s1
  | .ok s1 => updJob s1 j fun y => { y with batch := { y.batch with setUp := b.setUp + 1, nextPrim := 0 } }

/-- Whether every vertex group of the draw in hand has exited and its stores are performed (R345). -/
def drawShaded (s : State) (j : Nat) (x : Job) : Bool :=
  let g := groupsBefore x.batch.draws (x.batch.setUp + 1)
  decide (g ≤ x.nextGroup)
  && x.cores.all fun p =>
    (coreOf s p).groups.all (fun y => y.2.job != j || decide (g ≤ y.2.index)) && (coreOf s p).merge.isEmpty

/-- DRAW_SETUP -/
def execDrawSetup (j : Nat) (s : State) : Out :=
  match jobOf s j with
  | none => .next s
  | some x =>
    let b := x.batch
    match x.cores with
    | [] => .next s
    | p :: _ =>
      whenever (pkType x.words == 2 && x.phase == .running && !b.binPhase && !b.stalled && decide (b.setUp < b.draws.length) && drawShaded s j x)
        s (setupDraw s p j x)

/-- POOL_POLL: LIMIT is read again; when it lies above what is in use, STALL is written 0 and binning resumes. -/
def execPoolPoll (j : Nat) (s : State) : Out :=
  match jobOf s j with
  | none => .next s
  | some x =>
    let b := x.batch
    match x.cores with
    | [] => .next s
    | p :: _ =>
      if x.phase ≠ .running || !b.stalled then .next s
      else
        let tag := tagOf s x.ctx
        match rangeNat s p tag (psPool b.pass + 8) 4 with
        | .error e => .next (gfxFail s p j tag 5 0 e)
        | .ok limit =>
          if limit ≤ b.blocks then .next s
          else match putPool s p tag b false with
            | .error e => .next (gfxFail s p j tag 5 0 e)
            | .ok s1 =>
              let y := { x with batch := { b with stalled := false } }
              .next (setupDraw (setBatch s1 j y.batch) p j y)

/-- BIN_PHASE_START: every triangle of the batch has been binned. -/
def execBinPhaseStart (j : Nat) (s : State) : Out :=
  match jobOf s j with
  | none => .next s
  | some x =>
    let b := x.batch
    match x.cores with
    | [] => .next s
    | p :: _ =>
      if pkType x.words ≠ 2 || x.phase ≠ .running || b.binPhase || b.stalled || decide (b.setUp < b.draws.length) then .next s
      else match putPool s p (tagOf s x.ctx) b false with
        | .error e => .next (gfxFail s p j (tagOf s x.ctx) 5 0 e)
        | .ok s1 => .next (setBatch s1 j { b with binPhase := true, binsDone := 0, nextBins := [] })

/-! ### A bin in the local store (R350-R353, Table 12-5) -/

/-- The next bin of a logical core: bin b goes to the (b mod n)-th of the job's cores (R346); none when its bins are done. -/
def nextBin (s : State) (x : Job) (L : Nat) : Option Nat :=
  let ls := jobTargets s x
  let i := ls.findIdx fun M => M == L
  let b := i + ls.length * tget 0 x.batch.nextBins L
  if i < ls.length && decide (b < binCount x.batch.pass) then some b else none

/-- Base of the bin buffer in use: the two alternate from bin to bin. -/
def binBuffer (x : Job) (L : Nat) : Nat := firstRange x + 0x30000 + tget 0 x.batch.nextBins L % 2 * 0x9000

/-- Bytes of a pixel, and the local-store area, of attachment `a`; 4 is depth. -/
def attBytes (pass : List W64) (a : Nat) : Nat := if a = 4 then 4 else cfmtBytes (psFmt pass a)
def attBase (x : Job) (L a : Nat) : Nat := binBuffer x L + (if a = 4 then 0x8000 else 0x2000 * a)

/-- Attachments of a pass that have a surface. -/
def surfaces (pass : List W64) : List Nat := List.range (psNcol pass) ++ (if psFast pass then [4] else [])

/-- The rows of a bin of attachment `a` as (device address, offset in its area, bytes): only the pixels of the render area (R346). -/
def binRowsOf (pass : List W64) (a bin : Nat) : List (Nat × Nat × Nat) :=
  let bx := bin % binCols pass * 32
  let by_ := bin / binCols pass * 32
  let n := min 32 (psWidth pass - bx)
  (List.range (min 32 (psHeight pass - by_))).map fun r =>
    if a = 4 then (psDbase pass + 4096 * bin + 128 * r, 128 * r, 4 * n)
    else
      let k := attBytes pass a
      (psBase pass a + (by_ + r) * psPitch pass a + bx * k, 32 * k * r, n * k)

/-- The load operation of an attachment: 0 load, 1 clear, 2 don't care; always load after a partial render (R349). -/
def loadOp (b : Batch) (a : Nat) : Nat := if b.forceLoad then 0 else if a = 4 then psDload b.pass else psLoad b.pass a

/-- Address and bit of the fast-clear flag of an attachment and a bin. -/
def flagAt (pass : List W64) (a bin : Nat) : Nat × Nat := (psFlags pass + 8192 * a + bin / 8, bin % 8)

/-- The bytes of an attachment's clear value. -/
def clearBytes (pass : List W64) (a : Nat) : List Byte :=
  if a = 4 then natLe 4 (psDclear pass) else natLe (attBytes pass a) (psClear pass a)

/-- How an attachment starts a bin: its bytes as (offset, bytes), and whether it starts from the clear value. -/
def initAtt (s : State) (p tag : Nat) (b : Batch) (a bin : Nat) : Except EdgeBad (List (Nat × List Byte) × Bool) :=
  let k := attBytes b.pass a
  let cleared : List (Nat × List Byte) := (List.range 1024).map fun i => (k * i, clearBytes b.pass a)
  let op := loadOp b a
  let flag : Except EdgeBad Bool :=
    if op ≠ 0 || psFlags b.pass = 0 then .ok false
    else (rangeNat s p tag (flagAt b.pass a bin).1 1).map fun v => v.testBit (flagAt b.pass a bin).2
  if op = 1 then .ok (cleared, true)
  else if op = 2 then .ok ([(0, (List.range (1024 * k)).map fun i => Config.dontCare s.free (0x10000 * a + i))], false)
  else match flag with
    | .error e => .error e
    | .ok true => .ok (cleared, true)
    | .ok false => ((binRowsOf b.pass a bin).mapM fun r => (rangeRead s p tag r.1 r.2.2).map fun bs => (r.2.1, bs)).map fun rs => (rs, false)

/-- The attachments of a bin one after another; the first that fails is named. -/
def initAll (s : State) (p tag : Nat) (b : Batch) (bin : Nat) : List Nat → Except (Nat × EdgeBad) (List (Nat × List (Nat × List Byte) × Bool))
  | [] => .ok []
  | a :: as => match initAtt s p tag b a bin with
    | .error e => .error (a, e)
    | .ok r => (initAll s p tag b bin as).map fun rs => (a, r) :: rs

/-- The batch of a core that is in its bin phase and has a bin left for it. -/
def binJob (s : State) (p L : Nat) : Option (Nat × Job × Nat) :=
  (coreOf s p).jobs.findSome? fun j => match jobOf s j with
    | some x => if x.phase = .running ∧ pkType x.words = 2 ∧ x.batch.binPhase then (nextBin s x L).map fun b => (j, x, b) else none
    | none => none

/-- BIN_START: the next bin of the core; a bin load is all or nothing (R358). In ONCHIP, depth starts from DCLEAR (R343). -/
def execBinStart (p : Nat) (s : State) : Out :=
  onUnit (decide (p < 36)) <|
    match logicalOf s p with
    | none => .next s
    | some L =>
      if (coreOf s p).raster.bin.isSome then .next s
      else match binJob s p L with
        | none => .next s
        | some (j, x, bin) =>
          let tag := tagOf s x.ctx
          let pass := x.batch.pass
          match initAll s p tag x.batch bin (surfaces pass) with
          | .error (a, e) => .next (gfxFail s p j tag a bin e)
          | .ok atts =>
            let put (c : Core) (a : Nat) (rows : List (Nat × List Byte)) : Core :=
              rows.foldl (fun c r => lsWrite c (attBase x L a + r.1) r.2) c
            let c0 := coreOf s p
            let c1 := atts.foldl (fun c t => put c t.1 t.2.1) c0
            let c2 := if psFast pass then c1 else put c1 4 ((List.range 1024).map fun i => (4 * i, natLe 4 (psDclear pass)))
            let cleared : BitVec 5 := atts.foldl (fun m t => if t.2.2 then setBit m t.1 else m) 0
            .next (setCore { s with free := s.free + 1 } p { c2 with raster := { job := some j, bin := some bin, cleared } })

/-- BIN_STORE of one attachment (R352): nothing; the flag alone; or the pixels with the flag cleared. A fault may leave it partly
written: which rows reach memory is free. -/
def storeAtt (s : State) (p tag L : Nat) (x : Job) (r : Raster) (a bin : Nat) : Except (State × EdgeBad) State :=
  let pass := x.batch.pass
  let stores := if a = 4 then psDstore pass else psStore pass a
  let (fa, fb) := flagAt pass a bin
  let setFlag (s : State) (v : Bool) : Except (State × EdgeBad) State :=
    match rangeNat s p tag fa 1 with
    | .error e => .error (s, e)
    | .ok old => match rangeWrite s p tag fa (natLe 1 (putBits (BitVec.ofNat 8 old) fb fb (if v then 1 else 0)).toNat) with
      | .error e => .error (s, e)
      | .ok s1 => .ok s1
  if !stores then .ok s
  else if psFlags pass != 0 && !psFlush pass && bit r.cleared a && !bit r.written a then setFlag s true
  else
    let rows := (binRowsOf pass a bin).map fun w => (w.1, lsRead (coreOf s p) (attBase x L a + w.2.1) w.2.2)
    match rows.mapM fun w => rangePas s p tag .w w.1 w.2.length with
    | .error e =>
      let s1 := ((List.range rows.length).zip rows).foldl (fun s w =>
        if Config.stopLanded s.free w.1 then (match rangeWrite s p tag w.2.1 w.2.2 with | .ok t => t | .error _ => s) else s) s
      .error ({ s1 with free := s1.free + 1 }, e)
    | .ok pas =>
      let s1 := (pas.zip rows).foldl (fun s w => storeBytes s (w.1.zip w.2.2)) s
      if psFlags pass = 0 then .ok s1 else setFlag s1 false

/-- The attachments of a finished bin one after another. -/
def storeAll (p tag L : Nat) (x : Job) (r : Raster) (bin : Nat) : List Nat → State → Except (Nat × State × EdgeBad) State
  | [], s => .ok s
  | a :: as, s => match storeAtt s p tag L x r a bin with
    | .error e => .error (a, e)
    | .ok s1 => storeAll p tag L x r bin as s1

/-! ### Coverage, depth and fragments (R354-R356) -/

/-- Whether a pixel's centre lies inside a snapped triangle, with the top-left rule for centres on an edge. -/
def covers (t : (Int × Int) × (Int × Int) × (Int × Int)) (x y : Nat) : Bool :=
  let a := t.1
  let (b, c) := if 0 < area2 t.1 t.2.1 t.2.2 then (t.2.1, t.2.2) else (t.2.2, t.2.1)
  let q : Int × Int := (256 * x + 128, 256 * y + 128)
  let edge (u v : Int × Int) : Bool :=
    let e := area2 u v q
    let topLeft := (u.2 == v.2 && decide (u.1 < v.1)) || decide (v.2 < u.2)
    decide (0 < e) || (e == 0 && topLeft)
  area2 t.1 t.2.1 t.2.2 != 0 && edge a b && edge b c && edge c a
def triCovers (t : Tri) (x y : Nat) : Bool := (fan t.pts).any fun u => covers u x y

/-- The fragments of a bin in ascending (draw, primitive) order, each triangle's row by row, with their draws. -/
def binFragments (b : Batch) (bin : Nat) : List (Nat × Fragment) :=
  let bx := bin % binCols b.pass * 32
  let by_ := bin / binCols b.pass * 32
  (b.bins.filter fun e => e.1 == bin).flatMap fun e =>
    let d := b.draws.getD e.2.1 []
    match b.tris.find? fun t => t.draw == e.2.1 && t.prim == e.2.2 with
    | none => []
    | some t => ((List.range 1024).map fun i => (bx + i % 32, by_ + i / 32)).filterMap fun q =>
      if decide (drX0 d ≤ q.1) && decide (q.1 < drX1 d) && decide (drY0 d ≤ q.2) && decide (q.2 < drY1 d) && triCovers t q.1 q.2
      then some (e.2.1, { x := q.1, y := q.2, prim := e.2.2 }) else none

/-- The triangle of a fragment, and an interpolated value of it: depth is number 0, attribute a number a + 1. -/
def fragTri (b : Batch) (draw prim : Nat) : List (List Nat) :=
  match b.tris.find? fun t => t.draw == draw && t.prim == prim with | some t => t.verts | none => []
def fragValue (b : Batch) (draw : Nat) (f : Fragment) (k : Nat) : Nat := Config.interpolate (fragTri b draw f.prim) k f.x f.y % 2 ^ 32

/-- Place of a pixel in its bin. -/
def binPixel (f : Fragment) : Nat := f.y % 32 * 32 + f.x % 32

/-- DCMP (Table 12-3). -/
def depthPasses (dcmp new old : Nat) : Bool :=
  let c (k x y : Nat) : Bool := (fcompare binary32 k x y).1
  match dcmp with
  | 0 => false
  | 1 => c 2 new old
  | 2 => c 0 new old
  | 3 => c 3 new old
  | 4 => c 2 old new
  | 5 => c 1 new old
  | 6 => c 3 old new
  | _ => true

/-- The depth test and the depth write of one fragment: the core, and whether it passes. -/
def depthStep (c : Core) (x : Job) (L : Nat) (d : List W64) (draw : Nat) (f : Fragment) : Core × Bool :=
  let a := attBase x L 4 + 4 * binPixel f
  let z := fragValue x.batch draw f 0
  if drDtest d && !depthPasses (drDcmp d) z (lsNat c a 4) then (c, false)
  else
    (if drDwrite d then
      { lsWrite c a (natLe 4 z) with raster := { c.raster with written := setBit c.raster.written 4 } }
     else c, true)

/-- The early tests of fragments in order (R354), with those that pass. -/
def depthEarly (x : Job) (L : Nat) (d : List W64) (draw : Nat) : List Fragment → Core → Core × List Fragment
  | [], c => (c, [])
  | f :: fs, c =>
    let (c1, ok) := depthStep c x L d draw f
    let (c2, rest) := depthEarly x L d draw fs c1
    (c2, if ok then f :: rest else rest)

/-- The record of a fragment group in its slot's 4 KiB (R355). -/
def fragRecord (b : Batch) (d : List W64) (draw : Nat) (fs : List Fragment) : List (Nat × List Byte) :=
  let lanes := (List.range fs.length).zip fs
  [(0, natLe 4 (2 ^ fs.length - 1)), (4, natLe 4 draw)]
  ++ lanes.map (fun t => (16 + 4 * t.1, natLe 2 t.2.x ++ natLe 2 t.2.y))
  ++ lanes.map (fun t => (144 + 4 * t.1, natLe 4 (fragValue b draw t.2 0)))
  ++ lanes.flatMap fun t => (List.range (drNattr d)).map fun a => (272 + 64 * t.1 + 4 * a, natLe 4 (fragValue b draw t.2 (a + 1)))

/-- Base of the record of a slot. -/
def recordBase (x : Job) (slot : Nat) : Nat := firstRange x + 0x1000 * slot

/-- The lowest free slot whose record has been read. -/
def fragSlot (c : Core) : Option Nat :=
  lowestFree 48 fun g => (tfind c.groups g).isSome || c.raster.frags.any fun f => f.slot == g

/-- FRAGMENT_GROUP: the next fragments of one draw in the bin. With DISC = 0 they are tested first, which waits for a fragment of the
same pixel whose depth write comes after its shading (R356); at most 32 of them go to a group. -/
def execFragmentGroup (p : Nat) (frags : List Fragment) (s : State) : Out :=
  onUnit (decide (p < 36)) <|
    let c := coreOf s p
    match c.raster.job, c.raster.bin, logicalOf s p with
    | some j, some bin, some L =>
      (match jobOf s j with
      | none => .next s
      | some x =>
        let b := x.batch
        let all := (binFragments b bin).drop c.raster.gathered
        let next := all.take frags.length
        let draw := match next with | f :: _ => f.1 | [] => 0
        let d := b.draws.getD draw []
        let late := c.raster.frags.any fun g => drDisc (b.draws.getD g.draw []) && g.frags.any fun u => frags.any fun f => f.x == u.x && f.y == u.y
        if frags.isEmpty || x.phase ≠ .running || next != frags.map (fun f => (draw, f)) then .next s
        else if !drDisc d && late then .next s
        else
          let (c1, live) := if drDisc d then (c, frags) else depthEarly x L d draw frags c
          let c2 := { c1 with raster := { c1.raster with gathered := c1.raster.gathered + frags.length } }
          if live.isEmpty then .next (setCore s p c2)
          else if decide (32 < live.length) || decide (granFree c < jobVregs x / 8) then .next s
          else match fragSlot c with
            | none => .next s
            | some slot =>
              let n := x.groups + b.fragGroups
              let c3 := (fragRecord b d draw live).foldl (fun c w => lsWrite c (recordBase x slot + w.1) w.2) c2
              let c4 := { c3 with raster := { c3.raster with frags := c3.raster.frags ++ [{ slot, index := n, draw, frags := live }] } }
              let g := launchGroup j x n L c.launches (BitVec.ofNat 64 (bits (drawWord d 1) 47 0)) (BitVec.ofNat 64 (bits (drawWord d 2) 47 0))
              .next (updJob (pmcCore (placeGroup (setCore s p c4) p slot g) p 0x40 live.length) j fun y =>
                { y with liveGroups := y.liveGroups + 1, batch := { y.batch with fragGroups := y.batch.fragGroups + 1 } }))
    | _, _, _ => .next s

/-! ### Blending (R356) -/

/-- Bits of the channels of an unsigned normalised format, R first (Table 12-4). -/
def unormBits (fmt : Nat) : List Nat := if fmt = 0 then [8, 8, 8, 8] else [10, 10, 10, 2]

/-- An unsigned normalised value as binary32. -/
def fromUnorm (k v : Nat) : Nat :=
  let f (n : Nat) : Nat := (convIF { w := 32, signed := false } binary32 .even false n).1
  (fdiv binary32 .even (f v) (f (2 ^ k - 1))).1

/-- A binary32 value clamped to [0, 1], scaled by 2^k - 1 and rounded to nearest even. -/
def toUnorm (free k v : Nat) : Nat :=
  match decodeF binary32 v with
  | .nan _ _ _ => Config.unormNan free % 2 ^ k
  | .inf s => if s then 0 else 2 ^ k - 1
  | .fin s m e => if s then 0 else min (2 ^ k - 1) (roundIntegral .even false (m * (2 ^ k - 1)) e).1

/-- The four channels of a stored pixel in binary32; channels absent from the format read 0. -/
def pixelIn (fmt v : Nat) : List Nat :=
  match fmt with
  | 2 => [0, 1, 2, 3].map fun i => (convFF binary16 binary32 .even false (v / 2 ^ (16 * i) % 2 ^ 16)).1
  | 3 => [v, 0, 0, 0]
  | _ => [0, 1, 2, 3].map fun i =>
    let k := (unormBits fmt).getD i 0
    fromUnorm k (v / 2 ^ ((unormBits fmt).take i).sum % 2 ^ k)

/-- A pixel as it is stored. -/
def pixelOut (free fmt : Nat) (cs : List Nat) : Nat :=
  match fmt with
  | 2 => [0, 1, 2, 3].foldl (fun n i => n + (convFF binary32 binary16 .even false (cs.getD i 0)).1 * 2 ^ (16 * i)) 0
  | 3 => cs.getD 0 0
  | _ => [0, 1, 2, 3].foldl (fun n i => n + toUnorm (free + i) ((unormBits fmt).getD i 0) (cs.getD i 0) * 2 ^ ((unormBits fmt).take i).sum) 0

/-- One channel blended in binary32, each operation rounded. -/
def blendChannel (mode src alpha dst : Nat) : Nat :=
  let add (x y : Nat) : Nat := (fadd binary32 .even x y).1
  let mul (x y : Nat) : Nat := (fmul binary32 .even x y).1
  match mode with
  | 0 => src
  | 1 => add src (mul dst (add 0x3F800000 (negF binary32 alpha)))
  | 2 => add src dst
  | _ => mul src dst

/-- The colour that a kernel wrote for fragment `t` and attachment `n`, in binary32. -/
def fragColour (c : Core) (x : Job) (slot t n : Nat) : List Nat :=
  (List.range 4).map fun i => (convFF binary16 binary32 .even false (lsNat c (recordBase x slot + 2560 + 32 * t + 8 * n + 2 * i) 2)).1

/-- One fragment blended into attachment `n`. -/
def blendAtt (free : Nat) (c : Core) (x : Job) (L : Nat) (d : List W64) (f : Fragment) (src : List Nat) (n : Nat) : Core :=
  if !bit (drWmask d) n then c
  else
    let k := attBytes x.batch.pass n
    let a := attBase x L n + k * binPixel f
    let fmt := psFmt x.batch.pass n
    let dst := pixelIn fmt (lsNat c a k)
    let out := (List.range 4).map fun i => blendChannel (drBlend d) (src.getD i 0) (src.getD 3 0) (dst.getD i 0)
    let c1 := lsWrite c a (natLe k (pixelOut free fmt out))
    { c1 with raster := { c1.raster with written := setBit c1.raster.written n } }

/-- The fragments of a retired group take effect in order: with DISC = 1 one that was not discarded is tested and writes depth now. -/
def retireFrags (free : Nat) (x : Job) (L : Nat) (d : List W64) (draw slot : Nat) : List (Nat × Fragment) → Core → Core
  | [], c => c
  | (t, f) :: fs, c =>
    let gone := drDisc d && lsByte c (recordBase x slot + 3584 + t) != 0
    let (c1, ok) := if gone then (c, false) else if drDisc d then depthStep c x L d draw f else (c, true)
    let c2 := if ok then
        (List.range (psNcol x.batch.pass)).foldl (fun c n => blendAtt (free + 16 * t + 4 * n) c x L d f (fragColour c x slot t n) n) c1
      else c1
    retireFrags free x L d draw slot fs c2

/-- FRAGMENT_RETIRE: the oldest group whose outputs have not been read, once its last thread has exited. -/
def execFragmentRetire (p : Nat) (s : State) : Out :=
  onUnit (decide (p < 36)) <|
    let c := coreOf s p
    match c.raster.frags, c.raster.job, logicalOf s p with
    | g :: rest, some j, some L =>
      (match jobOf s j with
      | none => .next s
      | some x =>
        let runs : Bool := match groupOf s p g.slot with | some y => y.job == j && y.index == g.index | none => false
        if runs then .next s
        else
          let d := x.batch.draws.getD g.draw []
          let c1 := retireFrags s.free x L d g.draw g.slot ((List.range g.frags.length).zip g.frags) c
          .next (setCore { s with free := s.free + 512 } p { c1 with raster := { c1.raster with frags := rest } }))
    | _, _, _ => .next s

/-- What the last bin of a partial render leaves: the lists restart from the head blocks, and every attachment is taken as LOAD for the
rest of the pass (R349). -/
def endPartial (s : State) (p j : Nat) (b : Batch) : State :=
  setBatch (rcount s (pgGfx p) 0x110) j { b with
    bins := [], tris := [], blocks := headBlocks b.pass, lastBlock := [], forceLoad := true
    binPhase := false, partialRun := false, binsDone := 0, nextBins := [] }

/-- BIN_STORE: every fragment of the bin has taken effect; the bin is stored and complete. -/
def execBinStore (p : Nat) (s : State) : Out :=
  onUnit (decide (p < 36)) <|
    let c := coreOf s p
    match c.raster.job, c.raster.bin, logicalOf s p with
    | some j, some bin, some L =>
      (match jobOf s j with
      | none => .next s
      | some x =>
        let b := x.batch
        if x.phase ≠ .running || !c.raster.frags.isEmpty || decide (c.raster.gathered < (binFragments b bin).length) then .next s
        else match storeAll p (tagOf s x.ctx) L x c.raster bin (surfaces b.pass) s with
          | .error (a, s1, e) => .next (gfxFail s1 p j (tagOf s x.ctx) a bin e)
          | .ok s1 =>
            let b1 := { b with binsDone := b.binsDone + 1, nextBins := tput b.nextBins L (tget 0 b.nextBins L + 1) }
            let s2 := pmcCore (updCore s1 p fun c => { c with raster := {} }) p 0x41 1
            .next (if b1.partialRun && decide (binCount b.pass ≤ b1.binsDone) then endPartial s2 p j b1 else setBatch s2 j b1))
    | _, _, _ => .next s

end Sys2Proof.Machine
end

