-- ==== Sys2Proof/Machine/RegView.lean ====
section
/-! DEFINITION. What a read of the register space returns: registers whose value is held elsewhere in the state, and the mailbox
selections of every page (R106, R107, R143, R144, R220, R221, R247-R250, R275, R276, R309, R310, R338, R339, R362, R363, R389-R392, R408,
R409, R428, R429, R447, R448, R473, R474, R493, R494, R514-R517, R530, R531). -/
namespace Sys2Proof.Machine

/-- A word with a bit set when `b`. -/
def flag (b : Bool) (i : Nat) : Nat := if b then 2 ^ i else 0

/-- Low and high 32 bits of a number, and its word `i`. -/
def word32 (x i : Nat) : W32 := BitVec.ofNat 32 (x / 2 ^ (32 * i))
def words32 (n x : Nat) : List W32 := (List.range n).map (word32 x)

/-! ### Core pages -/

/-- CORE_GRP_STAT (Table 03-8). -/
def coreGrpStat (s : State) (p : Nat) : Nat :=
  let c := coreOf s p
  (1024 - tagsUsed s p) * 2 ^ 21 + granFree c * 2 ^ 12 + c.groups.length

/-- MXA_STAT (Table 04-13): RETIRED is held in the register; a started entry takes a holding set. -/
def mxaStat (s : State) (p : Nat) : Nat :=
  let c := coreOf s p
  let busy := c.mat.filter fun e => e.phase != .queued
  flag (retired s p) 31 + flag (busy.any fun e => e.op != .mmv) 30 + flag (busy.any fun e => e.op == .mmv) 29
    + (c.mat.filter fun e => e.phase == .queued).length * 2 ^ 26
    + min 4 (busy.filter fun e => e.op != .mmv).length * 2 ^ 23

/-- STR_STAT (Table 07-7). -/
def strStat (s : State) (p : Nat) : Nat :=
  [0, 1, 2, 3].foldl (fun n e =>
    let k := (engOf (coreOf s p) e).queue.length
    n + flag (k != 0) (28 + e) + k * 2 ^ (8 + 5 * e)) 0

/-- STR_REPAIR (Table 07-9). -/
def strRepair (s : State) (p : Nat) : Nat :=
  let n := (coreOf s p).repaired.length
  flag (n == 32) 31 + n

/-- The draw batch on a core. -/
def coreBatch (s : State) (p : Nat) : Option Job :=
  ((coreOf s p).jobs.filterMap (jobOf s)).find? fun x => pkType x.words == 2

/-- GFX_STAT (Table 12-8). -/
def gfxStat (s : State) (p : Nat) : Nat :=
  match coreBatch s p with
  | none => 0
  | some x =>
    let bin := (coreOf s p).raster.bin
    if x.batch.binPhase then 2 ^ 31 + bin.getD 0 else if x.batch.stalled then 3 * 2 ^ 30 else 2 ^ 30

/-! ### Live values -/

/-- PWR_VR_STAT (Table 16-11). -/
def vrStat (s : State) : Nat :=
  flag (s.power.slewing || !s.power.command.isEmpty) 31 + flag s.power.faulted 30 + s.power.target % 1024 * 2 ^ 16 + s.power.level % 1024

/-- PWR_DOM_STAT (Table 16-10) of the domain that PWR_DOM_SEL names. -/
def domStat (s : State) : Nat :=
  let d := rbits s pgPwr 0x108 7 0
  let x := domOf s d
  if (domStates d).isEmpty then 0
  else domState s d * 2 ^ 29 + flag (domBusy s d) 28 + x.op * 2 ^ 26 + x.refuses * 2 ^ 8 + x.aborts

/-- REL_CORE_STAT of the selected core, and REL_PAIR_STAT (Tables 17-11, 17-12). -/
def relCoreStat (s : State) : Nat :=
  let r := roleOf s (rbits s 4 0x110 5 0)
  r.role * 2 ^ 30 + r.strikes * 2 ^ 28 + r.test * 2 ^ 26 + r.repair
def relPairStat (s : State) : Nat :=
  allPairs.foldl (fun n i =>
    let x := pairOf s i
    n + (flag (x.state == 2) 7 + flag (x.state == 4) 6 + x.strikes * 2 ^ 4 + x.mismatches) * 2 ^ (8 * i)) 0

/-- REL_HS_STAT (Table 17-9). -/
def hsStat (s : State) : Nat :=
  flag (!s.rel.hsPending.isEmpty) 31 + flag s.rel.pfail 30 + min 16 s.rel.hsPending.length * 2 ^ 24 + s.rel.tokens * 2 ^ 16

/-- BOOT_STAT (Table 18-13), BOOT_SVN, SEC_DBG_STAT and SEC_GLITCH_CNT (Table 18-12). -/
def bootStat (s : State) : Nat :=
  let b := s.boot
  flag b.up 31 + flag b.minimal 30 + b.slot * 2 ^ 29 + flag b.appliance 28 + flag b.nocfg 27 + b.upd * 2 ^ 25 + b.glitch * 2 ^ 22
    + min 3 b.fails * 2 ^ 20
def dbgStat (s : State) : Nat :=
  s.boot.dbgLevel * 2 ^ 30 + ceilDiv (s.boot.lockUntil - s.now) 1000000000 * 2 ^ 15 + min 255 s.boot.dbgFails
def day : Nat := 86400000000000
def glitchCount (s : State) : Nat := (s.boot.glitches.filter fun t => decide (s.now < t + day)).length

/-- HUB_STAT: a pair is in reset until the ROM starts, and, but for pair 0, in minimal mode (Tables 18-5, 18-13; R483). -/
def hubStat (s : State) (n : Nat) : Nat :=
  if !s.boot.started || (s.boot.minimal && n != 0) then 0
  else (pairOf s n).state * 2 ^ 29 + (pairOf s n).image * 2 ^ 28

/-- CAD_STAT and CAD_SRC_STAT (Tables 11-8, 11-11). -/
def cadStat (s : State) : Nat :=
  (s.triggers.filter fun t => tgArmed t.2).length * 2 ^ 21 + (s.sources.filter fun x => x.2.state != 0).length * 2 ^ 15
def cadSel (s : State) : Nat := rbits s pgCad 0x10C 5 0
def trgSel (s : State) : Nat := rbits s pgCad 0x120 9 0
def srcStat (s : State) : Nat :=
  let x := sourceOf s (cadSel s)
  x.state * 2 ^ 30 + x.skips * 2 ^ 8 + x.repeats

/-- QUE_STAT (Table 10-12): NOREC is held in the register. -/
def queStat (s : State) (q : Nat) : Nat :=
  match tfind s.queues q with
  | none => 0
  | some x =>
    let st := (ctxOf s x.ctx).map (·.state)
    flag (x.stopped || st == some .dying) 31 + flag (st == some .lost) 30
      + flag (s.jobs.any fun j => j.2.queue == q && j.2.phase == .waiting) 29 + rbits s (pgQue q) 0x110 15 0

/-- VI_STAT (Table 10-14). -/
def viStat (s : State) (fn : Nat) : Nat :=
  let v := viOf s fn
  flag v.resetBusy 31 + flag v.draining 30 + flag (decide (16 ≤ v.cmds.length)) 29 + min 16 v.replies.length * 2 ^ 24 + v.drain

/-- CMP_STAT (Table 13-13). -/
def cmpStat (s : State) (n : Nat) : Nat :=
  let x := pipeOf s n
  (if !x.on then 0 else if x.previous then 2 else 1) * 2 ^ 30 + flag x.ptpLocked 29 + flag x.hpd 28 + x.rate * 2 ^ 25 + x.lanes * 2 ^ 23
    + (if x.on then x.line else 0)

/-- CPR_STAT (Table 14-9). -/
def cprStat (s : State) (e : Nat) : Nat :=
  let c := cprOf s e
  flag c.desc.isSome 31 + c.serving * 2 ^ 29 + ([0, 1, 2, 3].foldl (fun n r => n + flag (cprRing c r).fault (25 + r)) 0)

/-- The VIO channel that VIO_CH_SEL names. -/
def vioSel (s : State) (page : Nat) : VChan := chanOf s page (rbits s page 0x108 4 0)

/-- The trigger registers of the selected slot. -/
def trgValue (s : State) (off : Nat) : Option Nat :=
  let x := trigOf s (trgSel s)
  match off with
  | 0x124 => some x.ctl.toNat
  | 0x128 => some (x.pos.toNat % 2 ^ 32)
  | 0x12C => some (x.pos.toNat / 2 ^ 32)
  | 0x130 => some x.inc.toNat
  | 0x134 => some x.arg.toNat
  | 0x138 => some x.dly.toNat
  | _ => none

/-- Block registers whose value is held elsewhere than in `regs`. -/
def liveBlock (s : State) (page off : Nat) : Option Nat :=
  let p := (page - 0x100) / 4
  match pageKind page, off with
  | .dev, 0x100 => some (0x9036A000 + flag (isHx s) 0)
  | .boot, 0x100 => some (s.boot.cause + s.boot.minReason * 2 ^ 8)
  | .boot, 0x104 => some (bootStat s)
  | .boot, 0x108 => some (svnOf s.boot.running % 512 * 2 ^ 16 + fwFloor s)
  | .sec, 0x100 => some (lifecycle s)
  | .sec, 0x108 => some (dbgStat s)
  | .sec, 0x10C => some (flag s.boot.rngFailed 31)
  | .sec, 0x110 => some (s.boot.glitchTotal * 2 ^ 16 + min 255 (glitchCount s))
  | .pwr, 0x10C => some (domOf s (rbits s pgPwr 0x108 7 0)).ctl.toNat
  | .pwr, 0x110 => some (domStat s)
  | .pwr, 0x11C => some (vrStat s)
  | .rel, 0x10C => some (tget 0x3F s.map (rbits s 4 0x108 4 0))
  | .rel, 0x114 => some (relCoreStat s)
  | .rel, 0x11C => some (relPairStat s)
  | .rel, 0x130 => some (hsStat s)
  | .cad, 0x104 => some (cadStat s)
  | .cad, 0x110 => some (sourceOf s (cadSel s)).cfg.toNat
  | .cad, 0x114 => some (srcStat s)
  | .cad, o => trgValue s o
  | .pmc, 0x104 => some (flag s.pmc.frozen 31 + s.pmc.snapSeq.toNat)
  | .pmc, 0x10C => some (pmcCtr s (pmcSel s)).sel.toNat
  | .pmc, 0x11C => some (s.pmc.ovf.toNat % 2 ^ 32)
  | .pmc, 0x120 => some (s.pmc.ovf.toNat / 2 ^ 32)
  | .pmc, 0x124 => some s.pmc.fovf.toNat
  | .hub, 0x104 => some (hubStat s (page - 8))
  | .hub, 0x108 => some (pairBeats s (pairOf s (page - 8)))
  | .mem, 0x104 =>
    let st := Config.stackState s.free (page - 0x10)
    some (flag (bit s.trained (page - 0x10)) 31 + flag st.1 30 + st.2.toNat)
  | .syc, 0x108 => some (flag (sliceRec s (page - 0x30)).flush.isSome 31 + (sliceRec s (page - 0x30)).evict.length)
  | .xlt0, 0x118 => some (flag s.invRun.isSome 31 + s.invQueue.length * 2 ^ 27 + s.doneTag)
  | .core, 0x104 => some (coreGrpStat s p)
  | .core, 0x108 => some (coreOf s p).launches.toNat
  | .mxa, 0x104 => some (mxaStat s p)
  | .str, 0x104 => some (strStat s p)
  | .str, 0x10C => some (strRepair s p)
  | .gfx, 0x104 => some (gfxStat s p)
  | .hif1, 0x100 => some (flag (s.numVfs != 0) 31 + s.numVfs * 2 ^ 24)
  | .spk, 0x104 => let l := linkOf s (page - 0x210); some (l.state * 2 ^ 29 + l.lanes * 2 ^ 27 + l.peer * 2 ^ 20)
  | .cmp, 0x118 => some (cmpStat s (page - 0x230))
  | .cpr, 0x108 => some (cprRing (cprOf s (page - 0x240)) (rbits s page 0x104 1 0)).ctl.toNat
  | .cpr, 0x10C => some ((cprRing (cprOf s (page - 0x240)) (rbits s page 0x104 1 0)).wbase.toNat % 2 ^ 32)
  | .cpr, 0x110 => some ((cprRing (cprOf s (page - 0x240)) (rbits s page 0x104 1 0)).wbase.toNat / 2 ^ 32)
  | .cpr, 0x114 => some (cprStat s (page - 0x240))
  | .que, 0x108 => (tfind s.queues (page - 0x400)).map fun x => x.head.toNat
  | .que, 0x110 => some (queStat s (page - 0x400))
  | .vi, 0x104 => some (viStat s (page - 0x10000))
  | .vi, 0x108 => some (viOf s (page - 0x10000)).rstBeats.toNat
  | _, o =>
    if isVio page then
      match o with
      | 0x10C => some (vioSel s page).ctl.toNat
      | 0x110 => some ((vioSel s page).descAddr.toNat % 2 ^ 32)
      | 0x114 => some ((vioSel s page).descAddr.toNat / 2 ^ 32)
      | 0x118 => some ((vioSel s page).state * 2 ^ 30 + (vioSel s page).lost)
      | _ => none
    else none

/-! ### The mailbox (R509, R510) -/

/-- A page's mailbox. The mailbox of a VI page holds the oldest unread reply (R303, R510); its SEQ counts the replies that have become
valid. -/
def mbxOf (s : State) (page : Nat) : Mailbox :=
  let m : Mailbox := tget {} s.mbx page
  if pageKind page = .vi then
    match (viOf s (page - 0x10000)).replies with
    | [] => { m with valid := false, nw := 0, words := [] }
    | r :: _ => { m with valid := true, nw := 8, seq := m.seq + 1, words := r.flatMap fun w => words32 2 w.toNat }
  else m

/-- MBX_STAT (Table 19-4). -/
def mbxStat (m : Mailbox) : Nat := flag m.valid 31 + flag m.early 30 + m.nw * 2 ^ 16 + m.seq.toNat

/-- A journal record as its 64 bytes, with its CRC-32C (R466). -/
def jrnBytes (r : Record) : List Byte :=
  let b := natLe 8 r.time ++ natLe 2 r.page ++ natLe 1 (if r.kind = stateKind then Config.stateCode else r.kind) ++ natLe 1 r.severity ++ natLe 4 r.seq ++ r.info.take 32
  let c := b ++ List.replicate (60 - b.length) 0
  c ++ natLe 4 (crc32c c).toNat

/-- The record that REL_JRN_SEL names. -/
def jrnRecord (s : State) : Option Record :=
  let i := rbits s 4 0x128 11 0
  if rbits s 4 0x128 12 12 = 1 then s.rel.hsRing[i]? else s.rel.hbmRing[i]?

/-- 32 bytes as eight words. -/
def wordsOf (bs : List Byte) : List W32 := (List.range (bs.length / 4)).map fun i => BitVec.ofNat 32 (leNat ((bs.drop (4 * i)).take 4))

/-- What a selection of a page returns: its words, and whether the capture counts an error; none where the owning chapter lists no such
selection (R510). -/
def selection (s : State) (page sel : Nat) : Option (List W32 × Bool) :=
  let p := (page - 0x100) / 4
  let c := coreOf s p
  let ok (n x : Nat) : Option (List W32 × Bool) := some (words32 n x, false)
  match pageKind page, sel with
  | .dev, 0 => ok 2 (s.accOffset + s.accData.toNat * 2 ^ 32)
  | .dev, 1 => ok 4 (s.now % 2 ^ 64 + (s.now - s.pins.aonSince) / 1000000000 * 2 ^ 64)
  | .boot, 0 => ok 8 (match s.boot.running with | some m => leNat (imgDigest m) | none => 0)
  | .boot, 1 => ok 4 (match s.boot.running with | some m => leNat (imgDigest m) / 2 ^ 256 | none => 0)
  | .boot, 2 => ok 1 (grFloor s + s.boot.configSvn * 2 ^ 16)
  | .sec, 0 => ok 8 (match s.boot.challenge with | some x => x.toNat | none => 0)
  | .sec, 1 => ok 3 (fuseField s 4616 64 + s.boot.fuseFixes % 256 * 2 ^ 64)
  | .hub, 0 => ok 2 (Config.hubTable (page - 8)).toNat
  | .pwr, 0 => ok 4 (s.power.refuserId.toNat + s.power.refuseAt * 2 ^ 64)
  | .pwr, 1 => ok 5 (s.power.compute + s.power.graphics * 2 ^ 32 + s.power.hub * 2 ^ 64 + s.power.io * 2 ^ 96 + s.power.total * 2 ^ 128)
  | .rel, 0 =>
    if rbits s 4 0x118 21 18 = 1 then ok 1 (s.rel.bistRow + s.rel.bistBank * 2 ^ 12 + s.rel.bistBit * 2 ^ 18) else ok 1 0
  | .rel, 1 => match jrnRecord s with | some r => some (wordsOf ((jrnBytes r).take 32), false) | none => some (words32 8 0, true)
  | .rel, 2 => match jrnRecord s with | some r => some (wordsOf ((jrnBytes r).drop 32), false) | none => some (words32 8 0, true)
  | .cad, 0 => ok 2 (sourcePos s (cadSel s)).toNat
  | .cad, 1 =>
    let x := trigOf s (trgSel s)
    ok 3 ((if tgArmed x then x.aPos else x.pos).toNat + (match x.latest with | some q => q.toNat * 2 ^ 64 | none => 0))
  | .cad, 2 => ok 4 (s.missSeq.toNat + s.missAt * 2 ^ 64)
  | .cad, 3 => ok 2 s.now
  | .pmc, n =>
    if n < 0x40 then ok 2 (shadowCounter s n)
    else if n < 0x60 then
      let x := shadowCore s (n - 0x40)
      ok 8 (x.clk.toNat + x.ret.toNat * 2 ^ 48 + x.waste.toNat * 2 ^ 96 + x.front.toNat * 2 ^ 144 + x.back.toNat * 2 ^ 192)
    else if 0x80 ≤ n ∧ n < 0xA0 then
      ok 3 ((tget {} s.pmc.shadow (2 * (n - 0x80)) : Counter).value.toNat + (tget {} s.pmc.shadow (2 * (n - 0x80) + 1) : Counter).value.toNat * 2 ^ 48)
    else if n = 0xFF then ok 3 (s.pmc.shadowAt % 2 ^ 64 + s.pmc.snapSeq.toNat * 2 ^ 64)
    else none
  | .mem, 0 => let x := chanRec s (page - 0x10); ok 2 (x.errAddr + x.errReq * 2 ^ 48)
  | .mem, 1 => some ([rget s page 0x108, rget s page 0x10C], false)
  | .syc, 0 => ok 2 (sliceRec s (page - 0x30)).errAddr
  | .syc, 1 => ok 2 ((List.range 8).foldl (fun n i => n + ((sliceRec s (page - 0x30)).evict.filter fun e => e.part == i).length * 2 ^ (6 * i)) 0)
  | .xlt0, 0 => ok 4 s.ctxRead.toNat
  | .xlt1, 0 => ok 2 s.xltAddr.toNat
  | .xlt1, 1 => ok 2 s.xltEntry.toNat
  | .core, 0 => ok 2 c.fltPc.toNat
  | .core, 1 => ok 2 c.fltAddr.toNat
  | .core, 2 => ok 1 c.fltMask.toNat
  | .core, 3 =>
    let age (o : Option Nat) : W32 := match o.bind (tfind c.groups) with | some g => g.age | none => 0
    some ([c.launches, age c.order.head?, age c.order.getLast?], false)
  | .mxa, 0 => ok 2 (c.chkPc.toNat + c.chkSlot * 2 ^ 48)
  | .mxa, 1 => ok 2 (c.chkBound.toNat + c.chkDiff.toNat * 2 ^ 32)
  | .str, 0 => ok 2 c.strAddr.toNat
  | .str, 1 => ok 2 (c.strSeq.toNat + c.strTag * 2 ^ 32)
  | .str, 2 => some ([0, 1, 2, 3].map fun e => (engOf c e).last, false)
  | .gfx, 0 => ok 2 (c.gfxAddr.toNat % 2 ^ 48 + c.gfxTag * 2 ^ 48)
  | .gfx, 1 => match coreBatch s p with | some x => ok 2 (x.batch.setUp % 2 ^ 16 + x.batch.blocks * 2 ^ 32) | none => ok 2 0
  | .hif0, 0 => ok 4 s.aerLog.toNat
  | .hif1, 1 => ok 2 ((List.range 64).foldl (fun n i => n + flag (viOf s i).resetBusy i) 0)
  | .spk, 0 => let l := linkOf s (page - 0x210); ok 4 (l.sent.toNat + l.received.toNat * 2 ^ 64)
  | .spk, 1 => ok 2 (linkOf s (page - 0x210)).recordAt.toNat
  | .cmp, 0 => ok 2 (pipeOf s (page - 0x230)).fltAddr.toNat
  | .cmp, 1 => let x := pipeOf s (page - 0x230); ok 4 ((mkPos x.frame x.line).toNat + x.line0At * 2 ^ 64)
  | .cpr, 0 => ok 2 (cprOf s (page - 0x240)).fltAddr.toNat
  | .cpr, 1 => some ([0, 1, 2, 3].map fun r => (cprRing (cprOf s (page - 0x240)) r).head, false)
  | .que, 0 =>
    let n := rbits s page 0x114 15 0
    match tfind s.queues (page - 0x400), tfind s.fences n with
    | some q, some f =>
      if granted s n q.ctx then ok 4 (f.value.toNat + (f.state.toNat + f.regress.toNat * 2 ^ 16) * 2 ^ 64 + (genOf s n).toNat * 2 ^ 96)
      else some (words32 4 0, true)
    | _, _ => some (words32 4 0, true)
  | .que, 1 => match tfind s.queues (page - 0x400) with
    | some q => ok 4 (q.recLo.toNat + q.recHi.toNat * 2 ^ 64)
    | none => ok 4 0
  | .vi, 0 => ok 8 0
  | _, n =>
    if !isVio page then none
    else if n = 0 then ok 2 (tget 0 s.vioAddr page).toNat
    else if n = 1 && servoPort s == some (page - 0x220) && decide (page < 0x224) then
      some (words32 2 (BitVec.ofInt 64 s.ptp.offset).toNat ++ words32 2 (BitVec.ofInt 64 s.ptp.delay).toNat, false)
    else none

/-! ### Reading (R5, R6, R506-R510) -/

/-- The value that a read of a register returns (R508): WO and SC fields, reserved bits and offsets of no register read as zero. -/
def regValue (s : State) (page off : Nat) : W32 :=
  match regRow page off with
  | none => 0
  | some r =>
    let v : W32 :=
      if off = 0x1C then BitVec.ofNat 32 (mbxStat (mbxOf s page))
      else if 0x20 ≤ off ∧ off < 0x40 then (mbxOf s page).words.getD ((off - 0x20) / 4) 0
      else match if off < 0x100 then none else liveBlock s page off with
        | some n => BitVec.ofNat 32 n
        | none => rget s page off
    r.flds.foldl (fun m f => if f.acc = .wo ∨ f.acc = .sc then m else putBits m f.hi f.lo (bits v f.hi f.lo)) 0

/-- The bits of a register that a read clears. -/
def rcMask (r : Reg) : W32 := r.flds.foldl (fun m f => if f.acc = .rc then putBits m f.hi f.lo (2 ^ (f.hi + 1 - f.lo) - 1) else m) 0

/-- The RC fields of a register are cleared. -/
def clearRc (s : State) (page off : Nat) (m : W32) : State :=
  if pageKind page = .pmc ∧ off = 0x11C then { s with pmc := { s.pmc with ovf := s.pmc.ovf &&& 0xFFFFFFFF00000000#64 } }
  else if pageKind page = .pmc ∧ off = 0x120 then { s with pmc := { s.pmc with ovf := s.pmc.ovf &&& 0x00000000FFFFFFFF#64 } }
  else if pageKind page = .pmc ∧ off = 0x124 then { s with pmc := { s.pmc with fovf := 0 } }
  else if m = 0 then s
  else rset s page off (rget s page off &&& ~~~m)

/-- A data word of the mailbox is read: zeros and EARLY while no capture is valid; the highest word consumes it (R510). -/
def mbxRead (s : State) (page word : Nat) : State × W32 :=
  let m := mbxOf s page
  let stored : Mailbox := tget {} s.mbx page
  if !m.valid then ({ s with mbx := tput s.mbx page { stored with early := true } }, 0)
  else
    let v := m.words.getD word 0
    if word + 1 ≠ m.nw then (s, v)
    else if pageKind page = .vi then
      (viUpd { s with mbx := tput s.mbx page { stored with seq := stored.seq + 1 } } (page - 0x10000) fun x => { x with replies := x.replies.tail }, v)
    else ({ s with mbx := tput s.mbx page { stored with valid := false } }, v)

/-- A read with its side effects: the data, and what it clears. Overflow bits of counters that count clock by clock, and the values that
the HBM stacks report, are taken at the read. -/
def regRead (s0 : State) (page off : Nat) : State × W32 :=
  if 0x20 ≤ off ∧ off < 0x40 ∧ off % 4 = 0 then mbxRead s0 page ((off - 0x20) / 4)
  else
    let s := if pageKind page = .pmc ∧ 0x11C ≤ off then pmcTouch s0 else s0
    let v := regValue s page off
    let s1 := if pageKind page = .mem ∧ off = 0x104 then { s with free := s.free + 1 } else s
    match regRow page off with
    | some r => (clearRc s1 page off (rcMask r), v)
    | none => (s1, v)

end Sys2Proof.Machine
end

