-- ==== Sys2Proof/Machine/RegAccess.lean ====
section
/-! DEFINITION. Access to the register space (19_register_interface.md): the rights of each path, refused accesses, what a write leaves in
each field, what the write of each register does, and the rows that are such accesses (R5-R8, R499-R513, R516, R517, R541). -/
namespace Sys2Proof.Machine

/-! ### Paths (R496, R497, R499-R503) -/

/-- What an access reaches: a page in full (register below 0x800); its mirror (R508); a refusal, with the page whose ERR_CNT counts it if
there is one, and PATH, KIND, VI and PAGE of the record; a part that reads zeros and ignores writes (R501); no claim on it, so that it
completes as Unsupported Request; or no such path at all. -/
inductive Reach where
  | full (page : Nat)
  | mirror (page : Nat)
  | refused (target : Option Nat) (path kind vi page : Nat)
  | zeros
  | unclaimed
  | nowhere
deriving DecidableEq, Repr

/-- Codes of DEV_ACC_INFO (Table 19-9). -/
def apHub : Nat := 0
def apPcie : Nat := 1
def apJtag : Nat := 2
def akWrite : Nat := 1
def akSize : Nat := 2
def akUnassigned : Nat := 3

/-- The page in full below offset 0x800, and its mirror from there up. -/
def halves (page off : Nat) : Reach := if off < 0x800 then .full page else .mirror page

/-- Whether a page of the register space exists. -/
def pageExists (page : Nat) : Bool := decide (page < 0x4000) && pageKind page != .none

/-- The page that page index `i` of a function's view stands for: its VI page, or the doorbell page of a queue of one of its contexts
(R502). -/
def viewPage (s : State) (fn i : Nat) : Option Nat :=
  if i = 0 then some (pgVi fn)
  else if 0x400 ≤ i ∧ i < 0x800 ∧ queueVi s (i - 0x400) = some fn then some i
  else none

/-- Whether a function exists and answers (R300, R502). -/
def fnAnswers (s : State) (fn : Nat) : Bool := (fn == 0 || decide (fn ≤ s.numVfs)) && !(viOf s fn).disabled

/-- The rights of Table 19-2. `whole`: one DW with every byte enable set (R503). -/
def reach (s : State) (path : Path) (page off : Nat) (whole write : Bool) : Reach :=
  let known (pg : Nat) : Option Nat := if pageExists pg then some pg else none
  match path with
  | .hub =>
    if !s.pins.powered then .nowhere
    else if pageExists page then halves page off
    else .refused none apHub akUnassigned 0 (page % 0x4000)
  | .pf =>
    if !s.boot.up then .unclaimed
    else if !whole || off % 4 != 0 then .refused (known page) apPcie akSize 0 page
    else if !pageExists page then .refused none apPcie akUnassigned 0 page
    else if write then .refused (some page) apPcie akWrite 0 page
    else .mirror page
  | .view fn =>
    if !s.boot.up || !fnAnswers s fn then .unclaimed
    else if 0x800 ≤ page then (if fn = 0 then .zeros else .unclaimed)
    else match viewPage s fn page with
      | none => .refused (some (pgVi fn)) apPcie akUnassigned fn page
      | some pg =>
        if !whole || off % 4 != 0 then .refused (some pg) apPcie akSize fn page
        else if write && pageKind pg == .que && off == 0x100 then .refused (some pg) apPcie akWrite fn page
        else halves pg off
  | .jtag =>
    if !s.pins.powered then .nowhere
    else if page = pgSec then halves page off
    else if s.boot.dbgLevel = 0 then .nowhere
    else if !pageExists page then .refused none apJtag akUnassigned 0 page
    else if write then .refused (some page) apJtag akWrite 0 page
    else .mirror page

/-- A refused access (R500, R514, R515): the target page counts it, DEV_ACC_INFO records it, and ACC is raised. -/
def refuseAccess (s : State) (target : Option Nat) (path kind vi page off : Nat) (data : W32) : State :=
  let s1 := match target with | some t => errCount s t | none => s
  let s2 := if infoHeld s1 0 0x10C then s1 else { s1 with accOffset := page * 0x1000 + off, accData := data }
  raiseIrq (rcount (capture s2 0 0x10C 30 (path * 2 ^ 28 + kind * 2 ^ 26 + vi * 2 ^ 20 + page)) 0 0x110) 0 0

/-! ### Fields (R5-R7, R511) -/

/-- Whether a field takes the value that stands in its bits of a written word. -/
def fieldTakes (f : Fld) (v : W32) : Bool :=
  (f.acc == .rw || f.acc == .rwt || f.acc == .wo)
  && (f.valid.isEmpty || f.valid.any fun r => decide (r.1 ≤ bits v f.hi f.lo) && decide (bits v f.hi f.lo ≤ r.2))

/-- Whether a field is written with an encoding that its table does not list. -/
def fieldBad (f : Fld) (v : W32) : Bool := (f.acc == .rw || f.acc == .rwt || f.acc == .wo) && !fieldTakes f v

/-- The word that a write leaves: the fields that take their value, W1S bits set, and all else as it was. -/
def fieldsWritten (r : Reg) (old v : W32) : W32 :=
  r.flds.foldl (fun m f =>
    if fieldTakes f v then putBits m f.hi f.lo (bits v f.hi f.lo)
    else if f.acc = .w1s then putBits m f.hi f.lo (bits (old ||| v) f.hi f.lo)
    else m) old

/-- The entry that a windowed register shows now; 0 for other registers. -/
def windowSel (s : State) (page off : Nat) : Nat :=
  match pageKind page, off with
  | .pwr, 0x10C => rbits s pgPwr 0x108 7 0
  | .rel, 0x10C => rbits s 4 0x108 4 0
  | .rel, 0x114 => rbits s 4 0x110 5 0
  | .cad, 0x110 => cadSel s
  | .cad, 0x124 => trgSel s
  | .cpr, 0x108 => rbits s page 0x104 1 0
  | _, o => if isVio page && o == 0x10C then rbits s page 0x108 4 0 else 0

/-- The word that a register's fields hold before a write. -/
def storedWord (s : State) (page off : Nat) : W32 :=
  match if off < 0x100 then none else liveBlock s page off with
  | some n => BitVec.ofNat 32 n
  | none => rget s page off

/-- The three copies of the fields that a write takes are equal again (R451, R511). -/
def votedAgain (s : State) (page off : Nat) (r : Reg) (v : W32) : State :=
  let sel := windowSel s page off
  { s with unvoted := s.unvoted.filter fun k =>
      !(k.1 == page && k.2.1 == off && k.2.2 / 32 == sel && r.flds.any fun f => f.lo == k.2.2 % 32 && fieldTakes f v) }

/-! ### What a write does besides storing -/

/-- An off-row or refused write counts on a page. -/
def errIf (b : Bool) (page : Nat) (s : State) : State := if b then errCount s page else s

/-- MBX_CTL: a selection that the page does not list leaves SEL and takes no REQ; REQ captures it (R509, R510). The mailbox of a VI page
is its queue of replies (R303). -/
def mailboxWrite (s : State) (page : Nat) (v : W32) : State :=
  match selection s page (bits v 7 0) with
  | none => errCount s page
  | some (ws, bad) =>
    let s1 := rset s page 0x18 (BitVec.ofNat 32 (bits v 7 0))
    if !bit v 31 then s1
    else
      let m : Mailbox := tget {} s1.mbx page
      let m1 : Mailbox := if pageKind page = .vi then { m with early := false }
        else { words := ws, valid := true, early := false, nw := ws.length, seq := m.seq + 1 }
      errIf bad page { s1 with mbx := tput s1.mbx page m1 }

/-- Whether the page's interrupt output is driven (R505). -/
def irqOut (s : State) (page : Nat) : Bool := bit (rget s page 0x04) 31 && (rget s page 0x10 &&& rget s page 0x0C) != 0

/-- CTL and IRQ_EN: a QUE or VI page whose output rises sends the message. -/
def irqWrite (s : State) (page off : Nat) (w : W32) : State :=
  let s1 := rset s page off w
  if !irqOut s page && irqOut s1 page then
    match pageVector s1 page with
    | some (fn, v) => sendVector s1 fn v
    | none => s1
  else s1

/-- DEVICE_OFF (R437): graphs stop, the journal is committed, every key is destroyed, and the rails go off in order; the always-on block
keeps its wake settings. -/
def goOff (s : State) : State :=
  let s1 := commitAll s.rel.hsPending.length s
  let s2 := rset (rset (railsOff s1) pgPwr 0x128 (rget s pgPwr 0x128)) pgPwr 0x12C (rget s pgPwr 0x12C)
  let s3 := (List.range 8).foldl (fun x n => rput x (pgSpk n) 0x100 28 28 (rbits s (pgSpk n) 0x100 28 28)) s2
  { s3 with power := { s3.power with off := true, offAt := s.now + downTime } }

/-- PWR_DEV_CTL -/
def devCtlWrite (s : State) (v w : W32) : State :=
  let s1 := rset s pgPwr 0x128 w
  if bit v 31 then goOff s1 else s1

/-- CAD_SRC_CFG (Table 11-10): KIND 6 and 7, and a time-out of zero of a kind that has one, fall under R7; the source is then bound as
written. -/
def srcCfgWrite (s : State) (w : W32) : State :=
  let n := cadSel s
  let old := (sourceOf s n).cfg
  let badKind := decide (6 ≤ bits w 31 29)
  let w1 := if badKind then putBits w 31 29 (bits old 31 29) else w
  let timed := decide (1 ≤ bits w1 31 29) && decide (bits w1 31 29 ≤ 4)
  let badTmo := timed && bits w1 15 0 == 0
  let w2 := if badTmo then putBits (putBits w1 31 29 (bits old 31 29)) 15 0 (bits old 15 0) else w1
  errIf badTmo pgCad (errIf badKind pgCad (bindSource s n w2))

/-- CAD_SRC_SEL with SET. -/
def srcSelWrite (s : State) (v w : W32) : State :=
  let s1 := rset s pgCad 0x10C w
  if bit v 31 then softSet s1 (cadSel s1) else s1

/-- CAD_TRG_CTL (Tables 11-3, 11-12): an action that is not listed, and PERIODIC with an increment of zero, fall under R7; ARM then arms
or disarms the slot. -/
def trgCtlWrite (s : State) (w : W32) : State :=
  let t := trgSel s
  let x := trigOf s t
  let badAction := !(decide (1 ≤ bits w 30 28) && decide (bits w 30 28 ≤ 4))
  let w1 := if badAction then putBits w 30 28 (bits x.ctl 30 28) else w
  let badPer := bit w1 27 && x.inc == 0
  let w2 := if badPer then putBits w1 27 27 (bits x.ctl 27 27) else w1
  let s1 := errIf badPer pgCad (errIf badAction pgCad s)
  if bit w2 31 then armTrigger s1 t w2 else disarmTrigger s1 t w2

/-- CAD_TRG_POS, INC, ARG, DLY and TPL of the selected slot; an armed trigger keeps the values it took (R316). -/
def trgWrite (s : State) (off : Nat) (w : W32) : State :=
  let t := trgSel s
  let x := trigOf s t
  match off with
  | 0x128 => setTrig s t { x with pos := putBits x.pos 31 0 w.toNat }
  | 0x12C => setTrig s t { x with pos := putBits x.pos 63 32 w.toNat }
  | 0x130 => if w = 0 ∧ tgPeriodic x then errCount s pgCad else setTrig s t { x with inc := w }
  | 0x134 => setTrig s t { x with arg := w }
  | 0x138 => setTrig s t { x with dly := w }
  | _ => setTrig s t { x with tpl := tset 0 x.tpl ((off - 0x140) / 4) w }

/-- HUB_CTL of pair `i`: a pair whose EN is cleared is held in reset, and serves again when it is set. -/
def hubCtlWrite (s : State) (i : Nat) (w : W32) : State :=
  let was := bit (rget s (pgHub i) 0x100) 31
  let s1 := rset s (pgHub i) 0x100 w
  let x := pairOf s i
  if was && !bit w 31 && x.state != 4 then
    updateHealth (setPair s1 i { x with state := 0, beats := pairBeats s x })
  else if !was && bit w 31 && x.state == 0 then updateHealth (setPair s1 i { x with state := 2, beatAt := s.now })
  else s1

/-- SPK_CFG of link `n`: EN starts training or takes the link down; WAKE sends the pattern (R425). -/
def spkCfgWrite (s : State) (n : Nat) (v w : W32) : State :=
  let was := spkEn s n
  let s1 := rset s (pgSpk n) 0x100 w
  let s2 :=
    if !was && bit w 31 then setLink s1 n { linkOf s1 n with state := lkTraining, lastValid := s.now }
    else if was && !bit w 31 then takeDown s1 n
    else s1
  if bit v 27 then setLink s2 n { linkOf s2 n with waking := true } else s2

/-- SPK_GRP: ignored and counted while any link is UP (R428). -/
def devIdWrite (s : State) (w : W32) : State :=
  if (List.range 8).any fun n => (linkOf s n).state == lkUp then errCount s 0x210 else rset s 0x210 0x180 w

/-- VIO_CFG: one port only may be the servo port (R376), and an I/O class above its cap enables no further port (R443). -/
def vioCfgWrite (s : State) (page : Nat) (w : W32) : State :=
  let old := rget s page 0x100
  let badPtp := isEth page && bit w 27 && [0x220, 0x221, 0x222, 0x223].any fun q => q != page && bit (rget s q 0x100) 27
  let badEn := bit w 31 && !bit old 31 && s.power.ioHeld
  let w1 := if badPtp then putBits w 27 27 (bits old 27 27) else w
  let w2 := if badEn then clrBit w1 31 else w1
  servoCheck (errIf badEn page (errIf badPtp page (rset s page 0x100 w2))) page

/-- VIO_CH_CTL: a channel is not enabled while the I/O class is above its cap (R443). -/
def vioChWrite (s : State) (page : Nat) (w : W32) : State :=
  if bit w 31 && !bit (vioSel s page).ctl 31 && s.power.ioHeld then chCtlWrite (errCount s page) page (clrBit w 31)
  else chCtlWrite s page w

/-- VIO_CH_DESC_LO and HI. -/
def vioDescWrite (s : State) (page : Nat) (hi lo : Nat) (w : W32) : State :=
  let ch := rbits s page 0x108 4 0
  let c := chanOf s page ch
  setVChan s page ch { c with descAddr := putBits c.descAddr hi lo w.toNat }

/-- CPR_RING_BASE_LO and HI. -/
def cprBaseWrite (s : State) (e hi lo : Nat) (w : W32) : State :=
  let r := rbits s (pgCpr e) 0x104 1 0
  let c := cprOf s e
  setCpr s e (putRing c r { cprRing c r with wbase := putBits (cprRing c r).wbase hi lo w.toNat })

/-- QUE_CFG of queue `q`: the queue takes its priority, size and context; V = 0 destroys it. -/
def queCfgWrite (s : State) (q : Nat) (w : W32) : State :=
  match tfind s.queues q with
  | none => rset s (pgQue q) 0x100 w
  | some x =>
    if bit w 31 then
      rset { s with queues := tput s.queues q { x with prio := bits w 30 28, log2 := bits w 27 24 + 4, ctx := bits w 11 0 } } (pgQue q) 0x100 w
    else rset (destroyQueue s q) (pgQue q) 0x100 w

/-- The eight words of VI_HCQ_CMD0-15. -/
def hcqWords (s : State) (page : Nat) : List W64 :=
  (List.range 8).map fun i => BitVec.ofNat 64 ((rget s page (0x200 + 8 * i)).toNat + (rget s page (0x204 + 8 * i)).toNat * 2 ^ 32)

/-- VI_HCQ_GO (R302, R556): a seventeenth command, and one during the function's reset, is ignored and counted. -/
def hcqGo (s : State) (page : Nat) : State :=
  let fn := page - 0x10000
  if (viOf s fn).resetBusy || decide (16 ≤ (viOf s fn).cmds.length) then errCount s page
  else viUpd s fn fun x => { x with cmds := x.cmds ++ [hcqWords s page] }

/-- SYC_FLUSH: ignored and counted while a flush runs (R249). -/
def flushWrite (s : State) (n : Nat) (v w : W32) : State :=
  if (sliceRec s n).flush.isSome then errCount s (pgSyc n)
  else if bit v 31 then startFlush s n (BitVec.ofNat 16 (bits v 15 0))
  else rset s (pgSyc n) 0x10C w

/-- XLT_CTX_CMD and XLT_INV (Table 09-9). -/
def ctxCmdWrite (s : State) (v w : W32) : State :=
  if !bit v 31 then rset s 0x40 0x110 w
  else if bit v 30 then ctxTableRead s (bits v 11 0)
  else ctxTableWrite s (bits v 11 0)
def invWrite (s : State) (v w : W32) : State := if bit v 31 then queueInvalidation s (bits v 11 0) else rset s 0x40 0x114 w

/-- REL_CORE_STAT of the selected core. -/
def roleWrite (s : State) (w : W32) : State :=
  let p := rbits s 4 0x110 5 0
  setRole s p { roleOf s p with role := bits w 31 30, strikes := bits w 29 28, test := bits w 27 26, repair := bits w 5 0 }

/-! ### A write (R7, R507) -/

/-- A register takes the written word `v`, of which its fields hold `w`. -/
def storeWord (s : State) (page off : Nat) (v w : W32) : State :=
  match off with
  | 0x04 => irqWrite s page off w
  | 0x0C => irqWrite s page off w
  | 0x18 => mailboxWrite s page v
  | _ =>
  match pageKind page, off with
  | .sec, 0x104 => debugWrite (rset s page off w) v
  | .pwr, 0x100 => profileWrite (rset s page off w) (rget s page off)
  | .pwr, 0x10C => domainGo s v [] {}
  | .pwr, 0x118 => aimRail (rset s page off w)
  | .pwr, 0x128 => devCtlWrite s v w
  | .rel, 0x100 => if s.boot.started then updateHealth (rset s page off w) else rset s page off w
  | .rel, 0x104 => svcPins (rset s page off w) (bits w 31 30)
  | .rel, 0x10C => setMap s (rbits s 4 0x108 4 0) (bits w 5 0)
  | .rel, 0x114 => roleWrite s w
  | .cad, 0x10C => srcSelWrite s v w
  | .cad, 0x110 => srcCfgWrite s w
  | .cad, 0x124 => trgCtlWrite s w
  | .cad, o => if 0x128 ≤ o ∧ o < 0x180 then trgWrite s o w else rset s page o w
  | .pmc, 0x100 => pmcCfgWrite (rset s page off w) v
  | .pmc, 0x10C => evselWrite s v
  | .pmc, 0x118 => pmcCmdWrite s v
  | .hub, 0x100 => hubCtlWrite s (page - 8) w
  | .syc, 0x10C => flushWrite s (page - 0x30) v w
  | .xlt0, 0x110 => ctxCmdWrite s v w
  | .xlt0, 0x114 => invWrite s v w
  | .spk, 0x100 => spkCfgWrite s (page - 0x210) v w
  | .spk, 0x180 => devIdWrite s w
  | .cmp, 0x100 => cmpCfgWrite s (page - 0x230) w
  | .cpr, 0x108 => ringCtlWrite s (page - 0x240) (rbits s page 0x104 1 0) w
  | .cpr, 0x10C => cprBaseWrite s (page - 0x240) 31 0 w
  | .cpr, 0x110 => cprBaseWrite s (page - 0x240) 47 32 w
  | .que, 0x100 => queCfgWrite s (page - 0x400) w
  | .que, 0x104 => tailWrite s (page - 0x400) v
  | .vi, 0x100 => if bit v 0 then hcqGo s page else s
  | _, o =>
    if isVio page then
      match o with
      | 0x100 => vioCfgWrite s page w
      | 0x10C => vioChWrite s page w
      | 0x110 => vioDescWrite s page 31 0 w
      | 0x114 => vioDescWrite s page 47 32 w
      | _ => rset s page o w
    else rset s page o w

/-- Whether a register has a field that software writes. -/
def writable (r : Reg) : Bool := r.flds.any fun f => f.acc != .ro && f.acc != .rc

/-- A write that reaches a register: refused fields keep their values and count; offsets of no register and read-only registers ignore
it. -/
def regWrite (s : State) (page off : Nat) (v : W32) : State :=
  match regRow page off with
  | none => s
  | some r =>
    if !writable r then s
    else
      let s1 := errIf (off != 0x18 && r.flds.any fun f => fieldBad f v) page (votedAgain s page off r v)
      storeWord s1 page off v (fieldsWritten r (storedWord s page off) v)

/-- A write by a path. -/
def accessWrite (path : Path) (page off : Nat) (whole : Bool) (v : W32) (s : State) : State :=
  match reach s path page off whole true with
  | .full pg => regWrite s pg off v
  | .mirror pg => errCount s pg
  | .refused t p k vi pg => refuseAccess s t p k vi pg off v
  | .zeros => s
  | .unclaimed => s
  | .nowhere => s

/-- A read by a path: `rdata` holds the data, none for Unsupported Request. -/
def accessRead (path : Path) (page off : Nat) (whole : Bool) (s : State) : State :=
  match reach s path page off whole false with
  | .full pg => let x := regRead s pg off; { x.1 with rdata := some x.2 }
  | .mirror pg => { s with rdata := some (regValue s pg (off % 0x800)) }
  | .refused t p k vi pg => { refuseAccess s t p k vi pg off 0 with rdata := some 0 }
  | .zeros => { s with rdata := some 0 }
  | .unclaimed => { s with rdata := none }
  | .nowhere => s

/-! ### The rows -/

/-- Whether an operand is an offset within a page. -/
def offOk (off : Nat) : Bool := decide (off < 0x1000)

/-- REGISTER_WRITE, and a read with its side effects (RC_READ). -/
def execRegisterWrite (path : Path) (page off : Nat) (whole : Bool) (v : W32) (s : State) : Out :=
  onUnit (offOk off) <| .next (accessWrite path page off whole v s)
def execRcRead (path : Path) (page off : Nat) (s : State) : Out :=
  onUnit (offOk off) <| .next (accessRead path page off true s)

/-- MAILBOX_CAPTURE: MBX_CTL is written with REQ = 1; MAILBOX_READ: a data word is read (R509, R510). -/
def execMailboxCapture (path : Path) (page : Nat) (v : W32) (s : State) : Out :=
  whenever (bit v 31) s (accessWrite path page 0x18 true v s)
def execMailboxRead (path : Path) (page word : Nat) (s : State) : Out :=
  onUnit (decide (word < 8)) <| .next (accessRead path page (0x20 + 4 * word) true s)

/-- QUE_TAIL_WRITE by the function that holds the queue (R281). -/
def execQueTailWrite (fn q : Nat) (v : W32) (s : State) : Out :=
  onUnit (decide (fn < 64) && decide (q < 1024)) <| .next (accessWrite (.view fn) (pgQue q) 0x104 true v s)

/-- SOURCE_BIND, SOFT_POSITION_SET, TRIGGER_ARM, TRIGGER_DISARM (R311, R316, R337). -/
def execSourceBind (path : Path) (v : W32) (s : State) : Out := .next (accessWrite path pgCad 0x110 true v s)
def execSoftPositionSet (path : Path) (v : W32) (s : State) : Out := whenever (bit v 31) s (accessWrite path pgCad 0x10C true v s)
def execTriggerArm (path : Path) (v : W32) (s : State) : Out := whenever (bit v 31) s (accessWrite path pgCad 0x124 true v s)
def execTriggerDisarm (path : Path) (v : W32) (s : State) : Out := whenever (!bit v 31) s (accessWrite path pgCad 0x124 true v s)

/-- CHANNEL_ENABLE and CHANNEL_STOP of the channel that VIO_CH_SEL names (R365, R388). -/
def execChannelEnable (path : Path) (page : Nat) (v : W32) (s : State) : Out :=
  onUnit (isVio page) <| whenever (bit v 31) s (accessWrite path page 0x10C true v s)
def execChannelStop (path : Path) (page : Nat) (s : State) : Out :=
  onUnit (isVio page) <| .next (accessWrite path page 0x10C true (clrBit (vioSel s page).ctl 31) s)

/-- PIPE_ENABLE and PIPE_DISABLE (R377, R388). -/
def execPipeEnable (path : Path) (n : Nat) (v : W32) (s : State) : Out :=
  onUnit (decide (n < 4)) <| whenever (bit v 31) s (accessWrite path (pgCmp n) 0x100 true v s)
def execPipeDisable (path : Path) (n : Nat) (s : State) : Out :=
  onUnit (decide (n < 4)) <| .next (accessWrite path (pgCmp n) 0x100 true (clrBit (rget s (pgCmp n) 0x100) 31) s)

/-- CPR_RING_ENABLE of the ring that CPR_RING_SEL names (R393). -/
def execCprRingEnable (path : Path) (e : Nat) (v : W32) (s : State) : Out :=
  onUnit (decide (e < 4)) <| whenever (bit v 31) s (accessWrite path (pgCpr e) 0x108 true v s)

/-- PROFILE_CHANGE (R444). -/
def execProfileChange (path : Path) (v : W32) (s : State) : Out := .next (accessWrite path pgPwr 0x100 true v s)

/-- DEVICE_OFF: Fragan sets PWR_DEV_CTL.OFF (R437). -/
def execDeviceOff (s : State) : Out := whenever (s.pins.powered && s.boot.started) s (goOff s)

/-- DEBUG_REQUEST, DEBUG_CHECK and DEBUG_END (R489). -/
def execDebugRequest (path : Path) (v : W32) (s : State) : Out := whenever (bit v 31) s (accessWrite path pgSec 0x104 true v s)
def execDebugCheck (path : Path) (v : W32) (s : State) : Out := whenever (bit v 30) s (accessWrite path pgSec 0x104 true v s)
def execDebugEnd (path : Path) (v : W32) (s : State) : Out := whenever (bits v 29 28 == 0) s (accessWrite path pgSec 0x104 true v s)

/-- PMC_SNAPSHOT, PMC_FREEZE, PMC_PRESET and PMC_CLEAR_ALL (R523, R524). -/
def execPmcSnapshot (path : Path) (v : W32) (s : State) : Out := whenever (bit v 30) s (accessWrite path pmcPage 0x100 true v s)
def execPmcFreeze (path : Path) (v : W32) (s : State) : Out := .next (accessWrite path pmcPage 0x100 true v s)
def execPmcPreset (path : Path) (v : W32) (s : State) : Out := whenever (bit v 31) s (accessWrite path pmcPage 0x118 true v s)
def execPmcClearAll (path : Path) (v : W32) (s : State) : Out := whenever (bit v 30) s (accessWrite path pmcPage 0x118 true v s)

/-- HIF_LINK_CHANGE: HIF_LINK_STAT takes its new value, and LINK is raised when it changes (R516, Table 19-12). -/
def hifLinkOk (v : W32) : Bool :=
  bits v 19 0 == 0 && (if bit v 31 then decide (1 ≤ bits v 30 28) && decide (bits v 30 28 ≤ 5) && decide (1 ≤ bits v 27 23)
    && decide (bits v 27 23 ≤ 16) && decide (bits v 22 20 ≤ 3) else bits v 30 23 == 0 && bits v 22 20 == 4)
def setHifLink (s : State) (v : W32) : State :=
  if rget s 0x200 0x100 = v then s else raiseIrq (rset s 0x200 0x100 v) 0x200 0
def execHifLinkChange (v : W32) (s : State) : Out := whenever (hifLinkOk v) s (setHifLink s v)

/-! ### Voted fields (R450, R451, R511) -/

/-- The stored word of a register is replaced without what a write does besides. -/
def putWord (s : State) (page off : Nat) (w : W32) : State :=
  match pageKind page, off with
  | .pwr, 0x10C => updDom s (rbits s pgPwr 0x108 7 0) fun x => { x with ctl := w }
  | .rel, 0x10C => { s with map := tput s.map (rbits s 4 0x108 4 0) (bits w 5 0) }
  | .rel, 0x114 =>
    let p := rbits s 4 0x110 5 0
    { s with roles := tput s.roles p { roleOf s p with role := bits w 31 30, strikes := bits w 29 28, test := bits w 27 26, repair := bits w 5 0 } }
  | .cad, 0x110 => setSource s (cadSel s) { sourceOf s (cadSel s) with cfg := w }
  | .cad, 0x124 => setTrig s (trgSel s) { trigOf s (trgSel s) with ctl := w }
  | .cpr, 0x108 =>
    let r := rbits s page 0x104 1 0
    let c := cprOf s (page - 0x240)
    setCpr s (page - 0x240) (putRing c r { cprRing c r with ctl := w })
  | _, o =>
    if isVio page && o == 0x10C then
      let ch := rbits s page 0x108 4 0
      setVChan s page ch { chanOf s page ch with ctl := w }
    else rset s page o w

/-- What has been flipped in copy `c` of a register. -/
def flipsOf (ups : List Upset) (page off c : Nat) : W32 :=
  ups.foldl (fun m u => if u.page = page ∧ u.off = off ∧ u.copy = c then m ^^^ u.flip else m) 0

/-- One disagreement is counted in TMR_STAT, and STAT.TMR is set. -/
def tmrCount (s : State) (page off : Nat) : State :=
  rput (rput (rbump s page 0x40 15 0 1) page 0x40 23 16 (off / 4)) page 0x08 30 30 1

/-- One voted field is scrubbed: equal copies stand; the majority is written back into an odd copy; three that differ are recorded. -/
def scrubField (page off : Nat) (a b c : W32) (s : State) (f : Fld) : State :=
  if f.acc ≠ .rwt then s
  else
    let x := bits a f.hi f.lo
    let y := bits b f.hi f.lo
    let z := bits c f.hi f.lo
    let flip (m : Nat) (s : State) : State :=
      if m = 0 then s
      else
        let w := storedWord s page off
        putWord s page off (putBits w f.hi f.lo (bits w f.hi f.lo ^^^ m))
    if x = y ∧ y = z then flip x s
    else if x = y ∨ x = z then tmrCount (flip x s) page off
    else if y = z then tmrCount (flip y s) page off
    else
      let key := (page, off, 32 * windowSel s page off + f.lo)
      let s1 := rput (tmrCount s page off) page 0x40 31 31 1
      { s1 with unvoted := if s1.unvoted.contains key then s1.unvoted else s1.unvoted ++ [key] }

/-- One register is scrubbed. -/
def scrubReg (ups : List Upset) (s : State) (k : Nat × Nat) : State :=
  match regRow k.1 k.2 with
  | none => s
  | some r => r.flds.foldl (scrubField k.1 k.2 (flipsOf ups k.1 k.2 0) (flipsOf ups k.1 k.2 1) (flipsOf ups k.1 k.2 2)) s

/-- Fragan rewrites the fields that had no majority, from its own record, and journals each (R451). -/
def rewriteUnvoted (s : State) : State :=
  s.unvoted.foldl (fun s k => journal s k.1 5 (natLe 2 k.2.1)) { s with unvoted := [] }

/-- TMR_SCRUB: a pass of the scrubber over the upsets since the last; the field that a windowed register shows is that of the entry it
shows now. -/
def execTmrScrub (ups : List Upset) (s : State) : Out :=
  .next (((ups.map fun u => (u.page, u.off)).eraseDups).foldl (scrubReg ups) (rewriteUnvoted s))

end Sys2Proof.Machine
end

