-- ==== Sys2Proof/Machine/Graphs.lean ====
section
/-! DEFINITION. Service graphs (R305, R386, R442, R478): loading, starting and stopping them, and the job that starts a stage. The
contexts and queues of a graph exist from GRAPH_START to GRAPH_STOP. -/
namespace Sys2Proof.Machine

/-- An image as read: its header of 512 bytes, and its body. -/
def imageOf (bs : List Byte) : Image := { header := bs.take 512, body := bs.drop 512 }

/-- Power outside the four classes, in mW: HBM, cache and mesh, spares (Table 01-4). -/
def fixedMw : Nat → Nat
  | 0 => 36000
  | 1 => 39300
  | _ => 44000

/-- The caps of a graph fit the profile (R442). -/
def capsFit (s : State) (g : GraphPlan) : Bool := decide (g.caps.foldl (· + ·) 0 + fixedMw (profileOf s) ≤ budgetMw (profileOf s))

/-- A graph joins those that are loaded. -/
def addGraph (s : State) (m : Image) : Option (State × Nat) :=
  (lowestFree 65536 fun n => (tfind s.graphs n).isSome).map fun n =>
    ({ s with graphs := tput s.graphs n { svn := imgSvn m, plan := Config.graphPlan m.body } }, n)

/-- GRAPH_LOAD: the image is checked, and refused when R478 or its caps refuse it. -/
def graphLoadBody (s : State) (_ : Nat) (w : List W64) : HubAns :=
  let s1 := { s with free := s.free + 1 }
  let m := imageOf (Config.hostRead s.free (arg w 1 63 0) (arg w 2 39 0))
  if !imageAccepted s m ikGraph || !capsFit s (Config.graphPlan m.body) then .refuseIn s1 2
  else match addGraph s1 m with
    | none => .refuseIn s1 1
    | some (s2, n) => .done s2 [BitVec.ofNat 64 n]
def execGraphLoad : Nat → State → Out := hubRun 0x20 true [fm 63 0, fm 39 0] graphLoadBody

/-- The contexts and queues of the stages, in order. -/
def makeStages : List StagePlan → State → Except Nat (State × List (Nat × Nat))
  | [], s => .ok (s, [])
  | st :: rest, s => do
    let (s1, c, q) ← makeStage s st
    let (s2, xs) ← makeStages rest s1
    return (s2, (c, q) :: xs)

/-- A register write of the graph; a stage's tag stands in bits [11:0] where the plan says so. -/
def setupWrite (stages : List (Nat × Nat)) (s : State) (x : Nat × Nat × W32 × Option Nat) : State :=
  let v := match x.2.2.2.bind fun k => stages[k]? with
    | some st => putBits x.2.2.1 11 0 (tagOf s st.1)
    | none => x.2.2.1
  accessWrite .hub x.1 x.2.1 true v s

/-- A trigger of the graph is armed. -/
def armPlanned (stages : List (Nat × Nat)) (s : State) (t : TriggerPlan) : State :=
  let n := t.slot % 1024
  let action := bits t.ctl 30 28
  if action = 0 ∨ 4 < action then s
  else
    let arg := if action = acLaunch then match stages[bits t.arg 9 0]? with
        | some st => putBits t.arg 9 0 st.2
        | none => t.arg
      else t.arg
    let tpl : Tbl W32 := (List.range 16).foldl (fun m k => tset 0 m k (t.tpl.getD k 0)) []
    armTrigger (setTrig s n { trigOf s n with pos := t.pos, inc := t.inc, arg, dly := t.dly, tpl }) n (setBit t.ctl 31)

/-- A loaded graph starts: its contexts and queues are created, its ports, channels and sources set up, its triggers armed. -/
def startGraph (s : State) (n : Nat) (g : Graph) : Except Nat State :=
  match makeStages g.plan.stages s with
  | .error e => .error e
  | .ok (s1, stages) =>
    let s2 : State := { s1 with
      graphs := tput s1.graphs n { g with stages, running := true, stopping := false }
      power := { s1.power with caps := g.plan.caps } }
    .ok (g.plan.triggers.foldl (armPlanned stages) (g.plan.setup.foldl (setupWrite stages) s2))

/-- GRAPH_START -/
def graphStartBody (s : State) (_ : Nat) (w : List W64) : HubAns :=
  match tfind s.graphs (arg w 1 15 0) with
  | none => .refuse 2
  | some g =>
    if g.running then .refuse 4
    else match startGraph s (arg w 1 15 0) g with
      | .error e => .refuse e
      | .ok s1 => .done s1 []
def execGraphStart : Nat → State → Out := hubRun 0x21 true [fm 15 0] graphStartBody

/-- Contexts of a graph's stages. -/
def graphCtxs (g : Graph) : List Nat := g.stages.map (·.1)

/-- The stages of a graph take no new work: its triggers are disarmed, its contexts are DYING, and what has not started is discarded. -/
def haltGraph (s : State) (n : Nat) (g : Graph) : State :=
  let ctxs := graphCtxs g
  let slots := g.plan.triggers.map fun t => t.slot % 1024
  let s1 : State := { s with
    graphs := tput s.graphs n { g with stopping := true }
    triggers := s.triggers.map fun t => (t.1, if slots.contains t.1 then { t.2 with ctl := clrBit t.2.ctl 31 } else t.2)
    contexts := s.contexts.map fun c => (c.1, if ctxs.contains c.1 then { c.2 with state := CtxState.dying } else c.2) }
  (jobsWhere s1 fun x => ctxs.contains x.ctx && jobWaiting x).foldl discardJob s1

/-- GRAPH_STOP: once no job of the stages is under way, their contexts are destroyed; until then the command waits. -/
def graphStopBody (s : State) (vi : Nat) (w : List W64) : HubAns :=
  let n := arg w 1 15 0
  match tfind s.graphs n with
  | none => .refuse 2
  | some g =>
    if !g.running then .done s []
    else
      let s1 := haltGraph s n g
      if (jobsWhere s1 fun x => (graphCtxs g).contains x.ctx && jobActive x).isEmpty then
        let s2 := (graphCtxs g).foldl (fun s c => killContext s c false false) s1
        .done { s2 with graphs := tput s2.graphs n { g with stages := [], running := false, stopping := false } } []
      else .later (viUpd s1 vi fun x => { x with cmds := w :: x.cmds })
def execGraphStop : Nat → State → Out := hubRun 0x22 true [fm 15 0] graphStopBody

/-- The packet of a stage: its template, with the SEQ that follows every packet of the queue. -/
def stagePacket (s : State) (st : StagePlan) (q : Nat) : List W64 :=
  match tfind s.queues q, st.template with
  | some x, w0 :: rest =>
    let last : W32 := match x.lastSeq with | some v => v | none => -1
    putBits w0 31 0 (last + 1 + (tailOf s q - x.head)).toNat :: rest
  | _, t => t

/-- GRAPH: the job starts the stage by submitting its packet, and is done; it waits while the stage's ring is full. A GRAPH that names
no stage that runs completes with a status that is free. -/
def execGraph (j : Nat) (s : State) : Out :=
  match startedAs s j 4 with
  | none => .next s
  | some x =>
    let n := bits (pkW x 4) 15 0
    let k := bits (pkW x 4) 31 16
    match (tfind s.graphs n).bind fun g => if g.running && !g.stopping then (g.stages[k]?).bind fun st => (g.plan.stages[k]?).map fun p => (st, p) else none with
    | none => .next (endJob { s with free := s.free + 1 } j (Config.graphStatus s.free).toNat 0)
    | some (st, p) => match submitPacket s st.2 (stagePacket s p st.2) with
      | some s1 => .next (endJob s1 j 0 0)
      | none => .next s

end Sys2Proof.Machine
end

