-- ==== Sys2Proof/Machine/Boot.lean ====
section
/-! DEFINITION. The start of the device, minimal mode and firmware update (18_boot_firmware_security.md; R18, R24-R26, R223, R227, R245,
R444, R445, R471, R539). A start is one step, from the ROM's first instruction to UP or to where it ends. -/
namespace Sys2Proof.Machine

/-! ### Flash (R477, R483) -/

/-- The directory copy in force: the valid one of the higher generation. -/
def bestDir (b : Boot) : Option Directory :=
  match b.dir0, b.dir1 with
  | some x, some y => some (if x.gen < y.gen then y else x)
  | some x, none => some x
  | none, y => y

/-- A directory that names a slot: the older copy is rewritten, or both when both are invalid. -/
def writeDir (b : Boot) (slot : Nat) : Boot :=
  match b.dir0, b.dir1 with
  | none, none => { b with dir0 := some { gen := 1, slot }, dir1 := some { gen := 1, slot } }
  | none, some y => { b with dir0 := some { gen := (y.gen + 1) % 2 ^ 32, slot } }
  | some x, none => { b with dir1 := some { gen := (x.gen + 1) % 2 ^ 32, slot } }
  | some x, some y =>
    if x.gen < y.gen then { b with dir0 := some { gen := (y.gen + 1) % 2 ^ 32, slot } }
    else { b with dir1 := some { gen := (x.gen + 1) % 2 ^ 32, slot } }

/-- The image in a slot: 0 A, 1 B; and a slot written. -/
def slotImage (b : Boot) (k : Nat) : Option Image := if k = 0 then b.slotA else b.slotB
def putSlot (b : Boot) (k : Nat) (m : Image) : Boot := if k = 0 then { b with slotA := some m } else { b with slotB := some m }

/-- Whether a slot holds an image that R478 accepts. -/
def slotAccepted (s : State) (k : Nat) : Bool := match slotImage s.boot k with | some m => imageAccepted s m ikFragan | none => false

/-! ### Partitions (R24-R26, R223-R227, R445) -/

/-- A partition configuration that R24 and R26 allow under a profile. -/
def partsOk (profile : Nat) (ps : List Partition) : Bool :=
  let once (n : Nat) (f : Partition → Nat → Bool) : Bool := (List.range n).all fun k => (ps.filter fun p => f p k).length == 1
  decide (1 ≤ ps.length) && decide (ps.length ≤ 8)
  && once 32 (fun p k => bit p.cores k) && once 64 (fun p k => bit p.pcs k) && once 16 (fun p k => bit p.ways k)
  && ps.all fun p => p.cores != 0 && decide (2 ≤ popCount 64 p.pcs.toNat) && decide (2 ≤ popCount 16 p.ways.toNat)
    && decide (p.op ≤ 3) && (!p.realTime || decide (p.op ≤ nominalOp profile))

/-- What the pages show of a partition: the owners of its pseudo-channels, and its ways in every slice. -/
def showPart (s : State) (i : Nat) (p : Partition) : State :=
  let s1 := (setBits p.pcs 64).foldl (fun s pc =>
    let lo := 8 * (pc % 2)
    rput (rput s (pgMem (pc / 2)) 0x100 (lo + 2) lo i) (pgMem (pc / 2)) 0x100 (lo + 3) (lo + 3) 1) s
  (List.range 16).foldl (fun s n => (setBits p.ways 16).foldl (fun s w =>
    rput s (pgSyc n) (if w < 8 then 0x100 else 0x104) (4 * (w % 8) + 2) (4 * (w % 8)) i) s) s1

/-- The partitions are created: each has its key, and its region reads zero; cores take their partition's operating point, and the spares
are in Deep sleep. -/
def createParts (s : State) (ps : List Partition) : State :=
  let t : Tbl Partition := (List.range ps.length).zip ps
  let s1 := t.foldl (fun s x => showPart s x.1 x.2) { s with
    parts := t
    keys := t.foldl (fun k x => setBit k x.1) (setBit 0 8)
    mem := s.mem.filter fun e => isHost e.1
    poison := s.poison.filter isHost }
  let s2 := (List.range 32).foldl (fun s L => match physOf s L with | some p => changeOp s p (partOp s L) | none => s) s1
  (spares s2).foldl (fun s p => updDom s p fun x => { x with state := 3 }) s2

/-- The partitions of a start: refused ones are not created, and a journal record says so; none is created in MANUFACTURE or once the
random generator has failed (Table 18-2, R26, R487). -/
def applyParts (s : State) (ps : List Partition) : State :=
  if lifecycle s = 0 || s.boot.rngFailed then s
  else if partsOk (profileOf s) ps then createParts s ps
  else journal s 1 1

/-! ### A start (R479-R483) -/

/-- Minimal mode with a reason of Table 18-6: the ROM serves, and every core is in Deep sleep. -/
def minimalStart (s : State) (reason : Nat) : State :=
  { s with
    boot := { s.boot with started := true, startedAt := s.now, up := true, upAt := s.now, minimal := true, minReason := reason }
    domains := allCores.foldl (fun t p => tput t p { (tget {} t p : Domain) with state := 3 }) s.domains }

/-- The integrator's part of a start: mode, DEVID, profile and partitions; without an accepted configuration, attached mode and NOCFG. -/
def applySite (s : State) : State :=
  match s.boot.config.filter fun m => imageAccepted s m ikConfig with
  | some m =>
    let p := Config.sitePlan m.body
    let s1 := { s with boot := { s.boot with appliance := p.appliance, configSvn := imgSvn m } }
    let s2 := rput (rput s1 (pgSpk 0) 0x180 3 0 p.devId) pgPwr 0x100 1 0 (min p.profile 2)
    applyParts s2 p.parts
  | none => applyParts { s with boot := { s.boot with nocfg := true } } Config.bareParts

/-- In appliance mode the graph in flash is loaded and started (R305). -/
def applianceGraph (s : State) : State :=
  match s.boot.graphImage.filter fun m => s.boot.appliance && imageAccepted s m ikGraph && capsFit s (Config.graphPlan m.body) with
  | none => s
  | some m => match addGraph s m with
    | none => s
    | some (s1, n) => match (tfind s1.graphs n).map (startGraph s1 n) with
      | some (.ok s2) => s2
      | _ => journal s1 1 2

/-- Fragan has been loaded from slot `k` and runs on every pair in service: it restores the health store's state, trains HBM, takes the
configuration and creates the partitions; at UP the graph starts, or the driver is served. -/
def runFragan (b : BootInput) (s : State) (k : Nat) : State :=
  let s1 := restoreHealth { s with boot := { s.boot with started := true, startedAt := s.now, slot := k, running := slotImage s.boot k } }
  let s2 : State := { s1 with
    trained := BitVec.allOnes 32
    pairs := allPairs.foldl (fun t i => tput t i { (tget {} t i : Pair) with image := k, beatAt := s.now }) s1.pairs }
  let s3 := match s2.pins.failStep with
    | some n => journal { s2 with pins := { s2.pins with failStep := none } } 3 5 (natLe 1 n)
    | none => s2
  let s4 := applySite s3
  if !b.reachesUp then s4
  else
    let calm := s4.boot.glitches.all fun t => decide (t + day ≤ s4.now)
    applianceGraph { s4 with boot := { s4.boot with up := true, upAt := s4.now, glitches := if calm then [] else s4.boot.glitches } }

/-- The ROM, from the release of reset: the fuses, the lifecycle, the tests, the glitch count, FAILS, the directory, and the slots in
their order. -/
def startDevice (b : BootInput) (s0 : State) : State :=
  let s : State := { s0 with boot := { s0.boot with fuseFixes := b.fixes, fuseLost := b.lost } }
  if lifecycle s = 2 then minimalStart (blow s 3848 256) 6
  else if !b.rngOk then minimalStart s 7
  else if !b.testOk then minimalStart s 4
  else if 8 ≤ glitchCount s then minimalStart s 5
  else if 3 ≤ s.boot.fails then minimalStart s 1
  else match bestDir s.boot with
    | none => minimalStart s 3
    | some d =>
      let first := if s.boot.fails = 2 then 1 - d.slot else d.slot
      let s1 := { s with boot := { s.boot with fails := s.boot.fails + 1 } }
      match [first, 1 - first].find? (slotAccepted s1) with
      | none => minimalStart s1 2
      | some k => runFragan b s1 k

/-- BOOT_START -/
def execBootStart (b : BootInput) (s : State) : Out := whenever (s.pins.powered && !s.boot.started) s (startDevice b s)

/-- BOOT_WATCHDOG (R481): 2 s from the hand-over without UP. -/
def execBootWatchdog (s : State) : Out :=
  whenever (s.boot.started && !s.boot.up) s (deviceReset (atLeast s (s.boot.startedAt + 2000000000)) 6)

/-- FAILS_CLEAR (R479): 60 s from UP without a reset. -/
def execFailsClear (s : State) : Out :=
  let s1 := atLeast s (s.boot.upAt + 60000000000)
  whenever (s.boot.up && !s.boot.minimal) s { s1 with boot := { s1.boot with fails := 0 } }

/-! ### Update commands (R483-R486, Tables 18-7, 10-15) -/

/-- FW_STAGE: the image is verified, then written to the slot that does not run; in minimal mode also the directory is written, and FAILS
cleared. -/
def fwStageBody (s : State) (_ : Nat) (w : List W64) : HubAns :=
  let s1 := { s with free := s.free + 1 }
  let m := imageOf (Config.hostRead s.free (arg w 1 63 0) (arg w 2 39 0))
  if !imageSound s m ikFragan then .refuseIn s1 2
  else if imgSvn m < fwFloor s then .refuseIn s1 3
  else
    let k := if s.boot.minimal then (match bestDir s.boot with | some d => 1 - d.slot | none => 0) else 1 - s.boot.slot
    let b := putSlot s1.boot k m
    let b1 := if s.boot.minimal then { writeDir b k with fails := 0 } else { b with staged := some m, upd := 1 }
    .done { s1 with boot := b1 } [BitVec.ofNat 64 k, BitVec.ofNat 64 (imgSvn m)]
def execFwStage : Nat → State → Out := hubRun 0x30 true [fm 63 0, fm 39 0] fwStageBody

/-- Why a roll is refused (0: it is not), and whether it waits for a rotation step or a substitution (Table 18-11). -/
def rollErr (s : State) : Nat :=
  match s.boot.staged, s.boot.running with
  | some m, some r => if imgStatev r < imgStatemin m then 3 else 0
  | _, _ => 2
def rollWaits (s : State) : Bool := s.rel.rotating.isSome || s.rel.vacated.isSome

/-- The staged image rolls through the pairs in service and becomes the preferred one. -/
def rollPairs (s : State) : State :=
  let k := 1 - s.boot.slot
  let b := writeDir s.boot k
  { s with
    pairs := allPairs.foldl (fun t i =>
      let x : Pair := tget {} t i
      if x.state = 2 then tput t i { x with image := k } else t) s.pairs
    boot := { b with slot := k, running := s.boot.staged, staged := none, upd := 0, rolledAt := some s.now } }

/-- FW_ACTIVATE -/
def fwActivateBody (s : State) (vi : Nat) (w : List W64) : HubAns :=
  if rollErr s ≠ 0 then .refuse (rollErr s)
  else if rollWaits s then .later (viUpd s vi fun x => { x with cmds := w :: x.cmds })
  else .done (rollPairs s) []
def execFwActivate : Nat → State → Out := hubRun 0x31 true [] fwActivateBody

/-- ROLL_FAILURE (R486): a pair on the new image fails; the pairs return to the old image. -/
def rollFailBody (s : State) (vi : Nat) (w : List W64) : HubAns :=
  if rollErr s ≠ 0 then .refuse (rollErr s)
  else if rollWaits s then .later (viUpd s vi fun x => { x with cmds := w :: x.cmds })
  else .refuseIn (journal { s with boot := { s.boot with staged := none, upd := 3 } } 1 0) 2
def execRollFailure (s : State) : Out := hubRun 0x31 true [] rollFailBody 0 s

/-- FW_COMMIT: FW_SVN is raised to the running SVN; not within 60 s of the roll. -/
def fwCommitBody (s : State) (_ : Nat) (_ : List W64) : HubAns :=
  let early : Bool := match s.boot.rolledAt with | some t => decide (s.now < t + 60000000000) | none => false
  if early then .refuse 4 else .done (blow s 4104 (svnOf s.boot.running)) []
def execFwCommit : Nat → State → Out := hubRun 0x32 true [] fwCommitBody

/-- DEV_RESET -/
def devResetBody (s : State) (_ : Nat) (_ : List W64) : HubAns := .later (deviceReset s 7)
def execDevReset : Nat → State → Out := hubRun 0x33 true [] devResetBody

/-- GR_COMMIT: GR_SVN is raised to the value given, which no accepted configuration and no loaded graph may lie below. -/
def grCommitBody (s : State) (_ : Nat) (w : List W64) : HubAns :=
  let v := arg w 1 8 0
  if 256 < v then .refuse 2
  else if (!s.boot.nocfg && decide (s.boot.configSvn < v)) || s.graphs.any (fun g => decide (g.2.svn < v)) then .refuse 3
  else .done (blow s 4360 v) []
def execGrCommit : Nat → State → Out := hubRun 0x34 true [fm 8 0] grCommitBody

end Sys2Proof.Machine
end

