-- ==== Sys2Proof/Machine/Flags.lean ====
section
/-! DEFINITION. Results with their sticky flags: how an elementwise operation writes a lane's register and records the flags
its elements raise (R43, R150), and the flag rules of the integer instructions (Table 05-13). -/
namespace Sys2Proof.Machine

/-- Every flag raised by the elements of a lane. -/
def allFlags (xs : List (Nat × Flags)) : Flags := xs.foldl (fun a x => a ||| x.2) 0

/-- A lane's whole register takes the elements of width `wd`, and its sticky flags are added to. -/
def laneWrite (g : Group) (d t wd : Nat) (xs : List (Nat × Flags)) : Group :=
  flagsOr (vSet g d t (pack wd (xs.map (·.1)))) t (allFlags xs)

/-- An elementwise operation of format R: element `e` of lane `t` of v[d] takes `f i t e` in every participating lane. -/
def elementwise (f : Iss → Nat → Nat → Nat × Flags) : Iss → State → Eff :=
  perLane fun i g t =>
    laneWrite g i.w.d.toNat t (typeWidth (mTYPE i.w)) ((List.range (typeCount (mTYPE i.w))).map fun e => f i t e)

/-- An integer result under SAT: wrapped, or clamped to the range with the SAT flag when it was clamped. -/
def satResult (f : IFmt) (sat : Bool) (v : Int) : Nat × Flags :=
  if sat then let (c, hit) := f.clamp v; (f.enc c, if hit then fSAT else 0) else (f.enc v, 0)

/-- A comparison's outcome and flags for each element, written as R158 says: into the elements of v[d], or one outcome into
p[d]. With one element chosen only that comparison is made. -/
def compareWrite (i : Iss) (g : Group) (t : Nat) (xs : List (Bool × Flags)) : Group :=
  let wd := typeWidth (mTYPE i.w)
  let fl := xs.foldl (fun a x => a ||| x.2) 0
  if mPDST i.w then
    let e := mELEM i.w
    if e < 8 then
      let x := xs.getD e (false, 0)
      flagsOr (pSetIn g i.w.d.toNat (setBit 0 t) (if x.1 then setBit 0 t else 0)) t x.2
    else
      let r := if e = 8 then xs.all (·.1) else xs.any (·.1)
      flagsOr (pSetIn g i.w.d.toNat (setBit 0 t) (if r then setBit 0 t else 0)) t fl
  else flagsOr (vSet g i.w.d.toNat t (pack wd (xs.map fun x => if x.1 then 2 ^ wd - 1 else 0))) t fl

end Sys2Proof.Machine
end

