-- ==== Sys2Proof/Machine/VectorInt.lean ====
section
/-! DEFINITION. Vector integer instructions (Tables 05-12, 05-13, R150, R158-R160). -/
namespace Sys2Proof.Machine

/-- MOD fields of format R that an instruction may use; the others must be zero (R149). -/
def modR (w : InsnWord) (rm sat bs sub elem pdst : Bool) : Bool :=
  (rm || mRM w == 0) && (sat || !mSAT w) && (bs || !mBS w) && (sub || mSUB w == 0) && (elem || mELEM w == 0)
  && (pdst || !mPDST w) && mz w 6 0

/-- Two vector operands, the second perhaps a scalar: D, A of kind V, B of kind V or S, C unused, an integer TYPE. -/
def vbinLegal (sat : Bool) (g : Group) (w : InsnWord) : Bool :=
  kV g w.d && kV g w.a && kB g w && kU w.c && typeInt (mTYPE w) && modR w false sat true false false false
/-- The same with SUB 0 or 1; with `u8` SUB must be 0 for UINT8. -/
def vsubLegal (u8 : Bool) (g : Group) (w : InsnWord) : Bool :=
  kV g w.d && kV g w.a && kB g w && kU w.c && typeInt (mTYPE w) && modR w false false true true false false
  && decide (mSUB w ≤ 1) && !(u8 && mTYPE w == 5 && mSUB w == 1)

/-- An integer operation on each pair of elements. -/
def vbin (legal : Group → InsnWord → Bool) (f : InsnWord → Nat → Nat → Nat × Flags) (p g : Nat) (w : InsnWord)
    (s : State) : Out :=
  issue p g w 0 legal (elementwise fun i t e => f i.w (aElem i.gr i.w t e) (bElem i.gr i.w t e)) s

/-- The exact integer operations under SAT. -/
def vsat (f : Int → Int → Int) (w : InsnWord) (a b : Nat) : Nat × Flags :=
  let t := typeIFmt (mTYPE w)
  satResult t (mSAT w) (f (t.val a) (t.val b))
/-- VADD, VSUB, VMUL -/
def execVadd := vbin (vbinLegal true) (vsat (· + ·))
def execVsub := vbin (vbinLegal true) (vsat (· - ·))
def execVmul := vbin (vbinLegal true) (vsat (· * ·))

/-- Values under SUB: signed for SUB = 0, unsigned for SUB = 1 and for UINT8. -/
def subFmt (w : InsnWord) : IFmt := { w := typeWidth (mTYPE w), signed := mTYPE w != 5 && mSUB w == 0 }
/-- VMULH -/
def vmulh (w : InsnWord) (a b : Nat) : Nat × Flags :=
  let t := subFmt w
  (t.enc (t.val a * t.val b / 2 ^ t.w), 0)
def execVmulh := vbin (vsubLegal false) vmulh

/-- VAND, VOR, VXOR -/
def execVand := vbin (vbinLegal false) fun _ a b => (a &&& b, 0)
def execVor := vbin (vbinLegal false) fun _ a b => (a ||| b, 0)
def execVxor := vbin (vbinLegal false) fun _ a b => (a ^^^ b, 0)

/-- Shifts by b mod w. -/
def vshl (w : InsnWord) (a b : Nat) : Nat × Flags :=
  let n := typeWidth (mTYPE w)
  ((a <<< (b % n)) % 2 ^ n, 0)
def vshr (w : InsnWord) (a b : Nat) : Nat × Flags := (a >>> (b % typeWidth (mTYPE w)), 0)
def vsra (w : InsnWord) (a b : Nat) : Nat × Flags :=
  let t : IFmt := { w := typeWidth (mTYPE w), signed := true }
  (t.enc (t.val a / 2 ^ (b % t.w)), 0)
def execVshl := vbin (vbinLegal false) vshl
def execVshr := vbin (vbinLegal false) vshr
def execVsra := vbin (vbinLegal false) vsra

/-- VMIN, VMAX -/
def vminmax (mx : Bool) (w : InsnWord) (a b : Nat) : Nat × Flags :=
  let t := subFmt w
  (if decide (t.val a ≤ t.val b) != mx then a else b, 0)
def execVmin := vbin (vsubLegal true) (vminmax false)
def execVmax := vbin (vsubLegal true) (vminmax true)

/-- VABS: INT32, INT16 or INT8. -/
def vabsLegal (g : Group) (w : InsnWord) : Bool :=
  kV g w.d && kV g w.a && kU w.b && kU w.c && decide (2 ≤ mTYPE w) && decide (mTYPE w ≤ 4)
  && modR w false true false false false false
def execVabs (p g : Nat) (w : InsnWord) (s : State) : Out :=
  issue p g w 0 vabsLegal (elementwise fun i t e =>
    let f := typeIFmt (mTYPE i.w)
    satResult f (mSAT i.w) (f.val (aElem i.gr i.w t e)).natAbs) s

/-- VCMP -/
def vcmpLegal (g : Group) (w : InsnWord) : Bool :=
  cmpDest g w && kV g w.a && kB g w && kU w.c && typeInt (mTYPE w) && modR w false false true true true true
  && decide (mSUB w ≤ 5) && cmpElemLegal w
def execVcmp (p g : Nat) (w : InsnWord) (s : State) : Out :=
  issue p g w 0 vcmpLegal (perLane fun i g t =>
    compareWrite i g t ((List.range (typeCount (mTYPE i.w))).map fun e =>
      (icompare (typeIFmt (mTYPE i.w)) (mSUB i.w) (aElem i.gr i.w t e) (bElem i.gr i.w t e), 0))) s

/-- VSEL -/
def vselLegal (g : Group) (w : InsnWord) : Bool :=
  kV g w.d && kV g w.a && kB g w && kV g w.c && decide (mTYPE w ≤ 5) && modR w false false true false false false
def execVsel (p g : Nat) (w : InsnWord) (s : State) : Out :=
  issue p g w 0 vselLegal (elementwise fun i t e =>
    (if cElem i.gr i.w t e ≠ 0 then aElem i.gr i.w t e else bElem i.gr i.w t e, 0)) s

/-- VMOV -/
def vmovLegal (g : Group) (w : InsnWord) : Bool :=
  kV g w.d && (if mBS w then kU w.a && kS w.b else kV g w.a && kU w.b) && kU w.c && decide (mTYPE w ≤ 5)
  && modR w false false true false false false
def execVmov (p g : Nat) (w : InsnWord) (s : State) : Out :=
  issue p g w 0 vmovLegal (elementwise fun i t e =>
    (if mBS i.w then bElem i.gr i.w t e else aElem i.gr i.w t e, 0)) s

/-- VSHFL: the whole register a of the lane that element 0 of b names. -/
def vshflLegal (g : Group) (w : InsnWord) : Bool :=
  kV g w.d && kV g w.a && kB g w && kU w.c && mTYPE w == 2 && modR w false false true false false false
def execVshfl (p g : Nat) (w : InsnWord) (s : State) : Out :=
  issue p g w 0 vshflLegal (perLane fun i g t =>
    vSet g i.w.d.toNat t (vGet i.gr i.w.a.toNat (bElem i.gr i.w t 0 % 32))) s

/-- VEXT -/
def vextLegal (g : Group) (w : InsnWord) : Bool :=
  kS w.d && kV g w.a && kS w.b && kU w.c && mTYPE w == 2 && modR w false false false false false false
def execVext (p g : Nat) (w : InsnWord) (s : State) : Out :=
  issue p g w 0 vextLegal (once fun i =>
    sSet i.gr i.w.d.toNat (vGet i.gr i.w.a.toNat ((sGet i.gr i.w.b.toNat).toNat % 32))) s

/-- VFLG: the flags that the thread's earlier instructions have recorded. -/
def vflgLegal (g : Group) (w : InsnWord) : Bool :=
  kV g w.d && kU w.a && kU w.b && kU w.c && mTYPE w == 2 && modR w false false false false false false
def execVflg (p g : Nat) (w : InsnWord) (s : State) : Out :=
  issue p g w 0 vflgLegal (perLane fun i g t => vSet g i.w.d.toNat t ((flagsGet i.gr t).setWidth 64)) s

/-- VFLGC -/
def vflgcLegal (_ : Group) (w : InsnWord) : Bool := kU w.d && kU w.a && kU w.b && kU w.c && mz w 23 6
def execVflgc (p g : Nat) (w : InsnWord) (s : State) : Out :=
  issue p g w 0 vflgcLegal (perLane fun _ g t => flagsClear g t (w.md.setWidth 6)) s

end Sys2Proof.Machine
end

