-- ==== Sys2Proof/Machine/VectorFloat.lean ====
section
/-! DEFINITION. Vector floating-point instructions and conversions (Tables 05-14 to 05-18, R158, R161-R164), over the
arithmetic of Numbers.lean. -/
namespace Sys2Proof.Machine

/-- The attribute that RM gives, FRM for the code 0 (R41). FRM always holds a legal code (R42, R45). -/
def rmI (i : Iss) : Rm := (rmOf i.gr.frm (mRM i.w)).getD .even

/-- Field checks: two or three vector operands, or one; with or without RM. -/
def vf2Legal (rm : Bool) (g : Group) (w : InsnWord) : Bool :=
  kV g w.d && kV g w.a && kB g w && kU w.c && typeFloat (mTYPE w) && modR w rm false true false false false && rmLegal (mRM w)
def vf3Legal (g : Group) (w : InsnWord) : Bool :=
  kV g w.d && kV g w.a && kB g w && kV g w.c && typeFloat (mTYPE w) && modR w true false true false false false
  && rmLegal (mRM w)
def vf1Legal (rm sub : Bool) (g : Group) (w : InsnWord) : Bool :=
  kV g w.d && kV g w.a && kU w.b && kU w.c && typeFloat (mTYPE w) && modR w rm false false sub false false
  && rmLegal (mRM w) && decide (mSUB w ≤ 1)

/-- An operation of two operands on each element. -/
def vf2 (rm : Bool) (f : Fmt → Rm → Nat → Nat → Nat × Flags) (p g : Nat) (w : InsnWord) (s : State) : Out :=
  issue p g w 0 (vf2Legal rm) (elementwise fun i t e =>
    f (typeFmt (mTYPE i.w)) (rmI i) (aElem i.gr i.w t e) (bElem i.gr i.w t e)) s
/-- fusedMultiplyAdd with the negations of VFNMA (product) and VFMS (addend). -/
def vf3 (np nz : Bool) (p g : Nat) (w : InsnWord) (s : State) : Out :=
  issue p g w 0 vf3Legal (elementwise fun i t e =>
    ffma (typeFmt (mTYPE i.w)) (rmI i) np nz (aElem i.gr i.w t e) (bElem i.gr i.w t e) (cElem i.gr i.w t e)) s
/-- An operation of one operand on each element. -/
def vf1 (rm sub : Bool) (f : Fmt → Rm → Nat → Nat → Nat × Flags) (p g : Nat) (w : InsnWord) (s : State) : Out :=
  issue p g w 0 (vf1Legal rm sub) (elementwise fun i t e =>
    f (typeFmt (mTYPE i.w)) (rmI i) (mSUB i.w) (aElem i.gr i.w t e)) s

/-- subtraction: as addition of the negated operand, with a NaN operand as it was read (R46). -/
def fsub (f : Fmt) (rm : Rm) (x y : Nat) : Nat × Flags :=
  match firstNan f [x, y] with
  | some r => r
  | none => fadd f rm x (negF f y)

/-- copySign: only the sign bit of a changes (R161). -/
def fcpys (f : Fmt) (x y : Nat) : Nat := absF f x + signBit f (y.testBit (f.eb + f.fb))

def execVfadd := vf2 true fadd
def execVfsub := vf2 true fsub
def execVfmul := vf2 true fmul
def execVfdiv := vf2 true fdiv
def execVfma := vf3 false false
def execVfms := vf3 false true
def execVfnma := vf3 true false
def execVfsqrt := vf1 true false fun f rm _ x => fsqrt f rm x
def execVfrem := vf2 false fun f _ x y => frem f x y
def execVfmin := vf2 false fun f _ x y => fminmax f false x y
def execVfmax := vf2 false fun f _ x y => fminmax f true x y
def execVfrint := vf1 true true fun f rm sub x => frint f rm (sub == 1) x
def execVfabs := vf1 false false fun f _ _ x => (absF f x, 0)
def execVfneg := vf1 false false fun f _ _ x => (negF f x, 0)
def execVfcpys := vf2 false fun f _ x y => (fcpys f x y, 0)
def execVfclass := vf1 false false fun f _ _ x => (fclass f x, 0)

/-- VFCMP -/
def vfcmpLegal (g : Group) (w : InsnWord) : Bool :=
  cmpDest g w && kV g w.a && kB g w && kU w.c && typeFloat (mTYPE w) && modR w false false true true true true
  && decide (mSUB w ≤ 6) && cmpElemLegal w
def execVfcmp (p g : Nat) (w : InsnWord) (s : State) : Out :=
  issue p g w 0 vfcmpLegal (perLane fun i g t =>
    compareWrite i g t ((List.range (typeCount (mTYPE i.w))).map fun e =>
      fcompare (typeFmt (mTYPE i.w)) (mSUB i.w) (aElem i.gr i.w t e) (bElem i.gr i.w t e))) s

/-! ### Conversions (R47, R163, R164) -/

/-- A conversion type: a floating format or an integer format (Table 05-18). -/
inductive CType where
  | float (f : Fmt)
  | int (f : IFmt)
deriving DecidableEq, Repr

/-- The types of Table 05-18. -/
def cTypeOf (code : Nat) : Option CType :=
  match code with
  | 0 => some (.float binary32)
  | 1 => some (.float binary16)
  | 2 => some (.float sf16)
  | 3 => some (.float sf8a)
  | 4 => some (.float sf8b)
  | 5 => some (.int { w := 32, signed := true })
  | 6 => some (.int { w := 16, signed := true })
  | 7 => some (.int { w := 8, signed := true })
  | 8 => some (.int { w := 8, signed := false })
  | 9 => some (.int { w := 4, signed := true })
  | _ => none

/-- Width of a conversion type. -/
def CType.width : CType → Nat
  | .float f => f.width
  | .int f => f.w

/-- Whether Table 02-8 lists a conversion of one type to another. -/
def convListed (src dst : CType) : Bool :=
  match src, dst with
  | .float f, .float g =>
    (g == binary32 && f != binary32) || (f == binary32 && g != binary32)
    || (g == binary16 && (f == sf8a || f == sf8b)) || (f == binary16 && (g == sf8a || g == sf8b))
  | .float _, .int _ => true
  | .int _, .float _ => true
  | .int f, .int g => f != g

/-- One conversion (R47, R49, Tables 02-7 and 02-8). -/
def convert (src dst : CType) (rm : Rm) (sat : Bool) (x : Nat) : Nat × Flags :=
  match src, dst with
  | .float f, .float g => convFF f g rm sat x
  | .float f, .int g => convFI f g rm x
  | .int f, .float g => convIF f g rm sat x
  | .int f, .int g => convII f g x

/-- VCVT: MOD of format C, a listed pair, and POS within the larger count (R163). -/
def vcvtLegal (g : Group) (w : InsnWord) : Bool :=
  kV g w.d && kV g w.a && kU w.b && kU w.c && mz w 8 0 && rmLegal (mRM w)
  && match cTypeOf (mSRC w), cTypeOf (mDST w) with
    | some src, some dst =>
      let es := 64 / src.width
      let ed := 64 / dst.width
      convListed src dst && (if es = ed then mPOS w == 0 else decide ((mPOS w + 1) * min es ed ≤ max es ed))
    | _, _ => false

/-- The conversion of one lane (R163): `old` is v[d], whose other destination positions keep their values. -/
def vcvtLane (src dst : CType) (rm : Rm) (sat : Bool) (pos : Nat) (old a : W64) : W64 × Flags :=
  let es := 64 / src.width
  let ed := 64 / dst.width
  let n := min es ed
  let from_ := if es > ed then pos * n else 0
  let upto := if ed > es then pos * n else 0
  let res := (List.range n).map fun k => convert src dst rm sat (elem src.width a (from_ + k))
  let out := (List.range ed).map fun e =>
    if upto ≤ e ∧ e < upto + n then (res.getD (e - upto) (0, 0)).1 else elem dst.width old e
  (pack dst.width out, allFlags res)
def execVcvt (p g : Nat) (w : InsnWord) (s : State) : Out :=
  issue p g w 0 vcvtLegal (perLane fun i g t =>
    match cTypeOf (mSRC i.w), cTypeOf (mDST i.w) with
    | some src, some dst =>
      let r := vcvtLane src dst (rmI i) (mSAT i.w) (mPOS i.w) (vGet i.gr i.w.d.toNat t) (vGet i.gr i.w.a.toNat t)
      flagsOr (vSet g i.w.d.toNat t r.1) t r.2
    | _, _ => g) s

/-- VPK4: the block of x[2t + e] from every lane (R50, R51, R164). -/
def vpk4Legal (g : Group) (w : InsnWord) : Bool :=
  kV g w.d && kV g w.a && kU w.b && kU w.c && decide (mSRC w ≤ 1) && mz w 15 0 && !mSAT w && rmLegal (mRM w)
def vpk4Block (i : Iss) : Nat × List (Nat × Flags) :=
  let f := if mSRC i.w = 0 then binary32 else binary16
  sf4Encode (rmI i) ((List.range 64).map fun k => decodeF f (elem f.width (vGet i.gr i.w.a.toNat (k / 2)) (k % 2)))
def execVpk4 (p g : Nat) (w : InsnWord) (s : State) : Out :=
  issue p g w 0 vpk4Legal (fun i s =>
    let (c, els) := vpk4Block i
    perLane (fun i g t =>
      let lo := els.getD (2 * t) (0, 0)
      let hi := els.getD (2 * t + 1) (0, 0)
      flagsOr (vSet g i.w.d.toNat t (BitVec.ofNat 64 (c * 256 + hi.1 * 16 + lo.1))) t (lo.2 ||| hi.2)) i s) s

/-- VUPK4: the block whose byte t is bits [7:0] of lane t and whose scale code is bits [15:8] of lane 0. -/
def vupk4Legal (g : Group) (w : InsnWord) : Bool :=
  kV g w.d && kV g w.a && kU w.b && kU w.c && decide (mDST w ≤ 1) && mSRC w == 0 && mz w 11 0 && rmLegal (mRM w)
def execVupk4 (p g : Nat) (w : InsnWord) (s : State) : Out :=
  issue p g w 0 vupk4Legal (perLane fun i g t =>
    let f := if mDST i.w = 0 then binary32 else binary16
    let scale := bits (vGet i.gr i.w.a.toNat 0) 15 8
    let byte := bits (vGet i.gr i.w.a.toNat t) 7 0
    let one (n : Nat) := encNum f (rmI i) (mSAT i.w) (sf4Num scale n)
    let res := [one (byte % 16), one (byte / 16)]
    flagsOr (vSet g i.w.d.toNat t (pack f.width (res.map (·.1)))) t (allFlags res)) s

end Sys2Proof.Machine
end

