-- ==== Sys2Proof/Machine/Matrix.lean ====
section
/-! DEFINITION. The matrix array and the matrix-vector path: the instructions that issue in the matrix slot, and the events by
which the array runs them (04_matrix_array.md, 06_matrix_stream_sync_instructions.md, R52-R61). -/
namespace Sys2Proof.Machine

/-! ### Formats and operands -/

/-- An element format of the array (Table 04-1). -/
inductive MatFmt where
  | int (f : IFmt)
  | float (f : Fmt)
  | sf4
deriving DecidableEq, Repr

/-- The B format of a code. -/
def matFmt (code : Nat) : Option MatFmt :=
  match code with
  | 0 => some (.int { w := 8, signed := true })
  | 1 => some (.int { w := 8, signed := false })
  | 2 => some (.int { w := 4, signed := true })
  | 3 => some (.float sf8a)
  | 4 => some (.float sf8b)
  | 5 => some .sf4
  | 6 => some (.float binary16)
  | 7 => some (.float sf16)
  | 8 => some (.float binary32)
  | _ => none

/-- Width in bits of an element as it is stored. -/
def MatFmt.width : MatFmt → Nat
  | .int f => f.w
  | .float f => f.width
  | .sf4 => 4

/-- Terms per tile d (Table 04-1). -/
def tileDepth (code : Nat) : Nat := if code = 2 || code = 5 then 128 else 64

/-- The operand pairs of the array (Table 04-1) and of the matrix-vector path (Table 04-9): B code, then A code. -/
def mmaPair (b a : Nat) : Bool :=
  if b ≤ 1 then decide (a ≤ 1) else if b = 3 || b = 4 then a == 3 || a == 4 else decide (b ≤ 8) && a == b
def mmvPair (b a : Nat) : Bool :=
  match b with
  | 5 => a == 3 || a == 4 || a == 6
  | 2 => a == 2 || a == 0
  | 3 => a == 3 || a == 4 || a == 6
  | 4 => a == 3 || a == 4 || a == 6
  | 8 => false
  | _ => mmaPair b a

/-- Whether the accumulator is INT32 for a B format. -/
def intAcc (code : Nat) : Bool := code ≤ 2

/-- Fields of the packed words (Table 06-2). -/
def owScale (w : W64) : Nat := bits w 63 42
def owStride (w : W64) : Nat := bits w 41 22
def owBase (w : W64) : Nat := bits w 21 0
def shK (w : W64) : Nat := bits w 26 14
def shN (w : W64) : Nat := bits w 13 7
def shM (w : W64) : Nat := bits w 6 0

/-- The extents in bytes of a row-major operand of `rows` rows of `cols` elements (Table 04-2). -/
def rowExtents (f : MatFmt) (w : W64) (rows cols : Nat) : List (Nat × Nat) :=
  match f with
  | .sf4 => (List.range rows).flatMap fun m =>
      let blocks := ceilDiv cols 64
      [(owBase w + m * owStride w, 32 * blocks), (owScale w + 64 * m, blocks)]
  | f => (List.range rows).map fun m => (owBase w + m * owStride w, ceilDiv (cols * f.width) 8)

/-- The extents of a B operand of K rows and N columns. -/
def colExtents (f : MatFmt) (w : W64) (k n : Nat) : List (Nat × Nat) :=
  match f with
  | .sf4 => (List.range (ceilDiv k 64)).flatMap fun j => [(owBase w + 64 * j * 32, 32 * n), (owScale w + 64 * j, n)]
  | f => rowExtents f w k n

/-- Element `i` of width `w` bits in the bytes from `a` up. -/
def lsElem (c : Core) (a w i : Nat) : Nat :=
  if w = 4 then nbits (lsByte c (a + i / 2)).toNat (4 * (i % 2) + 3) (4 * (i % 2)) else lsNat c (a + i * (w / 8)) (w / 8)

/-- An element of A, and of B, as it is stored; an SF4 element carries its scale code above its nibble. -/
def readA (c : Core) (f : MatFmt) (w : W64) (m k : Nat) : Nat :=
  match f with
  | .sf4 => (lsByte c (owScale w + 64 * m + k / 64)).toNat * 16 + lsElem c (owBase w + m * owStride w + 32 * (k / 64)) 4 (k % 64)
  | f => lsElem c (owBase w + m * owStride w) f.width k
def readB (c : Core) (f : MatFmt) (w : W64) (k n : Nat) : Nat :=
  match f with
  | .sf4 => (lsByte c (owScale w + 64 * (k / 64) + n)).toNat * 16 + lsElem c (owBase w + (64 * (k / 64) + n) * 32) 4 (k % 64)
  | f => lsElem c (owBase w + k * owStride w) f.width n

/-- The value of a stored element. -/
def matNum (f : MatFmt) (x : Nat) : Num :=
  match f with
  | .int g => let v := g.val x; .fin (v < 0) v.natAbs 0
  | .float g => decodeF g x
  | .sf4 => sf4Num (x / 16) (x % 16)

/-! ### Block sums (R52-R56, R59, R60) -/

/-- The pieces hi and lo of a binary32 operand (R59); other formats are their own hi. -/
def hiOf (f : MatFmt) (x : Num) : Num :=
  if f = .float binary32 then (match x with | .fin s m e => .fin s (m / 2 ^ 12 * 2 ^ 12) e | y => y) else x
def loOf (f : MatFmt) (x : Num) : Num :=
  if f = .float binary32 then (match x with | .fin s m e => .fin s (m % 2 ^ 12) e | _ => .fin false 0 0) else .fin false 0 0

/-- The traversals of a precision mode: which pieces of A and of B (true: lo) (Table 02-9). -/
def passesOf (f : MatFmt) (mprec : Nat) : List (Bool × Bool) :=
  if f = .float binary32 then
    match mprec with
    | 1 => [(false, false)]
    | 2 => [(false, false), (false, true), (true, false)]
    | _ => [(false, false), (false, true), (true, false), (true, true)]
  else [(false, false)]
def piece (f : MatFmt) (lo : Bool) (x : Num) : Num := if lo then loOf f x else hiOf f x

/-- Whether a number is a NaN or an infinity. -/
def Num.special : Num → Bool | .fin _ _ _ => false | _ => true

/-- The products of one term enter the block sum: those of the traversals, or, with a special operand, that of the whole
operands (R55, R60). -/
def BlockSum.term (b : BlockSum) (f : MatFmt) (passes : List (Bool × Bool)) (x y : Num) : BlockSum :=
  if x.special || y.special then b.mac x y
  else passes.foldl (fun b q => b.mac (piece f q.1 x) (piece f q.2 y)) b

/-- What a matrix product is computed from: formats, mode, shape, and the stored elements. -/
structure MatJob where
  fa : MatFmt
  fb : MatFmt
  int : Bool
  passes : List (Bool × Bool)
  m : Nat
  n : Nat
  k : Nat
  a : List (List Nat)
  b : List (List Nat)
deriving DecidableEq, Repr

/-- Element of a stored matrix. -/
def at2 (x : List (List Nat)) (i j : Nat) : Nat := (x.getD i []).getD j 0
def MatJob.av (j : MatJob) (m k : Nat) : Num := matNum j.fa (at2 j.a m k)
def MatJob.bv (j : MatJob) (k n : Nat) : Num := matNum j.fb (at2 j.b k n)
/-- Terms of block `b` (R52). -/
def MatJob.terms (j : MatJob) (b : Nat) : List Nat := (List.range (min 64 (j.k - 64 * b))).map (64 * b + ·)
def MatJob.blocks (j : MatJob) : Nat := ceilDiv j.k 64

/-- The exact sum of a block's products at an element, with the accumulator term `acc` for floating formats. -/
def MatJob.sum (j : MatJob) (acc : Option Num) (b m n : Nat) : BlockSum :=
  let w0 : BlockSum := match acc with | some v => BlockSum.add {} v | none => {}
  (j.terms b).foldl (fun w k => w.term j.fa j.passes (j.av m k) (j.bv k n)) w0

/-- The signed value of a finite integer element. -/
def intOf : Num → Int | .fin s m _ => if s then -(m : Int) else m | _ => 0
/-- The exact integer sum of a block. -/
def MatJob.isum (j : MatJob) (b m n : Nat) : Int :=
  (j.terms b).foldl (fun v k => v + intOf (j.av m k) * intOf (j.bv k n)) 0

/-- INT32 as an integer format. -/
def int32 : IFmt := { w := 32, signed := true }

/-- The fault, if it is in this block and element. -/
def faultHere (f : Option MatFault) (b m n : Nat) : Int :=
  match f with | some x => if x.blk = b && x.row = m && x.col = n then x.delta else 0 | none => 0

/-- One element after every block, from accumulator bits `acc`, with the flags set. -/
def MatJob.element (j : MatJob) (flt : Option MatFault) (acc m n : Nat) : Nat × Flags :=
  (List.range j.blocks).foldl (fun (x : Nat × Flags) b =>
    if j.int then
      let (v, hit) := int32.clamp (int32.val x.1 + j.isum b m n + faultHere flt b m n)
      (int32.enc v, x.2 ||| (if hit then fSAT else 0))
    else
      let w := j.sum (some (decodeF binary32 x.1)) b m n
      let r := BlockSum.result { w with w := w.w + faultHere flt b m n }
      (r.1, x.2 ||| r.2)) (acc, 0)

/-- Whether R55 tracks an infinity or a NaN among the products of a block of an element; the accumulator is no part of the sum
that R129 checks. -/
def MatJob.special (j : MatJob) (b m n : Nat) : Bool :=
  if j.int then false else let w := j.sum none b m n; w.nan || w.pinf || w.ninf

/-- Every element of the region: key 64 row + column. -/
def MatJob.results (j : MatJob) (flt : Option MatFault) (acc : Nat → Nat → Nat) : List (Nat × Nat × Flags) :=
  (List.range j.m).flatMap fun m => (List.range j.n).map fun n => (64 * m + n, j.element flt (acc m n) m n)

/-! ### Checksums (R129-R133) -/

/-- A positive integer rounded to `p` significant bits: to nearest even, or up. -/
def roundSig (p : Nat) (up : Bool) (x : Nat) : Nat :=
  let L := Nat.log2 x + 1
  if L ≤ p then x
  else
    let k := L - p
    let q := x / 2 ^ k
    let r := x % 2 ^ k
    let inc := if up then r != 0 else decide (2 * r > 2 ^ k) || (2 * r == 2 ^ k && q % 2 == 1)
    (if inc then q + 1 else q) * 2 ^ k
/-- The same for a signed integer, by magnitude. -/
def roundSigI (p : Nat) (x : Int) : Int := if x < 0 then -(roundSig p false x.natAbs : Int) else roundSig p false x.natAbs

/-- A finite number in units of 2^-300. -/
def unit300 : Num → Int | .fin s m e => atWeight s m e (-300) | _ => 0

/-- The difference and the bound of one comparison, in units of 2^-622: predicted from the sum `r k` over the other index of
the second factor, against the observed sum `obs` (units of 2^-300). -/
def compareSums (terms : List Nat) (x : Nat → Int) (r q : Nat → Int) (obs : Int) : Nat × Nat :=
  let s := terms.foldl (fun v k => v + x k * roundSigI 24 (r k)) 0
  let t := terms.foldl (fun v k => v + (x k).natAbs * roundSig 8 true (q k).natAbs) 0
  ((s - obs * 2 ^ 300).natAbs * 2 ^ 22, roundSig 24 true t)

/-- What a disagreement is: kind (0 row, 1 column, 3 lane or duplicate), index, block, difference and bound as binary32. -/
structure Mismatch where
  kind : Nat
  index : Nat
  block : Nat
  diff : W32
  bound : W32
deriving DecidableEq, Repr

/-- A count of units 2^e as binary32 rounded up (R144). -/
def upBinary32 (n : Nat) (e : Int) : W32 := BitVec.ofNat 32 (roundF binary32 .up false false n e false).1

/-- The columns that one comparison of a row takes: those of one clock on the matrix-vector path (`cols` a clock), all on the
array (R129, R133). -/
def MatJob.colGroups (j : MatJob) (mv : Bool) (cols : Nat) : List (List Nat) :=
  if mv then (List.range (ceilDiv j.n cols)).map fun q => (List.range j.n).filter fun n => n / cols == q else [List.range j.n]

/-- The comparisons of block `b` that are skipped (R132), in every traversal. -/
def MatJob.skips (j : MatJob) (mv : Bool) (cols b : Nat) : Nat :=
  let t := (List.range j.m).map fun m => (List.range j.n).map fun n => j.special b m n
  let sp (m n : Nat) : Bool := (t.getD m []).getD n false
  let rows := ((List.range j.m).flatMap fun m => (j.colGroups mv cols).filter fun ns => ns.any fun n => sp m n).length
  let down := if mv then 0 else ((List.range j.n).filter fun n => (List.range j.m).any fun m => sp m n).length
  (rows + down) * j.passes.length

/-- The verdict of the comparisons of the block that a fault is in (R129-R133): none when every comparison agrees or is skipped. -/
def MatJob.verdict (j : MatJob) (mv : Bool) (cols : Nat) (f : MatFault) : Option Mismatch :=
  if f.delta = 0 || f.blk ≥ j.blocks || f.row ≥ j.m || f.col ≥ j.n then none
  else if j.int then some { kind := if mv then 3 else 0, index := f.row, block := f.blk, diff := upBinary32 f.delta.natAbs 0, bound := 0 }
  else
    let q := j.passes.getD f.pass (false, false)
    let av (m k : Nat) : Int := unit300 (piece j.fa q.1 (j.av m k))
    let bv (k n : Nat) : Int := unit300 (piece j.fb q.2 (j.bv k n))
    let ts := j.terms f.blk
    let ns := if mv then (List.range j.n).filter fun n => n / cols == f.col / cols else List.range j.n
    let ms := List.range j.m
    let skipRow := ns.any fun n => j.special f.blk f.row n
    let skipCol := ms.any fun m => j.special f.blk m f.col
    let w (m n : Nat) : Int := (ts.foldl (fun v k => v + av m k * bv k n) 0) / 2 ^ 300
    let row := compareSums ts (av f.row) (fun k => ns.foldl (fun v n => v + bv k n) 0)
      (fun k => ns.foldl (fun v n => v + (bv k n).natAbs) 0) (ns.foldl (fun v n => v + w f.row n) f.delta)
    let col := compareSums ts (fun k => bv k f.col) (fun k => ms.foldl (fun v m => v + av m k) 0)
      (fun k => ms.foldl (fun v m => v + (av m k).natAbs) 0) (ms.foldl (fun v m => v + w m f.col) f.delta)
    if !skipRow && row.1 > row.2 then
      some { kind := if mv then 3 else 0, index := f.row, block := f.blk, diff := upBinary32 row.1 (-622), bound := upBinary32 row.2 (-622) }
    else if !mv && !skipCol && col.1 > col.2 then
      some { kind := 1, index := f.col, block := f.blk, diff := upBinary32 col.1 (-622), bound := upBinary32 col.2 (-622) }
    else none

/-! ### Issue in the matrix slot (R118, R173, R111-R113, R171) -/

/-- Field checks (Table 06-4). -/
def fmtLegal (w : InsnWord) : Bool := decide (mFMT w ≤ 8) && (mFMT w != 8 || mMPREC w != 0)
def mldbLegal (_ : Group) (w : InsnWord) : Bool :=
  kU w.d && kU w.a && kS w.b && kS w.c && fmtLegal w && mz w 19 16 && mz w 13 0
def mmaLegal (_ : Group) (w : InsnWord) : Bool :=
  kA w.d && kS w.a && kS w.b && kS w.c && fmtLegal w && mmaPair (mFMT w) (mAFMT w) && decide (mBSRC w ≤ 2) && mz w 10 0
def mmvLegal (_ : Group) (w : InsnWord) : Bool :=
  kA w.d && kS w.a && kS w.b && kS w.c && decide (mFMT w ≤ 8) && mmvPair (mFMT w) (mAFMT w) && mMPREC w == 0
  && mBSRC w == 0 && mz w 10 0
def mewLegal (_ : Group) (w : InsnWord) : Bool :=
  kA w.d && (if mEOP w = 4 then kA w.a else kU w.a) && (if mEOP w < 4 then kS w.b else kU w.b) && kS w.c
  && decide (mEOP w ≤ 4) && mz w 18 0
/-- The destination type of MDRN: none for blocked SF4 (R174). -/
def mdrnPairLegal (w : InsnWord) : Bool :=
  let src : CType := if mITYPE w then .int int32 else .float binary32
  if mDST w = 0xA then !mITYPE w
  else match cTypeOf (mDST w) with
    | some dst => dst == src || convListed src dst
    | none => false
def mdrnLegal (_ : Group) (w : InsnWord) : Bool :=
  kU w.d && kA w.a && kS w.b && kS w.c && rmLegal (mRM w) && mdrnPairLegal w && mz w 18 16 && mz w 11 0
def mflgLegal (_ : Group) (w : InsnWord) : Bool := kS w.d && kA w.a && kU w.b && kU w.c && mz w 23 1

/-- Whether the base and the stride of an operand word are multiples of 64 (R112). -/
def owAligned (w : W64) : Bool := owBase w % 64 == 0 && owStride w % 64 == 0

/-- The element format that MDRN writes. -/
def mdrnFmt (w : InsnWord) : MatFmt :=
  if mDST w = 0xA then .sf4
  else match cTypeOf (mDST w) with
    | some (.int f) => .int f
    | some (.float f) => .float f
    | none => .sf4

/-- The dynamic checks of R111-R113, R128 and R174 in the order shape, alignment, range: a cause and an address, or none. -/
def matFault (rs : List (Nat × Nat)) (op : MatOp) (w : InsnWord) (aw bw cw : W64) : Option (Nat × Nat) :=
  let m := shM cw
  let n := shN cw
  let k := shK cw
  let fb := (matFmt (mFMT w)).getD .sf4
  let fa := (matFmt (mAFMT w)).getD .sf4
  let shape := 1 ≤ m && m ≤ (if op = .mmv then 8 else 64) && 1 ≤ n && n ≤ 64 && k ≤ 4096
    && !(op == .mma && mBSRC w == 2 && decide (tileDepth (mFMT w) < k)) && !(op == .mdrn && mDST w == 0xA && n != 64)
  let vec := op == .mew && mEOP w ≤ 1
  let words := match op with | .mldb => [bw] | .mma => [aw, bw] | .mmv => [aw, bw] | .mdrn => [bw] | .mew => []
  let extents := match op with
    | .mldb => colExtents fb bw (min k (tileDepth (mFMT w))) n
    | .mew => if vec then [(bw.toNat, 4 * n)] else []
    | .mdrn => rowExtents (mdrnFmt w) bw m n
    | _ => if k = 0 then [] else rowExtents fa aw m k ++ colExtents fb bw k n
  if !shape then some (1, 0)
  else match words.find? fun x => !owAligned x with
    | some x => some (2, owBase x)
    | none =>
      if vec && bw.toNat % 64 != 0 then some (2, bw.toNat)
      else (extents.findSome? fun e => if e.2 = 0 then none else firstOut rs e.1 e.2).map fun b => (5, b)

/-- Instructions waiting in the matrix queue. -/
def queuedMat (c : Core) : Nat := (c.mat.filter fun e => e.phase == .queued).length

/-- A matrix instruction enters the queue once its checks have passed; it stalls while the queue is full or the array retired
(R118, R135). -/
def enqueueMat (op : MatOp) (i : Iss) (s : State) : Eff :=
  if i.part = 0 then .reg i.gr
  else if retired s i.p || decide (queuedMat (coreOf s i.p) ≥ 4) then .held s
  else
    let aw := sGet i.gr i.w.a.toNat
    let bw := sGet i.gr i.w.b.toNat
    let cw := sGet i.gr i.w.c.toNat
    let rs := match jobOf s i.job with | some j => jobRanges j | none => []
    match matFault rs op i.w aw bw cw with
    | some (cause, addr) => .trap cause (BitVec.ofNat 64 addr) i.part
    | none =>
      let e : MatEntry := { op, w := i.w, aw, bw, cw, frm := i.gr.frm, slot := i.g, job := i.job, pc := i.pc, mask := i.part }
      .done (updGroup (updCore s i.p fun c => { c with mat := c.mat ++ [e] }) i.p i.g fun g => { g with matrix := true })

def execMldb (p g : Nat) (w : InsnWord) (s : State) : Out := issue p g w 3 mldbLegal (enqueueMat .mldb) s
def execMma (p g : Nat) (w : InsnWord) (s : State) : Out := issue p g w 3 mmaLegal (enqueueMat .mma) s
def execMmv (p g : Nat) (w : InsnWord) (s : State) : Out := issue p g w 3 mmvLegal (enqueueMat .mmv) s
def execMew (p g : Nat) (w : InsnWord) (s : State) : Out := issue p g w 3 mewLegal (enqueueMat .mew) s
def execMdrn (p g : Nat) (w : InsnWord) (s : State) : Out := issue p g w 3 mdrnLegal (enqueueMat .mdrn) s

/-- Accumulators that an entry names. -/
def matAccs (e : MatEntry) : List Nat :=
  match e.op with
  | .mldb => []
  | .mma => [e.w.d.toNat]
  | .mmv => [e.w.d.toNat]
  | .mew => if mEOP e.w = 4 then [e.w.d.toNat, e.w.a.toNat] else [e.w.d.toNat]
  | .mdrn => [e.w.a.toNat]

/-- MFLG: waits for the earlier instructions that name its accumulator, reads its flags and clears them with CLR (R176). -/
def mflgBody (i : Iss) (s : State) : Eff :=
  let c := coreOf s i.p
  let n := i.w.a.toNat
  if i.part = 0 then .reg i.gr
  else if c.mat.any fun e => (matAccs e).contains n then .held s
  else
    let fl := tget 0 c.accFlags n
    let s1 := if bit i.w.md 0 then updCore s i.p fun c => { c with accFlags := tdel c.accFlags n } else s
    .done (updGroup s1 i.p i.g fun g => sSet g i.w.d.toNat (fl.setWidth 64))
def execMflg (p g : Nat) (w : InsnWord) (s : State) : Out := issue p g w 3 mflgLegal mflgBody s

/-! ### The array at work -/

/-- The product of an entry with its stored operands. -/
def matJob (e : MatEntry) : MatJob :=
  let fb := (matFmt (mFMT e.w)).getD .sf4
  { fa := (matFmt (mAFMT e.w)).getD .sf4, fb, int := intAcc (mFMT e.w),
    passes := passesOf fb (if e.op = .mmv then 1 else mMPREC e.w), m := shM e.cw, n := shN e.cw, k := shK e.cw, a := e.a, b := e.b }

/-- Columns per clock of the matrix-vector path, and the clocks an instruction takes (Table 04-8, R127). -/
def mvCols (code : Nat) : Nat := if code = 2 || code = 5 then 4 else if code ≥ 6 then 1 else 2
def mvClocks (j : MatJob) (code : Nat) : Nat :=
  ceilDiv j.k 64 * ceilDiv j.n (mvCols code) * (if code = 2 || code = 5 then ceilDiv j.m 4 else 1)

/-- Whether any local-store word of the extents has a multi-bit error: the address of the first. -/
def firstBad (c : Core) (xs : List (Nat × Nat)) : Option Nat :=
  xs.findSome? fun x => ((List.range x.2).map (x.1 + ·)).find? fun a => lsMulti c a

/-- B rows of an entry from the local store. -/
def loadB (c : Core) (e : MatEntry) (k : Nat) : List (List Nat) :=
  let f := (matFmt (mFMT e.w)).getD .sf4
  (List.range k).map fun i => (List.range (shN e.cw)).map fun n => readB c f e.bw i n
def loadA (c : Core) (e : MatEntry) : List (List Nat) :=
  let f := (matFmt (mAFMT e.w)).getD .sf4
  (List.range (shM e.cw)).map fun m => (List.range (shK e.cw)).map fun k => readA c f e.aw m k

/-- FMT and MPREC of an instruction as one key; MPREC counts only for binary32 (R61, R175). -/
def tileKey (w : InsnWord) : Nat := mFMT w * 4 + mMPREC w

/-- The first tile of an MMA: from the shadow buffer under PRE when it matches, from the resident tile under HOLD when there is
one, else none: it is loaded (R115, R175). Places of a held tile beyond what was loaded hold free values. -/
def firstTile (s : State) (c : Core) (e : MatEntry) : Option (List (List Nat)) :=
  let rows := min (shK e.cw) (tileDepth (mFMT e.w))
  if e.replays > 0 then none
  else match mBSRC e.w with
    | 1 => match c.tiles.shadow with
      | some (key, bw, n, k, t) => if key = tileKey e.w && bw = e.bw && n = shN e.cw && k = shK e.cw then some t else none
      | none => none
    | 2 => match c.tiles.resident with
      | some (key, t) =>
        if key = tileKey e.w then
          some ((List.range rows).map fun k => (List.range (shN e.cw)).map fun n =>
            if k < t.length && n < (t.getD k []).length then at2 t k n
            else Config.staleCell s.free k n % 2 ^ (if mFMT e.w = 5 then 12 else ((matFmt (mFMT e.w)).getD .sf4).width))
        else none
      | none => none
    | _ => none

/-- An entry with its operands, and the core with its B buffers, as the array starts it. -/
def startEntry (s : State) (c : Core) (e : MatEntry) : Core × MatEntry :=
  match e.op with
  | .mldb =>
    let t := loadB c e (min (shK e.cw) (tileDepth (mFMT e.w)))
    ({ c with tiles := { c.tiles with shadow := some (tileKey e.w, e.bw, shN e.cw, shK e.cw, t) } },
      { e with phase := .started })
  | .mma =>
    let k := shK e.cw
    let d := tileDepth (mFMT e.w)
    let b := match firstTile s c e with
      | some t => t ++ ((loadB c e k).drop t.length)
      | none => loadB c e k
    let left := if k = 0 then c.tiles.resident else some (tileKey e.w, b.drop ((ceilDiv k d - 1) * d))
    ({ c with tiles := { shadow := none, resident := left } }, { e with phase := .started, a := loadA c e, b })
  | .mmv => (c, { e with phase := .started, a := loadA c e, b := loadB c e (shK e.cw) })
  | .mew =>
    let v := if mEOP e.w ≤ 1 then [(List.range (shN e.cw)).map fun n => lsNat c (e.bw.toNat + 4 * n) 4] else []
    (c, { e with phase := .started, b := v })
  | .mdrn => (c, { e with phase := .started })

/-- Local-store bytes that an entry reads when it starts. -/
def readExtents (e : MatEntry) : List (Nat × Nat) :=
  let fb := (matFmt (mFMT e.w)).getD .sf4
  let fa := (matFmt (mAFMT e.w)).getD .sf4
  match e.op with
  | .mldb => colExtents fb e.bw (min (shK e.cw) (tileDepth (mFMT e.w))) (shN e.cw)
  | .mma => rowExtents fa e.aw (shM e.cw) (shK e.cw) ++ colExtents fb e.bw (shK e.cw) (shN e.cw)
  | .mmv => rowExtents fa e.aw (shM e.cw) (shK e.cw) ++ colExtents fb e.bw (shK e.cw) (shN e.cw)
  | .mew => if mEOP e.w ≤ 1 then [(e.bw.toNat, 4 * shN e.cw)] else []
  | .mdrn => []

/-- Whether entry `k` may start: it waits, every earlier one has started, a holding set is free (four for the array, two for the
path), and every earlier one that names its accumulator has completed unless both are MMAs (R118-R120, R125). -/
def canStart (c : Core) (k : Nat) : Bool :=
  match c.mat[k]? with
  | none => false
  | some e =>
    let before := c.mat.take k
    e.phase == .queued && before.all (fun x => x.phase != .queued)
    && decide ((before.filter fun x => x.op == e.op && x.phase != .queued).length < (if e.op = .mmv then 2 else 4))
    && before.all fun x => !(matAccs x).any (fun a => (matAccs e).contains a) || (x.op == .mma && e.op == .mma)

/-- Tiles of B that an entry loads when it starts, and 1 for a HOLD that loads none (events 0x16 and 0x17 of Table 20-2). -/
def tileLoads (s : State) (c : Core) (e : MatEntry) : Nat :=
  match e.op with
  | .mldb => 1
  | .mma => ceilDiv (shK e.cw) (tileDepth (mFMT e.w)) - (if (firstTile s c e).isSome then 1 else 0)
  | _ => 0
def heldTiles (s : State) (c : Core) (e : MatEntry) : Nat :=
  if e.op = .mma && mBSRC e.w == 2 && tileLoads s c e == 0 then 1 else 0

/-- MATRIX_START: the entry takes a holding set and reads its operands (R114-R119); a multi-bit error in them is a source data
error (R197). -/
def execMatrixStart (p k : Nat) (s : State) : Out :=
  onUnit (decide (p < 36)) <|
    let c := coreOf s p
    match c.mat[k]? with
    | none => .next s
    | some e =>
      if !canStart c k || retired s p then .next s
      else match firstBad c (readExtents e) with
        | some a => .next (lsDataError s p e.job a)
        | none =>
          let (c1, e1) := startEntry s c e
          let s1 := setCore { s with free := s.free + 1 } p { c1 with mat := modifyAt c1.mat k fun _ => e1 }
          .next (pmcCore (pmcCore s1 p 0x16 (tileLoads s c e)) p 0x17 (heldTiles s c e))

/-- MATRIX_COMMIT: an entry commits once it has started and every earlier entry of its group has committed (R138). -/
def execMatrixCommit (p k : Nat) (s : State) : Out :=
  onUnit (decide (p < 36)) <|
    let c := coreOf s p
    match c.mat[k]? with
    | none => .next s
    | some e =>
      whenever (e.phase != .queued && !e.committed && (c.mat.take k).all fun x => x.slot != e.slot || x.committed) s
        (pmcCore (setCore s p { c with mat := modifyAt c.mat k fun e => { e with committed := true } }) p 0x04 1)

/-- The bits of an accumulator element as entry `k` sees them: the result of the latest earlier entry that writes the tile, where
it lies in that region, else the tile's (R120). -/
def accBits (c : Core) (k a m n : Nat) : Nat :=
  let hit := ((c.mat.take k).reverse.find? fun x => x.op != .mdrn && x.op != .mldb && x.w.d.toNat == a && (tfind x.result (64 * m + n)).isSome)
  match hit with
  | some x => (tget 0 x.result (64 * m + n)).toNat
  | none => (tget 0 c.acc (4096 * a + 64 * m + n)).toNat

/-- One MEW operation on elements x and y (R124): the result bits and the tile flags. An INT32 result outside the format, for which
the spec states none, is free. -/
def mewOp (eop : Nat) (int : Bool) (x y : Nat) : Nat × Flags :=
  if int then
    let vx := int32.val x
    let vy := int32.val y
    let v := match eop with
      | 0 => vx * vy | 1 => vx + vy | 2 => minI vx vy | 3 => maxI vx vy | _ => vx * vy
    if int32.lo ≤ v ∧ v ≤ int32.hi then (int32.enc v, 0)
    else (Config.mewWide eop x y % 2 ^ 32, if Config.mewSat eop x y then fSAT else 0)
  else
    let (r, fl) := match eop with
      | 0 => fmul binary32 .even x y | 1 => fadd binary32 .even x y
      | 2 => fminmax binary32 false x y | 3 => fminmax binary32 true x y | _ => fmul binary32 .even x y
    ((match decodeF binary32 r with | .nan _ _ _ => 0x7FC00000 | _ => r), fl &&& (fINV ||| fOVF))

/-- The bytes of one row that MDRN writes, and its flags (R125, R174). -/
def drainRow (e : MatEntry) (row : List Nat) (free : Nat) : List Byte × Option Byte × Flags :=
  let rm := (rmOf e.frm (mRM e.w)).getD .even
  let src : CType := if mITYPE e.w then .int int32 else .float binary32
  let tile : Flags := fINV ||| fOVF ||| fSAT
  if mDST e.w = 0xA then
    let (c, els) := sf4Encode rm (row.map fun x => decodeF binary32 x)
    ((List.range 32).map fun t => BitVec.ofNat 8 ((els.getD (2 * t + 1) (0, 0)).1 * 16 + (els.getD (2 * t) (0, 0)).1),
      some (BitVec.ofNat 8 c), allFlags els &&& tile)
  else match cTypeOf (mDST e.w) with
    | some dst =>
      let els := row.map fun x => if dst = src then (x, 0) else convert src dst rm (mSAT e.w) x
      let vals := els.map (·.1)
      let vals := if dst.width = 4 && vals.length % 2 = 1 then vals ++ [Config.oddNibble free % 16] else vals
      let n := vals.foldr (fun x a => a * 2 ^ dst.width + x % 2 ^ dst.width) 0
      (natLe (ceilDiv (vals.length * dst.width) 8) n, none, allFlags els &&& tile)
    | none => ([], none, 0)

/-- Comparisons skipped in the first `n` blocks of an entry (R132). -/
def matSkips (e : MatEntry) (n : Nat) : Nat :=
  match e.op with
  | .mldb => 0 | .mew => 0 | .mdrn => 0
  | _ =>
    let j := matJob e
    (List.range (min n j.blocks)).foldl (fun v b => v + j.skips (e.op == .mmv) (mvCols (mFMT e.w)) b) 0

/-- The bytes of `xs` at key `a` and the following keys; a zero is a byte to write too. -/
def putBytes : Tbl Byte → Nat → List Byte → Tbl Byte
  | t, _, [] => t
  | t, a, x :: xs => putBytes (tput t a x) (a + 1) xs

/-- The result of an entry whose operands are in (R116, R123-R126): elements for an accumulator, or bytes for the local store, and
flags. -/
def matResult (c : Core) (k : Nat) (e : MatEntry) (flt : Option MatFault) (free : Nat) : MatEntry :=
  let rows := List.range (shM e.cw)
  let cols := List.range (shN e.cw)
  let d := e.w.d.toNat
  match e.op with
  | .mldb => e
  | .mew =>
    let xs := rows.flatMap fun m => cols.map fun n =>
      let y := match mEOP e.w with
        | 0 => at2 e.b 0 n | 1 => at2 e.b 0 n | 4 => accBits c k e.w.a.toNat m n | _ => e.bw.toNat % 2 ^ 32
      (64 * m + n, mewOp (mEOP e.w) (mITYPE e.w) (accBits c k d m n) y)
    { e with result := xs.map fun x => (x.1, BitVec.ofNat 32 x.2.1), flags := xs.foldl (fun a x => a ||| x.2.2) 0 }
  | .mdrn =>
    let rs := rows.map fun m => (m, drainRow e (cols.map fun n => accBits c k e.w.a.toNat m n) free)
    let out := rs.foldl (fun t r =>
      let t1 := putBytes t (owBase e.bw + r.1 * owStride e.bw) r.2.1
      match r.2.2.1 with | some b => tput t1 (owScale e.bw + 64 * r.1) b | none => t1) []
    { e with
      out
      flags := rs.foldl (fun a r => a ||| r.2.2.2) 0 }
  | _ =>
    let j := matJob e
    let acc (m n : Nat) : Nat := if bit e.w.md 11 then accBits c k d m n else 0
    if j.k = 0 then
      { e with result := if bit e.w.md 11 then [] else rows.flatMap fun m => cols.map fun n => (64 * m + n, 0) }
    else
      let xs := j.results flt acc
      { e with result := xs.map fun x => (x.1, BitVec.ofNat 32 x.2.1), flags := xs.foldl (fun a x => a ||| x.2.2) 0 }

/-- The verdict on an entry's comparisons. -/
def matVerdict (e : MatEntry) (f : Option MatFault) : Option Mismatch :=
  match f with
  | none => none
  | some f =>
    let dup : Option Mismatch := if f.delta = 0 then none
      else some { kind := 3, index := f.row % 64, block := 0, diff := upBinary32 f.delta.natAbs (-300), bound := 0 }
    match e.op with
    | .mldb => none
    | .mew => dup
    | .mdrn => dup
    | _ => (matJob e).verdict (e.op == .mmv) (mvCols (mFMT e.w)) f

/-- The record of a mismatch or a failed injected test (Table 04-14, R144). -/
def checkRecord (s : State) (p : Nat) (e : MatEntry) (m : Mismatch) (second : Bool) : State :=
  let held := infoHeld s (pgMxa p) 0x114
  let acc := (matAccs e).headD 0
  let fields := (if second then 2 ^ 30 else 0) + m.kind * 2 ^ 27 + acc * 2 ^ 25 + m.index % 64 * 2 ^ 19 + m.block % 64 * 2 ^ 13
    + mFMT e.w * 2 ^ 9
  let s1 := capture s (pgMxa p) 0x114 29 fields
  if held then journal s1 (pgMxa p) 0 (natLe 8 e.pc.toNat)
  else updCore s1 p fun c => { c with chkPc := e.pc.setWidth 48, chkSlot := e.slot, chkDiff := m.diff, chkBound := m.bound }

/-- Blocks of the array, or clocks of the path, that an instruction adds to the injection interval (R136). -/
def injAdds (e : MatEntry) : Nat :=
  match e.op with
  | .mma => (matJob e).blocks
  | .mmv => mvClocks (matJob e) (mFMT e.w)
  | _ => 0

/-- Injected tests that fall within an instruction. -/
def injTests (c : Core) (e : MatEntry) : Nat :=
  let n := 2 ^ bits c.mxaCfg 12 8
  let from_ := if e.op = .mmv then c.injMv else c.injCount
  (from_ + injAdds e) / n - from_ / n

/-- The counters of R136 after an instruction's checks. -/
def injAdvance (c : Core) (e : MatEntry) : Core :=
  if e.op = .mmv then { c with injMv := c.injMv + injAdds e }
  else { c with injCount := c.injCount + injAdds e, injNext := (c.injNext + injTests c e) % 65 }

/-- The record of an injected test that agreed: its comparator (0 the row comparator, c the comparator of column c - 1), the block that
carried it, and the figures of the comparison, which no rule places at a row (R136, R144). -/
def injRecord (s : State) (c : Core) (e : MatEntry) : Mismatch :=
  let n := 2 ^ bits c.mxaCfg 12 8
  let x := Config.injFigures s.free
  { kind := 2
    index := if e.op = .mma && c.injNext ≠ 0 then c.injNext - 1 else x.1
    block := if e.op = .mma then n - 1 - c.injCount % n else x.2.1
    diff := x.2.2.1
    bound := x.2.2.2 }

/-- Whether an entry runs on the matrix-vector path, or on the array. -/
def samePath (e x : MatEntry) : Bool := (e.op == .mmv) == (x.op == .mmv)

/-- A first mismatch: the entry and every later one of its path give up their sets and run again, B is reloaded, the replay is counted
and recorded (R134, R139, R454). -/
def firstMismatch (s : State) (p k : Nat) (e : MatEntry) (m : Mismatch) : State :=
  let again (x : MatEntry) : MatEntry := { x with phase := .queued, a := [], b := [], result := [], out := [], flags := 0 }
  let s1 := updCore s p fun c => { c with
    mat := (c.mat.take k) ++ ((c.mat.drop k).map fun x => if samePath e x then again x else x).mapIdx
      fun i x => if i = 0 && e.committed then { x with replays := x.replays + 1 } else x
    tiles := if e.op = .mmv then c.tiles else { c.tiles with resident := none } }
  countMismatch (raiseIrq (checkRecord (rcount s1 (pgMxa p) 0x108) p e m false) (pgMxa p) 0) p

/-- MATRIX_CHECK: the comparisons of a started entry, whose earlier entries have been checked: agreement, a first mismatch, a second
one, or an injected test that wrongly agrees (R129-R136). -/
def execMatrixCheck (p k : Nat) (v : CheckInput) (s : State) : Out :=
  onUnit (decide (p < 36)) <|
    let c := coreOf s p
    match c.mat[k]? with
    | none => .next s
    | some e =>
      if e.phase != .started || (c.mat.take k).any (fun x => x.phase != .checked) || retired s p then .next s
      else
        let tests := injTests c e
        let bad := v.stuck && decide (0 < tests)
        let upTo := match v.fault, matVerdict e v.fault with | some f, some _ => f.blk + 1 | _, _ => 64
        let s1 := rcount (updCore s p fun c => injAdvance c e) (pgMxa p) 0x10C (matSkips e upTo)
        let s2 := { s1 with free := s1.free + 1 }
        match matVerdict e v.fault with
        | some m =>
          if bad then .next (retireCore (checkRecord s2 p e (injRecord s c e) true) p)
          else if e.replays > 0 then .next (retireCore (checkRecord s1 p e m true) p)
          else .next (firstMismatch s1 p k e m)
        | none =>
          if bad then .next (retireCore (checkRecord s2 p e (injRecord s c e) true) p)
          else
            .next (updCore (rwrap s2 (pgMxa p) 0x110 tests) p fun x =>
              { x with mat := modifyAt x.mat k fun _ => { matResult c k e v.fault s.free with phase := .checked } })

/-- Useful multiply-accumulates of an entry that writes (MAC_USE): M x N x K; each cell of a 4-bit format counts its two terms, which K
counts already. -/
def usefulMacs (e : MatEntry) : Nat :=
  match e.op with
  | .mma => shM e.cw * shN e.cw * shK e.cw
  | .mmv => shM e.cw * shN e.cw * shK e.cw
  | _ => 0

/-- MATRIX_COMPLETE: a committed entry whose checks have agreed writes its accumulator region, its bytes and its flags, in issue
order among those that name one accumulator, and leaves the array (R109, R116, R118, R139). -/
def execMatrixComplete (p k : Nat) (s : State) : Out :=
  onUnit (decide (p < 36)) <|
    let c := coreOf s p
    match c.mat[k]? with
    | none => .next s
    | some e =>
      whenever (e.phase == .checked && e.committed && (c.mat.take k).all fun x => !(matAccs x).any fun a => (matAccs e).contains a) s
        (pmcCore (setCore s p
          { c with
            mat := removeAt c.mat k
            acc := e.result.foldl (fun t x => tset 0 t (4096 * e.w.d.toNat + x.1) x.2) c.acc
            accFlags := match matAccs e with
              | a :: _ => tset 0 c.accFlags a (tget 0 c.accFlags a ||| e.flags)
              | [] => c.accFlags
            ls := e.out.foldl (fun t x => tset 0 t x.1 x.2) c.ls }) p 0x14 (usefulMacs e))

end Sys2Proof.Machine
end

