-- ==== Sys2Proof/Machine/Pins.lean ====
section
/-! DEFINITION. The always-on block: power-up, the reset and wake inputs, and the thermal limits (21_pins_electrical_package.md; R425,
R436, R437, R470). -/
namespace Sys2Proof.Machine

/-! ### Power-up (R538, R539) -/

/-- The state with the pins updated. -/
def updPins (s : State) (f : Pins → Pins) : State := { s with pins := f s.pins }

/-- POWER_UP: every power-good has arrived and the internal reset is released; registers hold their reset values. A wake that fell in the
power-down order lets the order follow it (Table 21-9). -/
def execPowerUp (s : State) : Out :=
  let due := s.pins.rising || (s.pins.wakeLatched && !s.pins.tripped)
  let s1 := if s.power.off then atLeast s s.power.offAt else s
  whenever (due && !s.pins.powered) s
    (updPins (deviceReset s1 s.boot.cause) fun p => { p with powered := true, rising := false, railEn := 0x7F, attempts := 0, wakeLatched := false })

/-- POWER_UP_FAIL: a power-good is late or falls; the enables go low, and the failing step is recorded. -/
def execPowerUpFail (step : Nat) (s : State) : Out :=
  onUnit (decide (step < 7)) <|
    whenever (s.pins.rising && !s.pins.powered) s
      (updPins s fun p => { p with rising := false, railEn := 0, attempts := p.attempts + 1, failedAt := s.now, failStep := some step })

/-- POWER_UP_RETRY: 1 s after a failed attempt, up to the third. -/
def execPowerUpRetry (s : State) : Out :=
  whenever (!s.pins.powered && !s.pins.rising && decide (1 ≤ s.pins.attempts) && decide (s.pins.attempts < 3)) s
    (updPins (atLeast s (s.pins.failedAt + 1000000000)) fun p => { p with rising := true })

/-! ### Wakes of the device in Off (R425, R436, R437) -/

/-- Bits of PWR_DEV_CTL.WAKE_EN. -/
def wkPin : Nat := 0
def wkSpoke : Nat := 1
def wkTimer : Nat := 2
def wakeEn (s : State) (b : Nat) : Bool := bit (rget s pgPwr 0x128) b

/-- A wake of a device in Off, with its BOOT_CAUSE: the power-up order is to run, at once or when the power-down order is complete. -/
def wakeDevice (s : State) (cause : Nat) : State :=
  let s1 : State := { s with boot := { s.boot with cause } }
  if s.now < s.power.offAt then updPins s1 fun p => { p with wakeLatched := true }
  else updPins s1 fun p => { p with rising := true }

/-- Whether the device is in Off and no wake has come. -/
def asleep (s : State) : Bool :=
  s.power.off && !s.pins.powered && !s.pins.rising && !s.pins.wakeLatched && s.pins.attempts == 0

/-- WAKE_N low for 1 us: it wakes a device in Off, lets the power-up order start afresh after three failed attempts (R539), and is
latched while a thermal trip keeps the rails off. -/
def execWakeN (s : State) : Out :=
  if s.pins.powered then .next s
  else if s.pins.tripped then .next (updPins s fun p => { p with wakeLatched := true })
  else if 3 ≤ s.pins.attempts then
    .next (updPins { s with boot := { s.boot with cause := 2 } } fun p => { p with rising := true, attempts := 0 })
  else whenever (asleep s && wakeEn s wkPin) s (wakeDevice s 2)

/-- TIMER_WAKE: PWR_TIMER seconds after the entry to Off. -/
def execTimerWake (s : State) : Out :=
  let t := (rget s pgPwr 0x12C).toNat
  whenever (asleep s && wakeEn s wkTimer && t != 0) s (wakeDevice (atLeast s (s.power.offAt + t * 1000000000)) 3)

/-- WAKE_PATTERN_DETECT on a link whose detector is on: it wakes the device in Off, or the link's domain in Sleep or Deep sleep. -/
def execWakePatternDetect (link : Nat) (s : State) : Out :=
  onUnit (linkOk link) <|
    let on := bit (rget s (pgSpk link) 0x100) 28
    if s.pins.powered then whenever (on && decide (2 ≤ (domOf s (0x50 + link)).state)) s (wakeDomain s (0x50 + link))
    else whenever (on && asleep s && wakeEn s wkSpoke) s (wakeDevice s 4)

/-! ### Reset inputs (R541) -/

/-- Whether a low pulse of so many ns is taken: below 1 us it is ignored, from 10 us it is taken, and between them it is open. -/
def pulseTaken (s : State) (lowNs : Nat) : Bool :=
  decide (1000 ≤ lowNs) && (decide (10000 ≤ lowNs) || Config.resetTaken s.free)

/-- A pulse that is open takes a free value. -/
def pulseSeen (s : State) (lowNs : Nat) : State := if 1000 ≤ lowNs ∧ lowNs < 10000 then { s with free := s.free + 1 } else s

/-- RESET_N: a device reset. During the power-up order it only delays the release. -/
def execResetN (lowNs : Nat) (s : State) : Out :=
  if !s.pins.powered then .next s
  else .next (if pulseTaken s lowNs then deviceReset (pulseSeen s lowNs) 1 else pulseSeen s lowNs)

/-- PERST_N: the host interface only; its link goes down and every function is reset (R301). -/
def perst (s : State) : State :=
  raiseIrq (setHifLink ((List.range (s.numVfs + 1)).foldl resetVi s) 0x00400000) 0x200 3
def execPerstN (lowNs : Nat) (s : State) : Out :=
  if !s.pins.powered then .next s
  else .next (if pulseTaken s lowNs then perst (pulseSeen s lowNs) else pulseSeen s lowNs)

/-! ### Thermal limits (R545, R546, Table 21-8) -/

/-- Warning, limit and trip in degrees Celsius of the variant. -/
def tWarn (s : State) : Int := if isHx s then 100 else 90
def tLimit (s : State) : Int := if isHx s then 105 else 95
def tTrip (s : State) : Int := if isHx s then 125 else 115

/-- The trip: THERM_TRIP_N goes low and the power-down order runs. -/
def thermalTrip (s : State) : State :=
  updPins (railsOff s) fun p => { p with thermTripN := false, tripped := true, coolSince := none, wakeLatched := false }

/-- A threshold is reached: raises are cancelled; at the limit real-time partitions go down to OP2, and a record of severity 3 is
written. -/
def reachThreshold (s : State) (level : Nat) : State :=
  let s1 := allCores.foldl (fun s p => updDom s p fun x => { x with opWanted := none }) { s with power := { s.power with thermal := level, coolSince := none } }
  if level = 2 then
    journalAs ((allCores.filter fun p => !bestEffort s1 p && decide (2 < (domOf s1 p).op)).foldl (fun s p => changeOp s p 2) s1)
      pgPwr (Config.journalKind pgPwr 6 % 256) 3 []
  else aimRail s1

/-- The threshold in force is left when the temperature has stayed 5 degrees below it for 1 s; below the limit, real-time partitions go
back to their operating points. -/
def leaveThreshold (s : State) : State :=
  let s1 : State := { s with power := { s.power with thermal := s.power.thermal - 1, coolSince := none } }
  if s.power.thermal = 2 then
    (List.range 32).foldl (fun s L => match physOf s L, corePart s L with
      | some p, some x => if x.realTime then changeOp s p x.op else s
      | _, _ => s) s1
  else s1

/-- A sample of the die sensors, with the device powered. -/
def dieSample (s : State) (sensor : Nat) (max : Int) : State :=
  let s1 := rset s 0 0x108 (BitVec.ofNat 32 (sensor % 64 * 2 ^ 8 + (BitVec.ofInt 8 max).toNat))
  let level := if tLimit s ≤ max then 2 else if tWarn s ≤ max then 1 else 0
  if s.power.thermal < level then reachThreshold s1 level
  else if s.power.thermal = 0 then s1
  else
    let t := if s.power.thermal = 2 then tLimit s else tWarn s
    if t - 5 < max then { s1 with power := { s1.power with coolSince := none } }
    else match s.power.coolSince with
      | none => { s1 with power := { s1.power with coolSince := some s.now } }
      | some c => if c + 1000000000 ≤ s.now then leaveThreshold s1 else s1

/-- THERMAL_SAMPLE: the die sensors, read while the device is powered, and the always-on sensor; the trip is taken on the hotter. -/
def execThermalSample (sensor : Nat) (max aon : Int) (s : State) : Out :=
  let s1 := updPins s fun p => { p with aonTemp := aon }
  if s.pins.powered then
    if tTrip s ≤ max ∨ tTrip s ≤ aon then .next (thermalTrip (dieSample s1 sensor max))
    else .next (dieSample s1 sensor max)
  else if s.pins.tripped then
    .next (updPins s1 fun p => { p with
      coolSince := if aon < tWarn s - 10 then (match p.coolSince with | some c => some c | none => some s.now) else none })
  else .next s1

/-- THERMAL_RESTART: the always-on sensor has read below the restart temperature for 1 s; the power-up order runs again. -/
def execThermalRestart (s : State) : Out :=
  match s.pins.coolSince with
  | none => .next s
  | some c =>
    whenever s.pins.tripped s
      (updPins { atLeast s (c + 1000000000) with boot := { s.boot with cause := 9 } } fun p =>
        { p with tripped := false, thermTripN := true, rising := true, wakeLatched := false, coolSince := none })

end Sys2Proof.Machine
end

