-- ==== Sys2Proof/Machine/Scalar.lean ====
section
/-! DEFINITION. Scalar and predicate instructions (Tables 05-8 to 05-11, R78, R156, R157). -/
namespace Sys2Proof.Machine

/-- Field check of the scalar instructions with two operands: MOD holds IMM and IMM19. -/
def sbinLegal (_ : Group) (w : InsnWord) : Bool := kS w.d && kS w.a && kSB w && kU w.c && mz w 23 20
/-- Field check of the scalar instructions with one operand. -/
def sunLegal (_ : Group) (w : InsnWord) : Bool := kS w.d && kS w.a && kU w.b && kU w.c && mz w 23 0

/-- A scalar instruction: s[d] takes `f` of s[a] and operand b, once (R78). -/
def sbin (f : W64 → W64 → W64) (p g : Nat) (w : InsnWord) (s : State) : Out :=
  issue p g w 1 sbinLegal (once fun i => sSet i.gr i.w.d.toNat (f (sGet i.gr i.w.a.toNat) (sB i.gr i.w))) s

/-- SDIVS: rounded towards zero; b = 0 gives -1; -2^63 / -1 gives -2^63 (Table 05-9). -/
def sdivs (a b : W64) : W64 := if b = 0 then BitVec.allOnes 64 else BitVec.ofInt 64 (Int.tdiv a.toInt b.toInt)
/-- SDIVU: b = 0 gives 2^64 - 1. -/
def sdivu (a b : W64) : W64 := if b = 0 then BitVec.allOnes 64 else BitVec.ofNat 64 (a.toNat / b.toNat)
/-- SREMS: the sign of a; b = 0 gives a. -/
def srems (a b : W64) : W64 := if b = 0 then a else BitVec.ofInt 64 (Int.tmod a.toInt b.toInt)
/-- SREMU: b = 0 gives a. -/
def sremu (a b : W64) : W64 := if b = 0 then a else BitVec.ofNat 64 (a.toNat % b.toNat)
/-- High 64 bits of the 128-bit product. -/
def mulhs (a b : W64) : W64 := BitVec.ofInt 64 (a.toInt * b.toInt / 2 ^ 64)
def mulhu (a b : W64) : W64 := BitVec.ofNat 64 (a.toNat * b.toNat / 2 ^ 64)
/-- Shift amount: b mod 64. -/
def sh6 (b : W64) : Nat := b.toNat % 64
/-- Leading zeros; 64 for 0. -/
def clz64 (a : W64) : Nat := if a = 0 then 64 else 63 - Nat.log2 a.toNat

/-- SADD to SMAXU -/
def execSadd := sbin (· + ·)
def execSsub := sbin (· - ·)
def execSmul := sbin (· * ·)
def execSmulhs := sbin mulhs
def execSmulhu := sbin mulhu
def execSdivs := sbin sdivs
def execSdivu := sbin sdivu
def execSrems := sbin srems
def execSremu := sbin sremu
def execSand := sbin (· &&& ·)
def execSor := sbin (· ||| ·)
def execSxor := sbin (· ^^^ ·)
def execSshl := sbin fun a b => a <<< sh6 b
def execSshr := sbin fun a b => a >>> sh6 b
def execSsra := sbin fun a b => a.sshiftRight (sh6 b)
def execSmins := sbin fun a b => if a.toInt ≤ b.toInt then a else b
def execSmaxs := sbin fun a b => if a.toInt ≤ b.toInt then b else a
def execSminu := sbin fun a b => if a.toNat ≤ b.toNat then a else b
def execSmaxu := sbin fun a b => if a.toNat ≤ b.toNat then b else a

/-- A scalar instruction of one operand. -/
def sun (f : W64 → W64) (p g : Nat) (w : InsnWord) (s : State) : Out :=
  issue p g w 1 sunLegal (once fun i => sSet i.gr i.w.d.toNat (f (sGet i.gr i.w.a.toNat))) s

/-- SPOPC, SCLZ -/
def execSpopc := sun fun a => BitVec.ofNat 64 (popCount 64 a.toNat)
def execSclz := sun fun a => BitVec.ofNat 64 (clz64 a)

/-- The integer codes of Table 05-11 on 64-bit scalars. -/
def scompare (cond : Nat) (a b : W64) : Bool := icompare { w := 64, signed := true } cond a.toNat b.toNat

/-- SCMP: one result into p[d] of every participating thread (R156). -/
def scmpLegal (_ : Group) (w : InsnWord) : Bool := kP w.d && kS w.a && kSB w && kU w.c && decide (mCOND w ≤ 5)
def execScmp (p g : Nat) (w : InsnWord) (s : State) : Out :=
  issue p g w 1 scmpLegal (once fun i =>
    let r := scompare (mCOND i.w) (sGet i.gr i.w.a.toNat) (sB i.gr i.w)
    pSetIn i.gr i.w.d.toNat i.part (if r then BitVec.allOnes 32 else 0)) s

/-- SMOVI -/
def smoviLegal (_ : Group) (w : InsnWord) : Bool := kS w.d && kU w.a && kU w.b && kU w.c
def execSmovi (p g : Nat) (w : InsnWord) (s : State) : Out :=
  issue p g w 1 smoviLegal (once fun i => sSet i.gr i.w.d.toNat (i.w.md.signExtend 64)) s

/-- SCATI -/
def scatiLegal (_ : Group) (w : InsnWord) : Bool := kS w.d && kS w.a && kU w.b && kU w.c
def execScati (p g : Nat) (w : InsnWord) (s : State) : Out :=
  issue p g w 1 scatiLegal (once fun i =>
    sSet i.gr i.w.d.toNat ((sGet i.gr i.w.a.toNat <<< 24) ||| i.w.md.setWidth 64)) s

/-- The values of Table 05-10. -/
def srdValue (s : State) (i : Iss) : W64 :=
  match mIMM24 i.w with
  | 0 => i.set.setWidth 64
  | 1 => i.gr.frm.setWidth 64
  | 2 => BitVec.ofNat 64 (coreTenths s i.p / 10)
  | 3 => BitVec.ofNat 64 s.now
  | 4 => BitVec.ofNat 64 ((logicalOf s i.p).getD 0)
  | 5 => BitVec.ofNat 64 i.g
  | _ => i.gr.age.setWidth 64

/-- SRD -/
def srdLegal (_ : Group) (w : InsnWord) : Bool := kS w.d && kU w.a && kU w.b && kU w.c && decide (mIMM24 w ≤ 6)
def srdBody (i : Iss) (s : State) : Eff :=
  .reg (if i.part = 0 then i.gr else sSet i.gr i.w.d.toNat (srdValue s i))
def execSrd (p g : Nat) (w : InsnWord) (s : State) : Out := issue p g w 1 srdLegal srdBody s

/-- SFRM: an invalid code leaves FRM and sets INV of the participating threads (R42). -/
def sfrmLegal (_ : Group) (w : InsnWord) : Bool := kU w.d && kU w.a && kU w.b && kU w.c && mz w 23 3
def setFrm (i : Iss) : Group :=
  let code := md i.w 2 0
  if code = 0 || code ≥ 6 then (lanesOf i.part).foldl (fun g t => flagsOr g t fINV) i.gr
  else { i.gr with frm := BitVec.ofNat 3 code }
def execSfrm (p g : Nat) (w : InsnWord) (s : State) : Out := issue p g w 1 sfrmLegal (once setFrm) s

/-- SBALLOT -/
def sballotLegal (_ : Group) (w : InsnWord) : Bool := kS w.d && kP w.a && kU w.b && kU w.c && mz w 23 0
def execSballot (p g : Nat) (w : InsnWord) (s : State) : Out :=
  issue p g w 1 sballotLegal (once fun i =>
    sSet i.gr i.w.d.toNat ((i.part &&& pGet i.gr i.w.a.toNat).setWidth 64)) s

/-- Predicate instructions act for each participating thread (R156). -/
def pbinLegal (_ : Group) (w : InsnWord) : Bool := kP w.d && kP w.a && kP w.b && kU w.c && mz w 23 0
def pbin (f : Mask → Mask → Mask) (p g : Nat) (w : InsnWord) (s : State) : Out :=
  issue p g w 1 pbinLegal (fun i _ =>
    .reg (pSetIn i.gr i.w.d.toNat i.part (f (pGet i.gr i.w.a.toNat) (pGet i.gr i.w.b.toNat)))) s

/-- PAND, POR, PXOR -/
def execPand := pbin (· &&& ·)
def execPor := pbin (· ||| ·)
def execPxor := pbin (· ^^^ ·)

/-- PNOT -/
def pnotLegal (_ : Group) (w : InsnWord) : Bool := kP w.d && kP w.a && kU w.b && kU w.c && mz w 23 0
def execPnot (p g : Nat) (w : InsnWord) (s : State) : Out :=
  issue p g w 1 pnotLegal (fun i _ => .reg (pSetIn i.gr i.w.d.toNat i.part (~~~ pGet i.gr i.w.a.toNat))) s

/-- PMOVS: bit t of s[a] into p[d] of thread t. -/
def pmovsLegal (_ : Group) (w : InsnWord) : Bool := kP w.d && kS w.a && kU w.b && kU w.c && mz w 23 0
def execPmovs (p g : Nat) (w : InsnWord) (s : State) : Out :=
  issue p g w 1 pmovsLegal (fun i _ =>
    .reg (pSetIn i.gr i.w.d.toNat i.part ((sGet i.gr i.w.a.toNat).setWidth 32))) s

end Sys2Proof.Machine
end

