-- ==== Sys2Proof/Machine/Special.lean ====
section
/-! DEFINITION. Special functions (Table 05-19, R165). The exact value is taken to more than 60 bits in integer
arithmetic; the result is the free value `Config.special` where that lies within the row's bound, and the nearest
value of the format otherwise. Values at special operands, overflow and underflow are as the table has them. -/
namespace Sys2Proof.Machine

/-- Fraction bits of the working values, and pi and ln 2 with that many. -/
def spBits : Nat := 256
def spPi : Nat := 0x3243f6a8885a308d313198a2e03707344a4093822299f31d0082efa98ec4e6c89
def spLn2 : Nat := 0xb17217f7d1cf79abc9e3b39803f2f6af40f343267298b62d8a0d175b8baafa2b

/-- Product of two working values. -/
def spMul (a b : Nat) : Nat := (a * b) >>> spBits
/-- m 2^e as a working value, cut below 2^-256. -/
def spOf (m : Nat) (e : Int) : Nat :=
  if 0 ≤ e + spBits then m <<< (e + spBits).toNat else m >>> (-(e + spBits)).toNat

/-- Sum of the terms t^k / k! from the given term on (`n` of them). -/
def expSum (t : Nat) : Nat → Nat → Nat → Nat
  | 0, _, _ => 0
  | n + 1, k, term => term + expSum t n (k + 1) (spMul term t / (k + 1))
/-- exp t for a working value t below 1. -/
def spExp (t : Nat) : Nat := expSum t 64 0 (1 <<< spBits)

/-- Alternating sum of t^(2k+1) / (2k+1)!. -/
def sinSum (t2 : Nat) : Nat → Nat → Nat → Int
  | 0, _, _ => 0
  | n + 1, k, term => (term : Int) - sinSum t2 n (k + 1) (spMul term t2 / ((2 * k + 2) * (2 * k + 3)))
/-- sin t for a working value t up to pi / 2. -/
def spSin (t : Nat) : Nat := (sinSum (spMul t t) 40 0 t).toNat

/-- `n` fraction bits of log2 u for a working value u in [1, 2). -/
def logBits : Nat → Nat → Nat → Nat
  | 0, _, acc => acc
  | n + 1, u, acc =>
    let q := spMul u u
    if q ≥ 2 <<< spBits then logBits n (q >>> 1) (2 * acc + 1) else logBits n q (2 * acc)

/-- The exact result before rounding: zero of a sign, or (-1)^s m 2^e with m > 0; or it lies beyond every finite value or
below every normal one. -/
inductive Exact where
  | val (s : Bool) (m : Nat) (e : Int)
  | ovr (s : Bool)
  | under (s : Bool)
deriving DecidableEq, Repr

/-- A working value with a binary exponent. -/
def Exact.ofWork (s : Bool) (y : Nat) (e : Int) : Exact := if y = 0 then .under s else .val s y (e - spBits)

/-- Whether a candidate lies within `ulps` units in the last place, or within 2^a where that is larger, of the exact value;
a result is normal, or a zero of the exact sign. -/
def withinBound (f : Fmt) (ulps : Nat) (a : Option Int) (s : Bool) (m : Nat) (e : Int) (cand : Nat) : Bool :=
  match decodeF f cand with
  | .fin cs cm ce =>
    let lg := floorLog2 m e
    let w := minI (minI e ce) (minI (lg - f.fb) (a.getD 0))
    let dist := (atWeight s m e w - atWeight cs cm ce w).natAbs
    let ulp := ulps * 2 ^ (lg - f.fb - w).toNat
    let abs := match a with | some k => 2 ^ (k - w).toNat | none => 0
    decide (cand < 2 ^ f.width) && (if cm = 0 then cs == s else decide (2 ^ f.fb ≤ cm)) && (decide (dist ≤ ulp) || decide (dist ≤ abs))
  | _ => false

/-- The result for an exact value (R165). -/
def specialResult (f : Fmt) (ulps : Nat) (a : Option Int) (x : Exact) (cand : Nat) : Nat × Flags :=
  match x with
  | .ovr s => (encInf f s, fOVF)
  | .under s => (signBit f s, 0)
  | .val s m e =>
    if floorLog2 m e < f.emin + f.fb then (signBit f s, 0)
    else
      match decodeF f (encMax f false) with
      | .fin _ mm me =>
        if magLess mm me m e then (encInf f s, fOVF)
        else if withinBound f ulps a s m e cand then (cand, 0)
        else ((roundF f .even false s m e false).1, 0)
      | _ => (signBit f s, 0)

/-- 1 / (m 2^e) -/
def rcpExact (s : Bool) (m : Nat) (e : Int) : Exact := .ofWork s ((1 <<< (spBits + 64)) / m) (-e - 64)
/-- 1 / sqrt (m 2^e) -/
def rsqExact (m : Nat) (e : Int) : Exact :=
  let (m, e) := if e % 2 = 0 then (m, e) else (2 * m, e - 1)
  .ofWork false (isqrt ((1 <<< (2 * (spBits + 64))) / m)) (-(e / 2) - 64)
/-- 2 ^ ((-1)^s m 2^e) for a format -/
def exp2Exact (f : Fmt) (s : Bool) (m : Nat) (e : Int) : Exact :=
  if m ≠ 0 && floorLog2 m e ≥ 16 then (if s then .under false else .ovr false)
  else
    let x : Int := if s then -(spOf m e : Int) else spOf m e
    let n := x / (1 <<< spBits : Nat)
    let fr := (x % (1 <<< spBits : Nat)).toNat
    if n > f.bias then .ovr false else .ofWork false (spExp (spMul fr spLn2)) n
/-- log2 (m 2^e), m > 0 -/
def log2Exact (m : Nat) (e : Int) : Exact :=
  let lg := Nat.log2 m
  let n : Int := e + lg
  let v : Int := n * 2 ^ 96 + logBits 96 (spOf m (-lg)) 0
  if v = 0 then .under false else .val (v < 0) v.natAbs (-96)
/-- sin (pi r) for r = x / 2^256 below 2; an integer r is an exact zero. -/
def sinpiExact (s : Bool) (r : Nat) : Exact :=
  let one := 1 <<< spBits
  let s' := s != decide (r ≥ one)
  let r1 := r % one
  let r2 := if 2 * r1 > one then one - r1 else r1
  .ofWork s' (spSin (spMul r2 spPi)) 0
/-- tanh (m 2^e), m > 0 -/
def tanhExact (s : Bool) (m : Nat) (e : Int) : Exact :=
  let one := 1 <<< spBits
  let q := if floorLog2 m e ≥ 6 then 1
    else
      let z := (2 * spOf m e) <<< spBits
      let x : Int := -((z / spLn2 : Nat) : Int)
      let n := x / (one : Nat)
      let fr := (x % (one : Nat)).toNat
      spExp (spMul fr spLn2) >>> (-n).toNat
  .ofWork s (((one - q) <<< spBits) / (one + q)) 0

/-- A special function of one operand (Table 05-19): `fn` is the low byte of the opcode. -/
def special (fn : Nat) (f : Fmt) (x : Nat) : Nat × Flags :=
  let cand := Config.special fn f.width x
  let ulps := if f.eb = 8 ∧ 0x92 ≤ fn then 2 else 1
  let wide := f.eb == 8
  match firstNan f [x] with
  | some r => r
  | none => match fn, decodeF f x with
    | 0x90, .inf s => (signBit f s, 0)
    | 0x90, .fin s m e => if m = 0 then (encInf f s, fDZ) else specialResult f ulps none (rcpExact s m e) cand
    | 0x91, .inf s => if s then invalid f else (0, 0)
    | 0x91, .fin s m e =>
      if m = 0 then (encInf f s, fDZ) else if s then invalid f else specialResult f ulps none (rsqExact m e) cand
    | 0x92, .inf s => (if s then 0 else encInf f false, 0)
    | 0x92, .fin s m e => specialResult f ulps none (exp2Exact f s m e) cand
    -- log2 of plus infinity: the table states no result; the value is free
    | 0x93, .inf s => if s then invalid f else (cand % 2 ^ f.width, 0)
    | 0x93, .fin s m e =>
      if m = 0 then (encInf f true, fDZ)
      else if s then invalid f
      else if log2Exact m e = .under false then (0, 0)
      else
        let near := !magLess m e 1 (-1) && !magLess 2 0 m e
        specialResult f ulps (if wide && near then some (-22) else none) (log2Exact m e) cand
    | 0x96, .inf s => (signBit f s + f.bias.toNat * 2 ^ f.fb, 0)
    | 0x96, .fin s m e =>
      if m = 0 then (x, 0) else specialResult f ulps (if wide then some (-23) else none) (tanhExact s m e) cand
    | 0x94, .fin s m e =>
      let r := spOf m e % (2 <<< spBits)
      if r % (1 <<< spBits) = 0 then (signBit f s, 0)
      else specialResult f ulps (if wide then some (-23) else none) (sinpiExact s r) cand
    | 0x95, .fin _ m e =>
      let r := (spOf m e + (1 <<< (spBits - 1))) % (2 <<< spBits)
      if r % (1 <<< spBits) = 0 then (0, 0)
      else specialResult f ulps (if wide then some (-23) else none) (sinpiExact false r) cand
    | _, _ => invalid f

/-- Every MOD field but TYPE is zero. -/
def spLegal (g : Group) (w : InsnWord) : Bool := vf1Legal false false g w
def spBody (fn : Nat) : Iss → State → Eff :=
  elementwise fun i t e => special fn (typeFmt (mTYPE i.w)) (aElem i.gr i.w t e)

def execVrcp (p g : Nat) (w : InsnWord) (s : State) : Out := issue p g w 0 spLegal (spBody 0x90) s
def execVrsq (p g : Nat) (w : InsnWord) (s : State) : Out := issue p g w 0 spLegal (spBody 0x91) s
def execVexp2 (p g : Nat) (w : InsnWord) (s : State) : Out := issue p g w 0 spLegal (spBody 0x92) s
def execVlog2 (p g : Nat) (w : InsnWord) (s : State) : Out := issue p g w 0 spLegal (spBody 0x93) s
def execVsinpi (p g : Nat) (w : InsnWord) (s : State) : Out := issue p g w 0 spLegal (spBody 0x94) s
def execVcospi (p g : Nat) (w : InsnWord) (s : State) : Out := issue p g w 0 spLegal (spBody 0x95) s
def execVtanh (p g : Nat) (w : InsnWord) (s : State) : Out := issue p g w 0 spLegal (spBody 0x96) s

end Sys2Proof.Machine
end

