-- ==== Sys2Proof/Machine/Dispatch.lean ====
section
/-! DEFINITION. The effect of a command on everything but the queue: one arm per constructor, each a call of its meaning. -/
namespace Sys2Proof.Machine

/-- The effect of command `i` in state `s`. -/
def exec (i : Instr) (s : State) : Host.Outcome State Fault Refusal :=
  match i with
  | .nop p g w => Sys2Proof.Machine.execNop p g w s
  | .bra p g w => Sys2Proof.Machine.execBra p g w s
  | .brr p g w => Sys2Proof.Machine.execBrr p g w s
  | .call p g w => Sys2Proof.Machine.execCall p g w s
  | .exit p g w => Sys2Proof.Machine.execExit p g w s
  | .trap p g w => Sys2Proof.Machine.execTrap p g w s
  | .cvgSet p g w => Sys2Proof.Machine.execCvgSet p g w s
  | .cvgWait p g w => Sys2Proof.Machine.execCvgWait p g w s
  | .sadd p g w => Sys2Proof.Machine.execSadd p g w s
  | .ssub p g w => Sys2Proof.Machine.execSsub p g w s
  | .smul p g w => Sys2Proof.Machine.execSmul p g w s
  | .smulhs p g w => Sys2Proof.Machine.execSmulhs p g w s
  | .smulhu p g w => Sys2Proof.Machine.execSmulhu p g w s
  | .sdivs p g w => Sys2Proof.Machine.execSdivs p g w s
  | .sdivu p g w => Sys2Proof.Machine.execSdivu p g w s
  | .srems p g w => Sys2Proof.Machine.execSrems p g w s
  | .sremu p g w => Sys2Proof.Machine.execSremu p g w s
  | .sand p g w => Sys2Proof.Machine.execSand p g w s
  | .sor p g w => Sys2Proof.Machine.execSor p g w s
  | .sxor p g w => Sys2Proof.Machine.execSxor p g w s
  | .sshl p g w => Sys2Proof.Machine.execSshl p g w s
  | .sshr p g w => Sys2Proof.Machine.execSshr p g w s
  | .ssra p g w => Sys2Proof.Machine.execSsra p g w s
  | .smins p g w => Sys2Proof.Machine.execSmins p g w s
  | .smaxs p g w => Sys2Proof.Machine.execSmaxs p g w s
  | .sminu p g w => Sys2Proof.Machine.execSminu p g w s
  | .smaxu p g w => Sys2Proof.Machine.execSmaxu p g w s
  | .spopc p g w => Sys2Proof.Machine.execSpopc p g w s
  | .sclz p g w => Sys2Proof.Machine.execSclz p g w s
  | .scmp p g w => Sys2Proof.Machine.execScmp p g w s
  | .smovi p g w => Sys2Proof.Machine.execSmovi p g w s
  | .scati p g w => Sys2Proof.Machine.execScati p g w s
  | .srd p g w => Sys2Proof.Machine.execSrd p g w s
  | .sfrm p g w => Sys2Proof.Machine.execSfrm p g w s
  | .sballot p g w => Sys2Proof.Machine.execSballot p g w s
  | .pand p g w => Sys2Proof.Machine.execPand p g w s
  | .por p g w => Sys2Proof.Machine.execPor p g w s
  | .pxor p g w => Sys2Proof.Machine.execPxor p g w s
  | .pnot p g w => Sys2Proof.Machine.execPnot p g w s
  | .pmovs p g w => Sys2Proof.Machine.execPmovs p g w s
  | .vadd p g w => Sys2Proof.Machine.execVadd p g w s
  | .vsub p g w => Sys2Proof.Machine.execVsub p g w s
  | .vmul p g w => Sys2Proof.Machine.execVmul p g w s
  | .vmulh p g w => Sys2Proof.Machine.execVmulh p g w s
  | .vand p g w => Sys2Proof.Machine.execVand p g w s
  | .vor p g w => Sys2Proof.Machine.execVor p g w s
  | .vxor p g w => Sys2Proof.Machine.execVxor p g w s
  | .vshl p g w => Sys2Proof.Machine.execVshl p g w s
  | .vshr p g w => Sys2Proof.Machine.execVshr p g w s
  | .vsra p g w => Sys2Proof.Machine.execVsra p g w s
  | .vmin p g w => Sys2Proof.Machine.execVmin p g w s
  | .vmax p g w => Sys2Proof.Machine.execVmax p g w s
  | .vabs p g w => Sys2Proof.Machine.execVabs p g w s
  | .vcmp p g w => Sys2Proof.Machine.execVcmp p g w s
  | .vsel p g w => Sys2Proof.Machine.execVsel p g w s
  | .vmov p g w => Sys2Proof.Machine.execVmov p g w s
  | .vshfl p g w => Sys2Proof.Machine.execVshfl p g w s
  | .vext p g w => Sys2Proof.Machine.execVext p g w s
  | .vflg p g w => Sys2Proof.Machine.execVflg p g w s
  | .vflgc p g w => Sys2Proof.Machine.execVflgc p g w s
  | .vfadd p g w => Sys2Proof.Machine.execVfadd p g w s
  | .vfsub p g w => Sys2Proof.Machine.execVfsub p g w s
  | .vfmul p g w => Sys2Proof.Machine.execVfmul p g w s
  | .vfdiv p g w => Sys2Proof.Machine.execVfdiv p g w s
  | .vfma p g w => Sys2Proof.Machine.execVfma p g w s
  | .vfms p g w => Sys2Proof.Machine.execVfms p g w s
  | .vfnma p g w => Sys2Proof.Machine.execVfnma p g w s
  | .vfsqrt p g w => Sys2Proof.Machine.execVfsqrt p g w s
  | .vfrem p g w => Sys2Proof.Machine.execVfrem p g w s
  | .vfmin p g w => Sys2Proof.Machine.execVfmin p g w s
  | .vfmax p g w => Sys2Proof.Machine.execVfmax p g w s
  | .vfrint p g w => Sys2Proof.Machine.execVfrint p g w s
  | .vfabs p g w => Sys2Proof.Machine.execVfabs p g w s
  | .vfneg p g w => Sys2Proof.Machine.execVfneg p g w s
  | .vfcpys p g w => Sys2Proof.Machine.execVfcpys p g w s
  | .vfclass p g w => Sys2Proof.Machine.execVfclass p g w s
  | .vfcmp p g w => Sys2Proof.Machine.execVfcmp p g w s
  | .vcvt p g w => Sys2Proof.Machine.execVcvt p g w s
  | .vpk4 p g w => Sys2Proof.Machine.execVpk4 p g w s
  | .vupk4 p g w => Sys2Proof.Machine.execVupk4 p g w s
  | .vrcp p g w => Sys2Proof.Machine.execVrcp p g w s
  | .vrsq p g w => Sys2Proof.Machine.execVrsq p g w s
  | .vexp2 p g w => Sys2Proof.Machine.execVexp2 p g w s
  | .vlog2 p g w => Sys2Proof.Machine.execVlog2 p g w s
  | .vsinpi p g w => Sys2Proof.Machine.execVsinpi p g w s
  | .vcospi p g w => Sys2Proof.Machine.execVcospi p g w s
  | .vtanh p g w => Sys2Proof.Machine.execVtanh p g w s
  | .vld p g w => Sys2Proof.Machine.execVld p g w s
  | .vst p g w => Sys2Proof.Machine.execVst p g w s
  | .vatom p g w => Sys2Proof.Machine.execVatom p g w s
  | .sld p g w => Sys2Proof.Machine.execSld p g w s
  | .sst p g w => Sys2Proof.Machine.execSst p g w s
  | .fence p g w => Sys2Proof.Machine.execFence p g w s
  | .mldb p g w => Sys2Proof.Machine.execMldb p g w s
  | .mma p g w => Sys2Proof.Machine.execMma p g w s
  | .mmv p g w => Sys2Proof.Machine.execMmv p g w s
  | .mew p g w => Sys2Proof.Machine.execMew p g w s
  | .mdrn p g w => Sys2Proof.Machine.execMdrn p g w s
  | .mflg p g w => Sys2Proof.Machine.execMflg p g w s
  | .matrixStart p k => Sys2Proof.Machine.execMatrixStart p k s
  | .matrixCommit p k => Sys2Proof.Machine.execMatrixCommit p k s
  | .matrixCheck p k v => Sys2Proof.Machine.execMatrixCheck p k v s
  | .matrixComplete p k => Sys2Proof.Machine.execMatrixComplete p k s
  | .strq p g w => Sys2Proof.Machine.execStrq p g w s
  | .strw p g w => Sys2Proof.Machine.execStrw p g w s
  | .strs p g w => Sys2Proof.Machine.execStrs p g w s
  | .cwait p g w => Sys2Proof.Machine.execCwait p g w s
  | .bar p g w => Sys2Proof.Machine.execBar p g w s
  | .sema p g w => Sys2Proof.Machine.execSema p g w s
  | .semr p g w => Sys2Proof.Machine.execSemr p g w s
  | .fsig p g w => Sys2Proof.Machine.execFsig p g w s
  | .fwait p g w => Sys2Proof.Machine.execFwait p g w s
  | .waitTimeOut p g => Sys2Proof.Machine.execWaitTimeOut p g s
  | .semaShortExpiry n => Sys2Proof.Machine.execSemaShortExpiry n s
  | .groupLaunch p => Sys2Proof.Machine.execGroupLaunch p s
  | .ageBoost p g cls => Sys2Proof.Machine.execAgeBoost p g cls s
  | .forwardProgressGrant p g => Sys2Proof.Machine.execForwardProgressGrant p g s
  | .icacheFill p g => Sys2Proof.Machine.execIcacheFill p g s
  | .nearCacheFill p line => Sys2Proof.Machine.execNearCacheFill p line s
  | .mergeBufferDrain p err => Sys2Proof.Machine.execMergeBufferDrain p err s
  | .mergeBufferAck p => Sys2Proof.Machine.execMergeBufferAck p s
  | .pageWalk p g => Sys2Proof.Machine.execPageWalk p g s
  | .tileStart p e => Sys2Proof.Machine.execTileStart p e s
  | .tileLanded p e => Sys2Proof.Machine.execTileLanded p e s
  | .translationPrefetch p e => Sys2Proof.Machine.execTranslationPrefetch p e s
  | .lsScrub p hits => Sys2Proof.Machine.execLsScrub p hits s
  | .memWindow c v => Sys2Proof.Machine.execMemWindow c v s
  | .memPatrol c pc err => Sys2Proof.Machine.execMemPatrol c pc err s
  | .hbmRead line rq err => Sys2Proof.Machine.execHbmRead line rq err s
  | .sliceLookup line part v => Sys2Proof.Machine.execSliceLookup line part v s
  | .evictionDrain s0 k => Sys2Proof.Machine.execEvictionDrain s0 k s
  | .sliceIdle s0 => Sys2Proof.Machine.execSliceIdle s0 s
  | .flush s0 ways => Sys2Proof.Machine.execFlush s0 ways s
  | .flushEnd s0 => Sys2Proof.Machine.execFlushEnd s0 s
  | .ctxTableWrite tag => Sys2Proof.Machine.execCtxTableWrite tag s
  | .ctxTableRead tag => Sys2Proof.Machine.execCtxTableRead tag s
  | .tagInvalidation tag => Sys2Proof.Machine.execTagInvalidation tag s
  | .invalidationComplete => Sys2Proof.Machine.execInvalidationComplete s
  | .rangeCacheFill unit tag va => Sys2Proof.Machine.execRangeCacheFill unit tag va s
  | .inboundAccess a => Sys2Proof.Machine.execInboundAccess a s
  | .hostCompletion vi addr status data => Sys2Proof.Machine.execHostCompletion vi addr status data s
  | .queTailWrite fn q v => Sys2Proof.Machine.execQueTailWrite fn q v s
  | .packetFetch q => Sys2Proof.Machine.execPacketFetch q s
  | .marker j => Sys2Proof.Machine.execMarker j s
  | .kernel j => Sys2Proof.Machine.execKernel j s
  | .draw j => Sys2Proof.Machine.execDraw j s
  | .transfer j => Sys2Proof.Machine.execTransfer j s
  | .graph j => Sys2Proof.Machine.execGraph j s
  | .prefetch j => Sys2Proof.Machine.execPrefetch j s
  | .jobStart part => Sys2Proof.Machine.execJobStart part s
  | .jobComplete j => Sys2Proof.Machine.execJobComplete j s
  | .ctxCreate vi => Sys2Proof.Machine.execCtxCreate vi s
  | .ctxDestroy vi => Sys2Proof.Machine.execCtxDestroy vi s
  | .queueCreate vi => Sys2Proof.Machine.execQueueCreate vi s
  | .queueDestroy vi => Sys2Proof.Machine.execQueueDestroy vi s
  | .grant vi => Sys2Proof.Machine.execGrant vi s
  | .revoke vi => Sys2Proof.Machine.execRevoke vi s
  | .mapRange vi => Sys2Proof.Machine.execMapRange vi s
  | .unmapRange vi => Sys2Proof.Machine.execUnmapRange vi s
  | .invalidate vi => Sys2Proof.Machine.execInvalidate vi s
  | .fenceAlloc vi => Sys2Proof.Machine.execFenceAlloc vi s
  | .fenceFree vi => Sys2Proof.Machine.execFenceFree vi s
  | .fenceExport vi => Sys2Proof.Machine.execFenceExport vi s
  | .fenceImport vi => Sys2Proof.Machine.execFenceImport vi s
  | .fenceReset vi => Sys2Proof.Machine.execFenceReset vi s
  | .eventArm vi => Sys2Proof.Machine.execEventArm vi s
  | .semaAlloc vi => Sys2Proof.Machine.execSemaAlloc vi s
  | .semaFree vi => Sys2Proof.Machine.execSemaFree vi s
  | .advise vi => Sys2Proof.Machine.execAdvise vi s
  | .windowOpen vi => Sys2Proof.Machine.execWindowOpen vi s
  | .windowClose vi => Sys2Proof.Machine.execWindowClose vi s
  | .kill vi => Sys2Proof.Machine.execKill vi s
  | .viConfig vi => Sys2Proof.Machine.execViConfig vi s
  | .viDisable vi => Sys2Proof.Machine.execViDisable vi s
  | .viReset vi => Sys2Proof.Machine.execViReset vi s
  | .viDrainExpiry vi => Sys2Proof.Machine.execViDrainExpiry vi s
  | .viResetAck vi => Sys2Proof.Machine.execViResetAck vi s
  | .functionLevelReset vi => Sys2Proof.Machine.execFunctionLevelReset vi s
  | .vfEnableClear => Sys2Proof.Machine.execVfEnableClear s
  | .graphLoad vi => Sys2Proof.Machine.execGraphLoad vi s
  | .graphStart vi => Sys2Proof.Machine.execGraphStart vi s
  | .graphStop vi => Sys2Proof.Machine.execGraphStop vi s
  | .fenceUpdate u => Sys2Proof.Machine.execFenceUpdate u s
  | .sourceBind path v => Sys2Proof.Machine.execSourceBind path v s
  | .softPositionSet path v => Sys2Proof.Machine.execSoftPositionSet path v s
  | .triggerArm path v => Sys2Proof.Machine.execTriggerArm path v s
  | .triggerDisarm path v => Sys2Proof.Machine.execTriggerDisarm path v s
  | .launch t => Sys2Proof.Machine.execLaunch t s
  | .release t => Sys2Proof.Machine.execRelease t s
  | .event t => Sys2Proof.Machine.execEvent t s
  | .deadline t => Sys2Proof.Machine.execDeadline t s
  | .deadlineCheck k => Sys2Proof.Machine.execDeadlineCheck k s
  | .watchdog j => Sys2Proof.Machine.execWatchdog j s
  | .sourceStopped src => Sys2Proof.Machine.execSourceStopped src s
  | .preemptionRequest part => Sys2Proof.Machine.execPreemptionRequest part s
  | .preemptionSwitch j => Sys2Proof.Machine.execPreemptionSwitch j s
  | .jobRestore j => Sys2Proof.Machine.execJobRestore j s
  | .plannedMove L spare => Sys2Proof.Machine.execPlannedMove L spare s
  | .unplannedSubstitution L => Sys2Proof.Machine.execUnplannedSubstitution L s
  | .drawSetup j => Sys2Proof.Machine.execDrawSetup j s
  | .poolPoll j => Sys2Proof.Machine.execPoolPoll j s
  | .binPhaseStart j => Sys2Proof.Machine.execBinPhaseStart j s
  | .binStart p => Sys2Proof.Machine.execBinStart p s
  | .fragmentGroup p frags => Sys2Proof.Machine.execFragmentGroup p frags s
  | .fragmentRetire p => Sys2Proof.Machine.execFragmentRetire p s
  | .binStore p => Sys2Proof.Machine.execBinStore p s
  | .channelEnable path page v => Sys2Proof.Machine.execChannelEnable path page v s
  | .channelStop path page => Sys2Proof.Machine.execChannelStop path page s
  | .st2110Packet m => Sys2Proof.Machine.execSt2110Packet m s
  | .csi2FrameStart rx vc frame => Sys2Proof.Machine.execCsi2FrameStart rx vc frame s
  | .csi2LongPacket rx vc dt hdr crcBad data => Sys2Proof.Machine.execCsi2LongPacket rx vc dt hdr crcBad data s
  | .csi2FrameEnd rx vc => Sys2Proof.Machine.execCsi2FrameEnd rx vc s
  | .aes67Packet m => Sys2Proof.Machine.execAes67Packet m s
  | .tdmFrameSync port samples => Sys2Proof.Machine.execTdmFrameSync port samples s
  | .ancillaryPacket m => Sys2Proof.Machine.execAncillaryPacket m s
  | .videoOutFrame page ch => Sys2Proof.Machine.execVideoOutFrame page ch s
  | .audioOutSend page ch => Sys2Proof.Machine.execAudioOutSend page ch s
  | .ancillaryOutSend page ch => Sys2Proof.Machine.execAncillaryOutSend page ch s
  | .ptpSync offset delay => Sys2Proof.Machine.execPtpSync offset delay s
  | .ptpSyncTimeout => Sys2Proof.Machine.execPtpSyncTimeout s
  | .pipeEnable path n v => Sys2Proof.Machine.execPipeEnable path n v s
  | .pipeDisable path n => Sys2Proof.Machine.execPipeDisable path n s
  | .dpLinkTraining n rate lanes => Sys2Proof.Machine.execDpLinkTraining n rate lanes s
  | .hotPlugLoss n => Sys2Proof.Machine.execHotPlugLoss n s
  | .descriptorFetch n => Sys2Proof.Machine.execDescriptorFetch n s
  | .frameDescriptorApply n => Sys2Proof.Machine.execFrameDescriptorApply n s
  | .writebackReady n => Sys2Proof.Machine.execWritebackReady n s
  | .cprRingEnable path e v => Sys2Proof.Machine.execCprRingEnable path e v s
  | .cprPoll e => Sys2Proof.Machine.execCprPoll e s
  | .compressStream e => Sys2Proof.Machine.execCompressStream e s
  | .decompressStream e => Sys2Proof.Machine.execDecompressStream e s
  | .compressSurface e => Sys2Proof.Machine.execCompressSurface e s
  | .decompressSurface e => Sys2Proof.Machine.execDecompressSurface e s
  | .cprComplete e => Sys2Proof.Machine.execCprComplete e s
  | .flitReceive link f => Sys2Proof.Machine.execFlitReceive link f s
  | .flitNak link seq => Sys2Proof.Machine.execFlitNak link seq s
  | .linkRetrain link good => Sys2Proof.Machine.execLinkRetrain link good s
  | .linkDown link => Sys2Proof.Machine.execLinkDown link s
  | .admission link x => Sys2Proof.Machine.execAdmission link x s
  | .admissionRetry link => Sys2Proof.Machine.execAdmissionRetry link s
  | .memberTable link entries => Sys2Proof.Machine.execMemberTable link entries s
  | .memberExpiry id => Sys2Proof.Machine.execMemberExpiry id s
  | .remoteRequest link a => Sys2Proof.Machine.execRemoteRequest link a s
  | .remoteResponse link a => Sys2Proof.Machine.execRemoteResponse link a s
  | .remoteTimeout tag => Sys2Proof.Machine.execRemoteTimeout tag s
  | .wakePatternSend link => Sys2Proof.Machine.execWakePatternSend link s
  | .wakePatternDetect link => Sys2Proof.Machine.execWakePatternDetect link s
  | .domainRun v answers => Sys2Proof.Machine.execDomainRun v answers s
  | .domainIdle v answers => Sys2Proof.Machine.execDomainIdle v answers s
  | .domainSleep v answers => Sys2Proof.Machine.execDomainSleep v answers s
  | .domainDeepSleep v answers test => Sys2Proof.Machine.execDomainDeepSleep v answers test s
  | .entryComplete d => Sys2Proof.Machine.execEntryComplete d s
  | .entryAbort d reason => Sys2Proof.Machine.execEntryAbort d reason s
  | .domainWake d => Sys2Proof.Machine.execDomainWake d s
  | .wakeN => Sys2Proof.Machine.execWakeN s
  | .timerWake => Sys2Proof.Machine.execTimerWake s
  | .pcieL1Exit => Sys2Proof.Machine.execPcieL1Exit s
  | .deviceOff => Sys2Proof.Machine.execDeviceOff s
  | .opChange d op => Sys2Proof.Machine.execOpChange d op s
  | .railCommand acked => Sys2Proof.Machine.execRailCommand acked s
  | .railSettled level => Sys2Proof.Machine.execRailSettled level s
  | .powerMeasure m => Sys2Proof.Machine.execPowerMeasure m s
  | .profileChange path v => Sys2Proof.Machine.execProfileChange path v s
  | .powerFail => Sys2Proof.Machine.execPowerFail s
  | .powerRestore => Sys2Proof.Machine.execPowerRestore s
  | .thermalSample sensor max aon => Sys2Proof.Machine.execThermalSample sensor max aon s
  | .thermalRestart => Sys2Proof.Machine.execThermalRestart s
  | .tmrScrub upsets => Sys2Proof.Machine.execTmrScrub upsets s
  | .strikeExpiry p => Sys2Proof.Machine.execStrikeExpiry p s
  | .rotationStep => Sys2Proof.Machine.execRotationStep s
  | .pairMismatch pair => Sys2Proof.Machine.execPairMismatch pair s
  | .pairInjection pair agreed => Sys2Proof.Machine.execPairInjection pair agreed s
  | .pairTestEnd pair passed => Sys2Proof.Machine.execPairTestEnd pair passed s
  | .journalRecord r => Sys2Proof.Machine.execJournalRecord r s
  | .healthStoreCommit => Sys2Proof.Machine.execHealthStoreCommit s
  | .journalToken => Sys2Proof.Machine.execJournalToken s
  | .stateCopyRewrite => Sys2Proof.Machine.execStateCopyRewrite s
  | .bootStart b => Sys2Proof.Machine.execBootStart b s
  | .bootWatchdog => Sys2Proof.Machine.execBootWatchdog s
  | .failsClear => Sys2Proof.Machine.execFailsClear s
  | .fwStage vi => Sys2Proof.Machine.execFwStage vi s
  | .fwActivate vi => Sys2Proof.Machine.execFwActivate vi s
  | .rollFailure => Sys2Proof.Machine.execRollFailure s
  | .fwCommit vi => Sys2Proof.Machine.execFwCommit vi s
  | .devReset vi => Sys2Proof.Machine.execDevReset vi s
  | .grCommit vi => Sys2Proof.Machine.execGrCommit vi s
  | .debugRequest path v => Sys2Proof.Machine.execDebugRequest path v s
  | .debugCheck path v => Sys2Proof.Machine.execDebugCheck path v s
  | .debugEnd path v => Sys2Proof.Machine.execDebugEnd path v s
  | .glitchTrip detector => Sys2Proof.Machine.execGlitchTrip detector s
  | .rngFail => Sys2Proof.Machine.execRngFail s
  | .mailboxCapture path page v => Sys2Proof.Machine.execMailboxCapture path page v s
  | .mailboxRead path page word => Sys2Proof.Machine.execMailboxRead path page word s
  | .rcRead path page off => Sys2Proof.Machine.execRcRead path page off s
  | .registerWrite path page off whole v => Sys2Proof.Machine.execRegisterWrite path page off whole v s
  | .pmcSnapshot path v => Sys2Proof.Machine.execPmcSnapshot path v s
  | .pmcFreeze path v => Sys2Proof.Machine.execPmcFreeze path v s
  | .pmcPreset path v => Sys2Proof.Machine.execPmcPreset path v s
  | .pmcClearAll path v => Sys2Proof.Machine.execPmcClearAll path v s
  | .pmcSet vi => Sys2Proof.Machine.execPmcSet vi s
  | .pmcRead vi => Sys2Proof.Machine.execPmcRead vi s
  | .powerUp => Sys2Proof.Machine.execPowerUp s
  | .powerUpFail step => Sys2Proof.Machine.execPowerUpFail step s
  | .powerUpRetry => Sys2Proof.Machine.execPowerUpRetry s
  | .resetN lowNs => Sys2Proof.Machine.execResetN lowNs s
  | .perstN lowNs => Sys2Proof.Machine.execPerstN lowNs s
  | .scanLine n late => Sys2Proof.Machine.execScanLine n late s
  | .ptpPositionReached src => Sys2Proof.Machine.execPtpPositionReached src s
  | .vioLinkChange page up => Sys2Proof.Machine.execVioLinkChange page up s
  | .hifLinkChange v => Sys2Proof.Machine.execHifLinkChange v s
  | .hotPlugDetect n => Sys2Proof.Machine.execHotPlugDetect n s
  | .domainExitComplete d => Sys2Proof.Machine.execDomainExitComplete d s
  | .debugLockoutExpiry => Sys2Proof.Machine.execDebugLockoutExpiry s
  | .powerLoss => Sys2Proof.Machine.execPowerLoss s
  | .vfEnableSet num => Sys2Proof.Machine.execVfEnableSet num s
  | .signedVendorRequest signed => Sys2Proof.Machine.execSignedVendorRequest signed s

end Sys2Proof.Machine
end

