-- ==== Sys2Proof/WellFormed.lean ====
section
/-! DEFINITION. Which commands are well formed: every operand that names a unit names one that the device has, and every operand of a
bounded range lies in it. -/
namespace Sys2Proof

/-- `n` lies below `top`, or at `lo` and above. -/
def below (top n : Nat) : Bool := decide (n < top)
def upFrom (lo n : Nat) : Bool := decide (lo ≤ n)

/-- A physical core, and a group slot of a core (R10, R63). -/
def coreOk (p : Nat) : Bool := below 36 p
def slotOk (g : Nat) : Bool := below 48 g

/-- A 128-byte line address, and one of HBM (R495). -/
def lineAligned (a : Nat) : Bool := a % 128 == 0
def hbmLineOk (a : Nat) : Bool := lineAligned a && below 0xC00000000 a

/-- A VIO page, and one of an Ethernet port (Table 19-10). -/
def vioOk (page : Nat) : Bool := upFrom 0x220 page && below 0x230 page
def ethOk (page : Nat) : Bool := upFrom 0x220 page && below 0x224 page

/-- The window numbers of a remote packet (R265, R266). -/
def windowsOk (a : RemotePacket) : Bool := below 16 a.win && below 16 a.srcWin

/-- A power domain (Table 16-1). -/
def domainOk (d : Nat) : Bool :=
  coreOk d || (upFrom 0x30 d && below 0x46 d) || (upFrom 0x48 d && below 0x4E d) || (upFrom 0x50 d && below 0x5A d) || d == 0x60 || d == 0x7F

/-- A command is well formed. -/
def Instr.wf (i : Instr) : Bool :=
  match i with
  | .nop p g _ => coreOk p && slotOk g
  | .bra p g _ => coreOk p && slotOk g
  | .brr p g _ => coreOk p && slotOk g
  | .call p g _ => coreOk p && slotOk g
  | .exit p g _ => coreOk p && slotOk g
  | .trap p g _ => coreOk p && slotOk g
  | .cvgSet p g _ => coreOk p && slotOk g
  | .cvgWait p g _ => coreOk p && slotOk g
  | .sadd p g _ => coreOk p && slotOk g
  | .ssub p g _ => coreOk p && slotOk g
  | .smul p g _ => coreOk p && slotOk g
  | .smulhs p g _ => coreOk p && slotOk g
  | .smulhu p g _ => coreOk p && slotOk g
  | .sdivs p g _ => coreOk p && slotOk g
  | .sdivu p g _ => coreOk p && slotOk g
  | .srems p g _ => coreOk p && slotOk g
  | .sremu p g _ => coreOk p && slotOk g
  | .sand p g _ => coreOk p && slotOk g
  | .sor p g _ => coreOk p && slotOk g
  | .sxor p g _ => coreOk p && slotOk g
  | .sshl p g _ => coreOk p && slotOk g
  | .sshr p g _ => coreOk p && slotOk g
  | .ssra p g _ => coreOk p && slotOk g
  | .smins p g _ => coreOk p && slotOk g
  | .smaxs p g _ => coreOk p && slotOk g
  | .sminu p g _ => coreOk p && slotOk g
  | .smaxu p g _ => coreOk p && slotOk g
  | .spopc p g _ => coreOk p && slotOk g
  | .sclz p g _ => coreOk p && slotOk g
  | .scmp p g _ => coreOk p && slotOk g
  | .smovi p g _ => coreOk p && slotOk g
  | .scati p g _ => coreOk p && slotOk g
  | .srd p g _ => coreOk p && slotOk g
  | .sfrm p g _ => coreOk p && slotOk g
  | .sballot p g _ => coreOk p && slotOk g
  | .pand p g _ => coreOk p && slotOk g
  | .por p g _ => coreOk p && slotOk g
  | .pxor p g _ => coreOk p && slotOk g
  | .pnot p g _ => coreOk p && slotOk g
  | .pmovs p g _ => coreOk p && slotOk g
  | .vadd p g _ => coreOk p && slotOk g
  | .vsub p g _ => coreOk p && slotOk g
  | .vmul p g _ => coreOk p && slotOk g
  | .vmulh p g _ => coreOk p && slotOk g
  | .vand p g _ => coreOk p && slotOk g
  | .vor p g _ => coreOk p && slotOk g
  | .vxor p g _ => coreOk p && slotOk g
  | .vshl p g _ => coreOk p && slotOk g
  | .vshr p g _ => coreOk p && slotOk g
  | .vsra p g _ => coreOk p && slotOk g
  | .vmin p g _ => coreOk p && slotOk g
  | .vmax p g _ => coreOk p && slotOk g
  | .vabs p g _ => coreOk p && slotOk g
  | .vcmp p g _ => coreOk p && slotOk g
  | .vsel p g _ => coreOk p && slotOk g
  | .vmov p g _ => coreOk p && slotOk g
  | .vshfl p g _ => coreOk p && slotOk g
  | .vext p g _ => coreOk p && slotOk g
  | .vflg p g _ => coreOk p && slotOk g
  | .vflgc p g _ => coreOk p && slotOk g
  | .vfadd p g _ => coreOk p && slotOk g
  | .vfsub p g _ => coreOk p && slotOk g
  | .vfmul p g _ => coreOk p && slotOk g
  | .vfdiv p g _ => coreOk p && slotOk g
  | .vfma p g _ => coreOk p && slotOk g
  | .vfms p g _ => coreOk p && slotOk g
  | .vfnma p g _ => coreOk p && slotOk g
  | .vfsqrt p g _ => coreOk p && slotOk g
  | .vfrem p g _ => coreOk p && slotOk g
  | .vfmin p g _ => coreOk p && slotOk g
  | .vfmax p g _ => coreOk p && slotOk g
  | .vfrint p g _ => coreOk p && slotOk g
  | .vfabs p g _ => coreOk p && slotOk g
  | .vfneg p g _ => coreOk p && slotOk g
  | .vfcpys p g _ => coreOk p && slotOk g
  | .vfclass p g _ => coreOk p && slotOk g
  | .vfcmp p g _ => coreOk p && slotOk g
  | .vcvt p g _ => coreOk p && slotOk g
  | .vpk4 p g _ => coreOk p && slotOk g
  | .vupk4 p g _ => coreOk p && slotOk g
  | .vrcp p g _ => coreOk p && slotOk g
  | .vrsq p g _ => coreOk p && slotOk g
  | .vexp2 p g _ => coreOk p && slotOk g
  | .vlog2 p g _ => coreOk p && slotOk g
  | .vsinpi p g _ => coreOk p && slotOk g
  | .vcospi p g _ => coreOk p && slotOk g
  | .vtanh p g _ => coreOk p && slotOk g
  | .vld p g _ => coreOk p && slotOk g
  | .vst p g _ => coreOk p && slotOk g
  | .vatom p g _ => coreOk p && slotOk g
  | .sld p g _ => coreOk p && slotOk g
  | .sst p g _ => coreOk p && slotOk g
  | .fence p g _ => coreOk p && slotOk g
  | .mldb p g _ => coreOk p && slotOk g
  | .mma p g _ => coreOk p && slotOk g
  | .mmv p g _ => coreOk p && slotOk g
  | .mew p g _ => coreOk p && slotOk g
  | .mdrn p g _ => coreOk p && slotOk g
  | .mflg p g _ => coreOk p && slotOk g
  | .matrixStart p _ => coreOk p
  | .matrixCommit p _ => coreOk p
  | .matrixCheck p _ _ => coreOk p
  | .matrixComplete p _ => coreOk p
  | .strq p g _ => coreOk p && slotOk g
  | .strw p g _ => coreOk p && slotOk g
  | .strs p g _ => coreOk p && slotOk g
  | .cwait p g _ => coreOk p && slotOk g
  | .bar p g _ => coreOk p && slotOk g
  | .sema p g _ => coreOk p && slotOk g
  | .semr p g _ => coreOk p && slotOk g
  | .fsig p g _ => coreOk p && slotOk g
  | .fwait p g _ => coreOk p && slotOk g
  | .waitTimeOut p g => coreOk p && slotOk g
  | .semaShortExpiry n => below 256 n
  | .groupLaunch p => coreOk p
  | .ageBoost p g cls => coreOk p && slotOk g && below 4 cls
  | .forwardProgressGrant p g => coreOk p && slotOk g
  | .icacheFill p g => coreOk p && slotOk g
  | .nearCacheFill p line => coreOk p && lineAligned line
  | .mergeBufferDrain p _ => coreOk p
  | .mergeBufferAck p => coreOk p
  | .pageWalk p g => coreOk p && slotOk g
  | .tileStart p e => coreOk p && below 4 e
  | .tileLanded p e => coreOk p && below 4 e
  | .translationPrefetch p e => coreOk p && below 4 e
  | .lsScrub p hits => coreOk p && hits.all fun h => below 64 h.bank
  | .memWindow c v => below 32 c && below 3 v.class0 && below 3 v.class1
  | .memPatrol c pc _ => below 32 c && below 2 pc
  | .hbmRead line rq _ => hbmLineOk line && below 64 rq
  | .sliceLookup line part _ => hbmLineOk line && below 8 part
  | .evictionDrain s k => below 16 s && below 32 k
  | .sliceIdle s => below 16 s
  | .flush s _ => below 16 s
  | .flushEnd s => below 16 s
  | .ctxTableWrite _ => true
  | .ctxTableRead _ => true
  | .tagInvalidation _ => true
  | .invalidationComplete => true
  | .rangeCacheFill unit _ _ => below 36 unit || (upFrom 0x120 unit && below 0x140 unit)
  | .inboundAccess a => windowsOk a
  | .hostCompletion vi addr _ _ => below 64 vi && addr / 0x4000000000 == 64 + vi
  | .queTailWrite fn q _ => below 64 fn && below 1024 q
  | .packetFetch q => below 1024 q
  | .marker _ => true
  | .kernel _ => true
  | .draw _ => true
  | .transfer _ => true
  | .graph _ => true
  | .prefetch _ => true
  | .jobStart part => below 8 part
  | .jobComplete _ => true
  | .ctxCreate vi => below 64 vi
  | .ctxDestroy vi => below 64 vi
  | .queueCreate vi => below 64 vi
  | .queueDestroy vi => below 64 vi
  | .grant vi => below 64 vi
  | .revoke vi => below 64 vi
  | .mapRange vi => below 64 vi
  | .unmapRange vi => below 64 vi
  | .invalidate vi => below 64 vi
  | .fenceAlloc vi => below 64 vi
  | .fenceFree vi => below 64 vi
  | .fenceExport vi => below 64 vi
  | .fenceImport vi => below 64 vi
  | .fenceReset vi => below 64 vi
  | .eventArm vi => below 64 vi
  | .semaAlloc vi => below 64 vi
  | .semaFree vi => below 64 vi
  | .advise vi => below 64 vi
  | .windowOpen vi => below 64 vi
  | .windowClose vi => below 64 vi
  | .kill vi => below 64 vi
  | .viConfig vi => below 64 vi
  | .viDisable vi => below 64 vi
  | .viReset vi => below 64 vi
  | .viDrainExpiry vi => below 64 vi
  | .viResetAck vi => below 64 vi
  | .functionLevelReset vi => below 64 vi
  | .vfEnableClear => true
  | .graphLoad vi => below 64 vi
  | .graphStart vi => below 64 vi
  | .graphStop vi => below 64 vi
  | .fenceUpdate _ => true
  | .sourceBind _ _ => true
  | .softPositionSet _ _ => true
  | .triggerArm _ _ => true
  | .triggerDisarm _ _ => true
  | .launch t => below 1024 t
  | .release t => below 1024 t
  | .event t => below 1024 t
  | .deadline t => below 1024 t
  | .deadlineCheck _ => true
  | .watchdog _ => true
  | .sourceStopped src => below 48 src
  | .preemptionRequest part => below 8 part
  | .preemptionSwitch _ => true
  | .jobRestore _ => true
  | .plannedMove L spare => below 32 L && coreOk spare
  | .unplannedSubstitution L => below 32 L
  | .drawSetup _ => true
  | .poolPoll _ => true
  | .binPhaseStart _ => true
  | .binStart p => coreOk p
  | .fragmentGroup p frags => coreOk p && below 33 frags.length
  | .fragmentRetire p => coreOk p
  | .binStore p => coreOk p
  | .channelEnable _ page _ => vioOk page
  | .channelStop _ page => vioOk page
  | .st2110Packet m => below 4 m.port
  | .csi2FrameStart rx vc frame => below 8 rx && below 16 vc && below 65536 frame
  | .csi2LongPacket rx vc dt _ _ _ => below 8 rx && below 16 vc && below 64 dt
  | .csi2FrameEnd rx vc => below 8 rx && below 16 vc
  | .aes67Packet m => below 4 m.port
  | .tdmFrameSync port _ => below 4 port
  | .ancillaryPacket m => below 4 m.port
  | .videoOutFrame page ch => ethOk page && below 32 ch
  | .audioOutSend page ch => ethOk page && below 32 ch
  | .ancillaryOutSend page ch => ethOk page && below 32 ch
  | .ptpSync _ _ => true
  | .ptpSyncTimeout => true
  | .pipeEnable _ n _ => below 4 n
  | .pipeDisable _ n => below 4 n
  | .dpLinkTraining n rate lanes => below 4 n && below 6 rate && below 3 lanes
  | .hotPlugLoss n => below 4 n
  | .descriptorFetch n => below 4 n
  | .frameDescriptorApply n => below 4 n
  | .writebackReady n => below 4 n
  | .cprRingEnable _ e _ => below 4 e
  | .cprPoll e => below 4 e
  | .compressStream e => below 4 e
  | .decompressStream e => below 4 e
  | .compressSurface e => below 4 e
  | .decompressSurface e => below 4 e
  | .cprComplete e => below 4 e
  | .flitReceive link f => below 8 link && below 4096 f.seq && below 4096 f.ack
  | .flitNak link seq => below 8 link && below 4096 seq
  | .linkRetrain link _ => below 8 link
  | .linkDown link => below 8 link
  | .admission link x => below 8 link && below 16 x.id
  | .admissionRetry link => below 8 link
  | .memberTable link _ => below 8 link
  | .memberExpiry id => below 16 id
  | .remoteRequest link a => below 8 link && windowsOk a
  | .remoteResponse link _ => below 8 link
  | .remoteTimeout _ => true
  | .wakePatternSend link => below 8 link
  | .wakePatternDetect link => below 8 link
  | .domainRun _ _ => true
  | .domainIdle _ _ => true
  | .domainSleep _ _ => true
  | .domainDeepSleep _ _ _ => true
  | .entryComplete d => domainOk d
  | .entryAbort d reason => domainOk d && upFrom 0x10 reason && below 0x13 reason
  | .domainWake d => domainOk d
  | .wakeN => true
  | .timerWake => true
  | .pcieL1Exit => true
  | .deviceOff => true
  | .opChange d op => coreOk d && below 4 op
  | .railCommand _ => true
  | .railSettled _ => true
  | .powerMeasure _ => true
  | .profileChange _ _ => true
  | .powerFail => true
  | .powerRestore => true
  | .thermalSample sensor _ _ => below 64 sensor
  | .thermalRestart => true
  | .tmrScrub upsets => upsets.all fun u => below 3 u.copy && below 0x800 u.off
  | .strikeExpiry p => coreOk p
  | .rotationStep => true
  | .pairMismatch pair => below 4 pair
  | .pairInjection pair _ => below 4 pair
  | .pairTestEnd pair _ => below 4 pair
  | .journalRecord r => below 256 r.kind && below 4 r.severity
  | .healthStoreCommit => true
  | .journalToken => true
  | .stateCopyRewrite => true
  | .bootStart _ => true
  | .bootWatchdog => true
  | .failsClear => true
  | .fwStage vi => below 64 vi
  | .fwActivate vi => below 64 vi
  | .rollFailure => true
  | .fwCommit vi => below 64 vi
  | .devReset vi => below 64 vi
  | .grCommit vi => below 64 vi
  | .debugRequest _ _ => true
  | .debugCheck _ _ => true
  | .debugEnd _ _ => true
  | .glitchTrip detector => upFrom 1 detector && below 6 detector
  | .rngFail => true
  | .mailboxCapture _ _ _ => true
  | .mailboxRead _ _ word => below 8 word
  | .rcRead _ _ off => below 0x1000 off
  | .registerWrite _ _ off _ _ => below 0x1000 off
  | .pmcSnapshot _ _ => true
  | .pmcFreeze _ _ => true
  | .pmcPreset _ _ => true
  | .pmcClearAll _ _ => true
  | .pmcSet vi => below 64 vi
  | .pmcRead vi => below 64 vi
  | .powerUp => true
  | .powerUpFail step => below 7 step
  | .powerUpRetry => true
  | .resetN _ => true
  | .perstN _ => true
  | .scanLine n _ => below 4 n
  | .ptpPositionReached src => below 48 src
  | .vioLinkChange page _ => vioOk page
  | .hifLinkChange _ => true
  | .hotPlugDetect n => below 4 n
  | .domainExitComplete d => domainOk d
  | .debugLockoutExpiry => true
  | .powerLoss => true
  | .vfEnableSet num => below 64 num
  | .signedVendorRequest _ => true

end Sys2Proof
end

