-- ==== Sys2Proof/Safety.lean ====
section
/-! DEFINITION. What the statements say of a command: that it is performed, what it writes and what it leaves as it was. -/
namespace Sys2Proof.Machine

/-- The machine answers a next state, of which `P` holds. -/
def Performs (o : Out) (P : State → Prop) : Prop := ∃ t, o = .next t ∧ P t

/-- `t` is `s` but for the performance-counter collector, the free values taken and the registers of page 6, the collector's. -/
def CountOnly (s t : State) : Prop :=
  { t with pmc := s.pmc, regs := s.regs, free := s.free } = s
  ∧ ∀ page off, page ≠ 6 → off < 0x1000 → rget t page off = rget s page off

/-- The instruction `w` of slot `g` of core `p` is about to take effect as `i` says: its group can issue, its issue set is chosen and
its word fetched (R73, R76, R148, R152), the word is legal (R147) and no scalar register of the group is found faulty (Table 03-4). -/
def Issued (s : State) (p g : Nat) (w : InsnWord) (legal : Group → InsnWord → Bool) (i : Iss) : Prop :=
  p < 36 ∧ g < 48 ∧ prepare s p g w = .go i ∧ legal i.gr w = true ∧ w.flaw ≠ .register

/-- The group's record is `x` in `t`, every other group, all of memory and every register outside page 6 are as in `s`, and the threads
of the issue set, and no others, have moved on to the next instruction. -/
def Moved (s t : State) (i : Iss) (x : Group) : Prop :=
  CountOnly (setGroup s i.p i.g x) t
  ∧ (∀ l, l < 32 → pcGet x l = if i.set.getLsbD l then i.pc + 8 else pcGet i.gr l)
  ∧ x.cb = i.gr.cb ∧ x.cvg = i.gr.cvg ∧ x.exited = i.gr.exited

/-- The instruction writes `v` into s[d], unless d is 0 or no thread participates (R67, R78), and nothing else. -/
def WritesScalar (o : Out) (s : State) (i : Iss) (d : Nat) (v : W64) : Prop :=
  Performs o fun t => ∃ x, Moved s t i x ∧ x.v = i.gr.v ∧ x.p = i.gr.p ∧ x.flags = i.gr.flags ∧ x.frm = i.gr.frm
    ∧ ∀ r, sGet x r = if r = d ∧ r ≠ 0 ∧ i.part ≠ 0 then v else sGet i.gr r

/-- The instruction writes bit l of `v` into p[d] of each participating lane l, unless d is 0 (R71, R156), and nothing else. -/
def WritesPredicate (o : Out) (s : State) (i : Iss) (d : Nat) (v : Mask) : Prop :=
  Performs o fun t => ∃ x, Moved s t i x ∧ x.v = i.gr.v ∧ x.s = i.gr.s ∧ x.flags = i.gr.flags ∧ x.frm = i.gr.frm
    ∧ ∀ r, pGet x r = if r = d ∧ r ≠ 0 then (pGet i.gr r &&& ~~~ i.part) ||| (v &&& i.part) else pGet i.gr r

/-- The instruction writes `v l` into v[d] of each participating lane l and sets the sticky flags `f l` there, and nothing else. -/
def WritesVector (o : Out) (s : State) (i : Iss) (d : Nat) (v : Nat → W64) (f : Nat → Flags) : Prop :=
  Performs o fun t => ∃ x, Moved s t i x ∧ x.s = i.gr.s ∧ x.p = i.gr.p ∧ x.frm = i.gr.frm
    ∧ (∀ r l, l < 32 → vGet x r l = if r = d ∧ i.part.getLsbD l then v l else vGet i.gr r l)
    ∧ (∀ l, l < 32 → flagsGet x l = if i.part.getLsbD l then flagsGet i.gr l ||| f l else flagsGet i.gr l)

/-- The elements 0, 1, … of a register of TYPE `ty` (Table 05-4), and the flags that they raise together. -/
def laneValue (ty : Nat) (f : Nat → Nat × Flags) : W64 := pack (typeWidth ty) ((List.range (typeCount ty)).map fun e => (f e).1)
def laneFlags (ty : Nat) (f : Nat → Nat × Flags) : Flags := allFlags ((List.range (typeCount ty)).map f)

/-- The instruction writes element e of lane l of v[d] with `f l e`, in every participating lane, and sets the flags raised. -/
def WritesElements (o : Out) (s : State) (i : Iss) (f : Nat → Nat → Nat × Flags) : Prop :=
  WritesVector o s i i.w.d.toNat (fun l => laneValue (mTYPE i.w) (f l)) (fun l => laneFlags (mTYPE i.w) (f l))

/-- The instruction writes `v l` into bit l of p[d] for each participating lane l, unless d is 0, and sets the flags `f l` there. -/
def WritesLanePredicate (o : Out) (s : State) (i : Iss) (d : Nat) (v : Nat → Bool) (f : Nat → Flags) : Prop :=
  Performs o fun t => ∃ x, Moved s t i x ∧ x.v = i.gr.v ∧ x.s = i.gr.s ∧ x.frm = i.gr.frm
    ∧ (∀ r l, l < 32 → (pGet x r).getLsbD l = if r = d ∧ r ≠ 0 ∧ i.part.getLsbD l then v l else (pGet i.gr r).getLsbD l)
    ∧ (∀ l, l < 32 → flagsGet x l = if i.part.getLsbD l then flagsGet i.gr l ||| f l else flagsGet i.gr l)

/-- The comparison writes `r l e` and sets the flags `f l e` as R158 says: every bit of element e of v[d] with PDST = 0; with PDST = 1
into p[d] the outcome of element ELEM, or with ELEM 8 whether all elements, with 9 whether any element of the lane compares true. -/
def WritesComparison (o : Out) (s : State) (i : Iss) (r : Nat → Nat → Bool) (f : Nat → Nat → Flags) : Prop :=
  let ty := mTYPE i.w
  let es := List.range (typeCount ty)
  if mPDST i.w = false then
    WritesVector o s i i.w.d.toNat (fun l => laneValue ty fun e => (if r l e then 2 ^ typeWidth ty - 1 else 0, 0))
      (fun l => laneFlags ty fun e => (0, f l e))
  else if mELEM i.w < 8 then WritesLanePredicate o s i i.w.d.toNat (fun l => r l (mELEM i.w)) (fun l => f l (mELEM i.w))
  else WritesLanePredicate o s i i.w.d.toNat (fun l => if mELEM i.w = 8 then es.all (r l) else es.any (r l))
    (fun l => laneFlags ty fun e => (0, f l e))

/-- The instruction leaves the registers of its group as they are, moves its threads on, and leaves `s` otherwise. -/
def Leaves (o : Out) (s : State) (i : Iss) : Prop :=
  Performs o fun t => ∃ x, Moved s t i x ∧ x.s = i.gr.s ∧ x.v = i.gr.v ∧ x.p = i.gr.p ∧ x.flags = i.gr.flags ∧ x.frm = i.gr.frm

/-- The group waits in block `b`, its registers and program counters as they are; its time-out of `tmo` µs runs, if `tmo` is not 0 (R190). -/
def Blocks (o : Out) (s : State) (i : Iss) (b : Block) (tmo : Nat) : Prop :=
  Performs o fun t => ∃ x, CountOnly (setGroup s i.p i.g x) t ∧ x.block = b
    ∧ x.deadline = (if tmo = 0 then none else some (s.now + tmo * 1000))
    ∧ x.s = i.gr.s ∧ x.v = i.gr.v ∧ x.p = i.gr.p ∧ x.flags = i.gr.flags ∧ x.frm = i.gr.frm ∧ x.pc = i.gr.pc ∧ x.exited = i.gr.exited

/-- Every access of the instruction passes its checks, and lane t's goes to `spot t` (R99, R166); a scalar access is that of lane 0. -/
def Passes (i : Iss) (s : State) (scalar : Bool) (perm : Perm) (spot : Nat → Spot) : Prop :=
  i.part ≠ 0 ∧ (mSPACE i.w = true ∨ 32 ≤ groupTagsFree s i.p)
  ∧ ∀ t ∈ (if scalar then [0] else lanesOf i.part),
      hostAop (if perm = .rw then mAOP i.w else 0) (look i s perm (accessVa i scalar t)) = .ok (spot t)

/-- Nothing holds up a release of the group: the buffer is empty and, for SYSTEM scope, its Spoke writes are acknowledged (R93). -/
def NothingPending (s : State) (p g : Nat) (system : Bool) : Prop :=
  (coreOf s p).merge = [] ∧ (system = true → ∀ r ∈ s.remotes, ¬ (r.core = p ∧ r.slot = g ∧ r.kind = 1))

/-- Slot g of core p takes the exception of `cause` (R99-R102): none being held, the record is held with the slot, the cause, the program
counter, the address and the threads; the group is gone, its job has ended with a fault of that cause, and its context is LOST. -/
def Excepts (o : Out) (s : State) (p g cause : Nat) (pc addr : W64) (mask : Mask) : Prop :=
  ∀ gr x c, groupOf s p g = some gr → jobOf s gr.job = some x → x.phase = .running → ctxOf s x.ctx = some c → c.state = .live →
    stageOf s x.ctx = none → infoHeld s (pgCore p) 0x110 = false →
    Performs o fun t => rget t (pgCore p) 0x110 = BitVec.ofNat 32 (2 ^ 31 + g * 2 ^ 24 + cause * 2 ^ 16)
      ∧ (coreOf t p).fltPc = pc.setWidth 48 ∧ (coreOf t p).fltAddr = addr ∧ (coreOf t p).fltMask = mask
      ∧ groupOf t p g = none ∧ ctxOf t x.ctx = some { c with state := .lost }
      ∧ ∃ y, jobOf t gr.job = some y ∧ y.words = x.words ∧ y.phase = .ended 1 (BitVec.ofNat 8 cause)

/-- The load `l` of slot g of core p, which lacks the `n` bytes at `addr` alone and waits for them with its lanes `l.addrs`, completes with
the bytes `bs`: each lane that accesses `addr` reads them, extended, and the group goes on. -/
def Completes (o : Out) (s : State) (p g : Nat) (gr : Group) (l : PendLoad) (addr : Nat) (bs : List Byte) : Prop :=
  gr.block = .load l → l.missing = [addr] → l.atomic = false → l.scalar = false → (l.addrs.map (·.1)).Nodup →
    (∀ a ∈ l.addrs, a.1 < 32) → (∀ k < mSIZE l.w, mergeByte (coreOf s p) (addr + k) = none ∧ nearByte (coreOf s p) (addr + k) = none) →
    Performs o fun t => ∃ x, groupOf t p g = some x ∧ x.block = .none ∧ x.pc = gr.pc ∧ x.s = gr.s ∧ x.p = gr.p
      ∧ ∀ a ∈ l.addrs, a.2 = addr → vGet x l.w.d.toNat a.1 = extend (mSX l.w) (mSIZE l.w) (leNat bs)

/-- The packet `pk` of `slots` slots is sent over link n: the replay buffer keeps its flit and the credits of its channel are spent (R413-R415). -/
def Sends (s t : State) (n slots : Nat) (pk : RemotePacket) : Prop :=
  let l := linkOf s n
  let u := linkOf t n
  u.replay = l.replay ++ [(l.nextSeq, pk)] ∧ u.nextSeq = (l.nextSeq + 1) % 4096 ∧ u.waiting = l.waiting ∧ u.state = l.state
  ∧ u.crReq = (if pk.vc = 0 then l.crReq - slots else l.crReq) ∧ u.crRsp = (if pk.vc = 1 then l.crRsp - slots else l.crRsp)

/-- Link n can send a packet of `slots` slots over virtual channel `vc` at once. -/
def CanSend (s : State) (n slots vc : Nat) : Prop :=
  let l := linkOf s n
  l.waiting = [] ∧ l.replay.length < 256 ∧ ctrSpent l = false ∧ slots ≤ (if vc = 0 then l.crReq else if vc = 1 then l.crRsp else l.crCtl)

/-- Fragan may perform the front command `w`, of operation code `op`, of function vi's Hub queue: no reset, disable or backlog of replies holds it
up, it is allowed to the function and in minimal mode, and no reserved bit of it is set (R302-R304, R483, R554). -/
def HubFront (s : State) (vi op : Nat) (pf : Bool) (masks : List Nat) (w : List W64) (rest : List (List W64)) : Prop :=
  vi < 64 ∧ (viOf s vi).cmds = w :: rest ∧ (viOf s vi).resetBusy = false ∧ (viOf s vi).disabled = false ∧ (viOf s vi).replies.length < 16
  ∧ bits (w.getD 0 0) 63 56 = op ∧ (s.boot.minimal = true → op = 0x30 ∨ op = 0x33) ∧ (pf = true → vi = 0) ∧ fieldsOk masks w = true

/-- The reply to a command: REQ, its status and its three result words (R302). -/
def replyWords (w : List W64) (status : Nat) (rs : List W64) : List W64 :=
  [BitVec.ofNat 64 ((cmdReq w).toNat + status * 2 ^ 32), rs.getD 0 0, rs.getD 1 0, rs.getD 2 0]

/-- The command leaves the queue of function vi, its reply joins the unread ones, and `P` holds of the state. -/
def Replies (o : Out) (s : State) (vi : Nat) (w : List W64) (rest : List (List W64)) (status : Nat) (rs : List W64) (P : State → Prop) : Prop :=
  Performs o fun t => (viOf t vi).cmds = rest ∧ (viOf t vi).replies = (viOf s vi).replies ++ [replyWords w status rs] ∧ P t

/-- A refused command changes nothing but its function's queue and replies (R304), and takes at most a free value. -/
def Refuses (o : Out) (s : State) (vi : Nat) (w : List W64) (rest : List (List W64)) (status : Nat) : Prop :=
  Replies o s vi w rest status [] fun t => { t with vis := s.vis, free := s.free } = s ∧ ∀ n, n ≠ vi → viOf t n = viOf s n

/-- `t` is the device after a reset with BOOT_CAUSE `cause` (R8, R227, R470, R541): volatile state and keys are gone, HBM reads as after power-on,
and fuses, flash, the health store's ring and state copies, the host's memory and the waiting commands are as in `s`. -/
def ResetFrom (s t : State) (cause : Nat) : Prop :=
  t.regs = [] ∧ t.contexts = [] ∧ t.queues = [] ∧ t.jobs = [] ∧ t.fences = [] ∧ t.cores = [] ∧ t.links = [] ∧ t.domains = [] ∧ t.parts = []
  ∧ t.keys = 0 ∧ t.trained = 0 ∧ t.boot.cause = cause ∧ t.boot.started = false ∧ t.boot.up = false ∧ t.boot.fuses = s.boot.fuses
  ∧ t.boot.slotA = s.boot.slotA ∧ t.boot.slotB = s.boot.slotB ∧ t.boot.dir0 = s.boot.dir0 ∧ t.boot.dir1 = s.boot.dir1 ∧ t.boot.fails = s.boot.fails
  ∧ t.rel.hsRing = s.rel.hsRing ∧ t.rel.copyA = s.rel.copyA ∧ t.rel.copyB = s.rel.copyB ∧ t.pending = s.pending
  ∧ ∀ a, memByte t a = if isHost a = true then memByte s a else 0

/-- The bytes land at the physical addresses `pas`, and every other byte of memory is as it was. -/
def Lands (s t : State) (pas : List Nat) (bs : List Byte) : Prop :=
  (∀ i a, pas[i]? = some a → memByte t a = bs.getD i 0) ∧ ∀ a, a ∉ pas → memByte t a = memByte s a

/-- The path reaches the register in full and may write it (Table 19-2). -/
def Reaches (s : State) (path : Path) (page off : Nat) : Prop := reach s path page off true true = .full page

end Sys2Proof.Machine
end

