-- ==== Sys2Proof/Certificates/Slice0/Obligations.lean ====
section
/-! DEFINITION. The statements for the provers. `Says.…` are the parts that an obligation joins. -/
open Sys2Proof Sys2Proof.Machine

/-- A step on a queue with a command in front performs that command on the state with the rest of the queue; on an empty queue the device
idles, and one nanosecond passes (the model's choice, notes/assumptions/2.md). -/
def Obligations.StepRunsFrontCommand : Prop :=
  (∀ (c : Instr) (rest : List Instr) (s : State), s.pending = c :: rest → step s = exec c { s with pending := rest })
  ∧ ∀ s : State, s.pending = [] → step s = .next { s with now := s.now + 1 }

/-- The device right after reset (R8, R18, R227, R245, R273, R277, R307, R336, R426, R445): every register of the map reads its reset value; no
context, queue, job, fence, source or trigger is in use; no page is granted and no key held; every link is down; every domain is in Run;
logical core n is physical core n, and cores 32-35 are spare.
It rests on the model's own choices and readings in notes/assumptions/3.md, notes/assumptions/7.md. -/
def Obligations.ResetState : Prop :=
  let s := State.reset
  (∀ page off, rget s page off = resetOf page off)
  ∧ s.pending = [] ∧ s.contexts = [] ∧ s.queues = [] ∧ s.jobs = [] ∧ s.grants = [] ∧ s.keys = 0 ∧ s.trained = 0
  ∧ (∀ k, tfind s.fences k = none) ∧ (∀ n, srcKind (sourceOf s n) = 0) ∧ (∀ t, tgArmed (trigOf s t) = false)
  ∧ (∀ n, (linkOf s n).state = lkDown) ∧ (∀ d, (domOf s d).state = 0)
  ∧ (∀ L, L < 32 → physOf s L = some L ∧ (roleOf s L).role = 0) ∧ (∀ p, 32 ≤ p → p < 36 → logicalOf s p = none ∧ (roleOf s p).role = 1)
  ∧ (∀ p g, groupOf s p g = none) ∧ Memory.wf s.mem = true

/-- Every well-formed command is performed: the machine answers a next state for it in every state. Another command stops with a fault that
says that a unit it names does not exist, and no command is ever refused.
It rests on the model's own choices and readings in notes/assumptions/4.md, notes/assumptions/5.md, notes/assumptions/9.md. -/
def Obligations.EveryCommandAnswers : Prop :=
  ∀ (i : Instr) (s : State), (i.wf = true → ∃ t, exec i s = .next t) ∧ ((∃ t, exec i s = .next t) ∨ exec i s = .fault .absentUnit)

/-- Memory keeps its canonical form: strictly rising addresses and no entry that equals what an unlisted byte reads as. Every step of every
state whose memory is in that form leaves it in that form, whatever the waiting commands are.
It rests on the model's own choices and readings in notes/assumptions/3.md, notes/assumptions/4.md. -/
def Obligations.StepKeepsMemoryCanonical : Prop :=
  ∀ s t : State, Memory.wf s.mem = true → step s = .next t → Memory.wf t.mem = true

/-- The scalar operations of Table 05-9 on operands a and b: s[d] takes the named result, once for the group, and the instruction
changes nothing else. Operand b is s[b], or the sign-extended IMM19 with IMM = 1. -/
def Says.ScalarArithmetic : Prop :=
  ∀ (s : State) (p g : Nat) (w : InsnWord) (i : Iss), Issued s p g w sbinLegal i →
    let a := sGet i.gr w.a.toNat
    let b := if mIMM w then BitVec.ofInt 64 (mIMM19 w) else sGet i.gr w.b.toNat
    let n := b.toNat % 64
    let writes := fun c v => WritesScalar (exec c s) s i w.d.toNat v
    writes (.sadd p g w) (a + b) ∧ writes (.ssub p g w) (a - b) ∧ writes (.smul p g w) (a * b)
    ∧ writes (.smulhs p g w) (BitVec.ofInt 64 (a.toInt * b.toInt / 2 ^ 64))
    ∧ writes (.smulhu p g w) (BitVec.ofNat 64 (a.toNat * b.toNat / 2 ^ 64))
    ∧ writes (.sdivs p g w) (if b = 0 then BitVec.ofInt 64 (-1) else BitVec.ofInt 64 (a.toInt.tdiv b.toInt))
    ∧ writes (.sdivu p g w) (if b = 0 then BitVec.ofNat 64 (2 ^ 64 - 1) else a / b)
    ∧ writes (.srems p g w) (if b = 0 then a else BitVec.ofInt 64 (a.toInt.tmod b.toInt))
    ∧ writes (.sremu p g w) (if b = 0 then a else a % b)
    ∧ writes (.sand p g w) (a &&& b) ∧ writes (.sor p g w) (a ||| b) ∧ writes (.sxor p g w) (a ^^^ b)
    ∧ writes (.sshl p g w) (a <<< n) ∧ writes (.sshr p g w) (a >>> n) ∧ writes (.ssra p g w) (a.sshiftRight n)
    ∧ writes (.smins p g w) (if b.slt a then b else a) ∧ writes (.smaxs p g w) (if a.slt b then b else a)
    ∧ writes (.sminu p g w) (if b.ult a then b else a) ∧ writes (.smaxu p g w) (if a.ult b then b else a)

/-- SPOPC counts the one bits of s[a]; SCLZ gives 64 for 0, and otherwise the number n of zeros above the highest one bit. -/
def Says.ScalarBitCounts : Prop :=
  ∀ (s : State) (p g : Nat) (w : InsnWord) (i : Iss), Issued s p g w sunLegal i →
    let a := sGet i.gr w.a.toNat
    WritesScalar (exec (.spopc p g w) s) s i w.d.toNat
      (BitVec.ofNat 64 ((List.range 64).filter fun k => a.getLsbD k).length)
    ∧ ∃ n, WritesScalar (exec (.sclz p g w) s) s i w.d.toNat (BitVec.ofNat 64 n)
      ∧ n ≤ 64 ∧ (n < 64 → a.getLsbD (63 - n) = true) ∧ ∀ k, k < 64 → 63 - k < n → a.getLsbD k = false

/-- SMOVI, SCATI, SBALLOT, VEXT and SRD: each writes its value into s[d] once. SRD reads the issue set, FRM, the core's clock count since
its placement into service, the device timestamp, the logical core, the slot, or the age (Table 05-10). -/
def Says.ScalarMoves : Prop :=
  ∀ (s : State) (p g : Nat) (w : InsnWord) (i : Iss),
    let writes := fun c v => WritesScalar (exec c s) s i w.d.toNat v
    (Issued s p g w smoviLegal i → writes (.smovi p g w) (BitVec.ofInt 64 w.md.toInt))
    ∧ (Issued s p g w scatiLegal i → writes (.scati p g w) ((sGet i.gr w.a.toNat <<< 24) ||| w.md.setWidth 64))
    ∧ (Issued s p g w sballotLegal i → writes (.sballot p g w) ((i.part &&& pGet i.gr w.a.toNat).setWidth 64))
    ∧ (Issued s p g w vextLegal i →
        writes (.vext p g w) (vGet i.gr w.a.toNat ((sGet i.gr w.b.toNat).toNat % 32)))
    ∧ (Issued s p g w srdLegal i →
        (w.md = 0 → writes (.srd p g w) (i.set.setWidth 64))
        ∧ (w.md = 1 → writes (.srd p g w) (i.gr.frm.setWidth 64))
        ∧ (w.md = 2 → writes (.srd p g w) (BitVec.ofNat 64 (coreTenths s p / 10)))
        ∧ (w.md = 3 → writes (.srd p g w) (BitVec.ofNat 64 s.now))
        ∧ (w.md = 4 → ∀ L, logicalOf s p = some L → writes (.srd p g w) (BitVec.ofNat 64 L))
        ∧ (w.md = 5 → writes (.srd p g w) (BitVec.ofNat 64 g))
        ∧ (w.md = 6 → writes (.srd p g w) (i.gr.age.setWidth 64)))

/-- SFRM writes a legal code into FRM when at least one thread participates; 0b000, 0b110 and 0b111 leave FRM and set INV in each
participating thread (R42). -/
def Says.RoundingFieldWrite : Prop :=
  ∀ (s : State) (p g : Nat) (w : InsnWord) (i : Iss), Issued s p g w sfrmLegal i →
    let code := w.md.toNat % 8
    Performs (exec (.sfrm p g w) s) fun t => ∃ x, Moved s t i x ∧ x.s = i.gr.s ∧ x.v = i.gr.v ∧ x.p = i.gr.p
      ∧ x.frm = (if 1 ≤ code ∧ code ≤ 5 ∧ i.part ≠ 0 then BitVec.ofNat 3 code else i.gr.frm)
      ∧ ∀ l, l < 32 → flagsGet x l
          = if i.part.getLsbD l ∧ ¬ (1 ≤ code ∧ code ≤ 5) then flagsGet i.gr l ||| 1 else flagsGet i.gr l

/-- SCMP and the predicate instructions write p[d] of the participating threads only (R156). The six codes of SCMP compare for equal, not
equal, signed less, signed less or equal, unsigned less, unsigned less or equal (Table 05-11). -/
def Says.PredicateWrites : Prop :=
  ∀ (s : State) (p g : Nat) (w : InsnWord) (i : Iss),
    let writes := fun c v => WritesPredicate (exec c s) s i w.d.toNat v
    let pa := pGet i.gr w.a.toNat
    let pb := pGet i.gr w.b.toNat
    (Issued s p g w scmpLegal i →
      let a := sGet i.gr w.a.toNat
      let b := if mIMM w then BitVec.ofInt 64 (mIMM19 w) else sGet i.gr w.b.toNat
      let all : Bool → Mask := fun c => if c then BitVec.allOnes 32 else 0
      (mCOND w = 0 → writes (.scmp p g w) (all (a == b))) ∧ (mCOND w = 1 → writes (.scmp p g w) (all (a != b)))
      ∧ (mCOND w = 2 → writes (.scmp p g w) (all (a.slt b))) ∧ (mCOND w = 3 → writes (.scmp p g w) (all (a.sle b)))
      ∧ (mCOND w = 4 → writes (.scmp p g w) (all (a.ult b))) ∧ (mCOND w = 5 → writes (.scmp p g w) (all (a.ule b))))
    ∧ (Issued s p g w pbinLegal i → writes (.pand p g w) (pa &&& pb) ∧ writes (.por p g w) (pa ||| pb) ∧ writes (.pxor p g w) (pa ^^^ pb))
    ∧ (Issued s p g w pnotLegal i → writes (.pnot p g w) (~~~ pa))
    ∧ (Issued s p g w pmovsLegal i → writes (.pmovs p g w) ((sGet i.gr w.a.toNat).setWidth 32))

/-- The scalar and predicate instructions: result, destination and frame.
It rests on the model's own choices and readings in notes/assumptions/20.md. -/
def Obligations.ScalarInstructions : Prop := Says.ScalarArithmetic ∧ Says.ScalarBitCounts ∧ Says.ScalarMoves ∧ Says.RoundingFieldWrite ∧ Says.PredicateWrites

/-- The vector integer operations of Table 05-13 on elements a and b of the lane, operand b being element e of v[b] or the low bits of s[b]
for every element (R150): each element of v[d] in each participating lane, with SAT raised where a saturating result was clamped. -/
def Says.VectorInteger : Prop :=
  ∀ (s : State) (p g : Nat) (w : InsnWord) (i : Iss),
    let n := typeWidth (mTYPE w)
    let own : IFmt := { w := n, signed := mTYPE w != 5 }
    let bySub : IFmt := { w := n, signed := mTYPE w != 5 && mSUB w == 0 }
    let signed : IFmt := { w := n, signed := true }
    let a := aElem i.gr w
    let b := bElem i.gr w
    let exact : Int → Nat × Flags := fun v =>
      if mSAT w = false then ((v % 2 ^ n).toNat, 0)
      else if v < own.lo then (own.enc own.lo, fSAT) else if own.hi < v then (own.enc own.hi, fSAT) else (own.enc v, 0)
    let writes := fun c f => WritesElements (exec c s) s i f
    (Issued s p g w (vbinLegal true) i →
      writes (.vadd p g w) (fun l e => exact (own.val (a l e) + own.val (b l e)))
      ∧ writes (.vsub p g w) (fun l e => exact (own.val (a l e) - own.val (b l e)))
      ∧ writes (.vmul p g w) (fun l e => exact (own.val (a l e) * own.val (b l e))))
    ∧ (Issued s p g w (vbinLegal false) i →
      writes (.vand p g w) (fun l e => (a l e &&& b l e, 0)) ∧ writes (.vor p g w) (fun l e => (a l e ||| b l e, 0))
      ∧ writes (.vxor p g w) (fun l e => (a l e ^^^ b l e, 0))
      ∧ writes (.vshl p g w) (fun l e => (a l e * 2 ^ (b l e % n) % 2 ^ n, 0))
      ∧ writes (.vshr p g w) (fun l e => (a l e / 2 ^ (b l e % n), 0))
      ∧ writes (.vsra p g w) (fun l e => (signed.enc (signed.val (a l e) / 2 ^ (b l e % n)), 0)))
    ∧ (Issued s p g w (vsubLegal false) i →
      writes (.vmulh p g w) (fun l e => (bySub.enc (bySub.val (a l e) * bySub.val (b l e) / 2 ^ n), 0)))
    ∧ (Issued s p g w (vsubLegal true) i →
      writes (.vmin p g w) (fun l e => (if bySub.val (b l e) < bySub.val (a l e) then b l e else a l e, 0))
      ∧ writes (.vmax p g w) (fun l e => (if bySub.val (a l e) < bySub.val (b l e) then b l e else a l e, 0)))
    ∧ (Issued s p g w vabsLegal i → writes (.vabs p g w) (fun l e => exact (Int.natAbs (own.val (a l e)))))
    ∧ (Issued s p g w vselLegal i → writes (.vsel p g w) (fun l e => (if cElem i.gr w l e = 0 then b l e else a l e, 0)))
    ∧ (Issued s p g w vmovLegal i → writes (.vmov p g w) (fun l e => (if mBS w then b l e else a l e, 0)))

/-- VCMP and VFCMP compare element by element and write as R158 says. The integer codes compare for equal, not equal, signed less, signed
less or equal, unsigned less, unsigned less or equal, UINT8 always unsigned; the floating outcome and flags are those of the two values'
order, INV being raised for a NaN under the signalling codes and for a signalling NaN under every code (Table 05-11). -/
def Says.VectorComparisons : Prop :=
  ∀ (s : State) (p g : Nat) (w : InsnWord) (i : Iss),
    let n := typeWidth (mTYPE w)
    let v : IFmt := { w := n, signed := mTYPE w != 5 }
    let a := aElem i.gr w
    let b := bElem i.gr w
    let f := typeFmt (mTYPE w)
    let nan := fun x => (decodeF f x matches .nan ..)
    let sig := fun x => (decodeF f x matches .nan _ true _)
    let un := fun l e => nan (a l e) || nan (b l e)
    let key := fun x => orderKey f (decodeF f x)
    (Issued s p g w vcmpLegal i → ∀ r : Nat → Nat → Bool,
      ((mSUB w = 0 → r = fun l e => decide (a l e = b l e)) ∧ (mSUB w = 1 → r = fun l e => decide (a l e ≠ b l e))
        ∧ (mSUB w = 2 → r = fun l e => decide (v.val (a l e) < v.val (b l e)))
        ∧ (mSUB w = 3 → r = fun l e => decide (v.val (a l e) ≤ v.val (b l e)))
        ∧ (mSUB w = 4 → r = fun l e => decide (a l e < b l e)) ∧ (mSUB w = 5 → r = fun l e => decide (a l e ≤ b l e))) →
      WritesComparison (exec (.vcmp p g w) s) s i r (fun _ _ => 0))
    ∧ (Issued s p g w vfcmpLegal i → ∀ r : Nat → Nat → Bool,
      ((mSUB w = 0 → r = fun l e => !un l e && decide (key (a l e) = key (b l e)))
        ∧ (mSUB w = 1 → r = fun l e => un l e || decide (key (a l e) ≠ key (b l e)))
        ∧ (mSUB w = 2 ∨ mSUB w = 5 → r = fun l e => !un l e && decide (key (a l e) < key (b l e)))
        ∧ (mSUB w = 3 ∨ mSUB w = 6 → r = fun l e => !un l e && decide (key (a l e) ≤ key (b l e)))
        ∧ (mSUB w = 4 → r = fun l e => un l e)) →
      WritesComparison (exec (.vfcmp p g w) s) s i r (fun l e =>
        if (un l e && (mSUB w == 2 || mSUB w == 3)) || sig (a l e) || sig (b l e) then fINV else 0))

/-- VSHFL gives each lane the register of the lane that element 0 of b names, modulo 32, active or not (R159); VFLG reads the thread's six
flags; VFLGC clears those named in MOD[5:0] and writes nothing else (R160). -/
def Says.LaneAndFlagMoves : Prop :=
  ∀ (s : State) (p g : Nat) (w : InsnWord) (i : Iss),
    (Issued s p g w vshflLegal i →
      WritesVector (exec (.vshfl p g w) s) s i w.d.toNat (fun l => vGet i.gr w.a.toNat (bElem i.gr w l 0 % 32)) (fun _ => 0))
    ∧ (Issued s p g w vflgLegal i →
      WritesVector (exec (.vflg p g w) s) s i w.d.toNat (fun l => (flagsGet i.gr l).setWidth 64) (fun _ => 0))
    ∧ (Issued s p g w vflgcLegal i →
      Performs (exec (.vflgc p g w) s) fun t => ∃ x, Moved s t i x ∧ x.s = i.gr.s ∧ x.v = i.gr.v ∧ x.p = i.gr.p ∧ x.frm = i.gr.frm
        ∧ ∀ l, l < 32 → flagsGet x l = if i.part.getLsbD l then flagsGet i.gr l &&& ~~~ w.md.setWidth 6 else flagsGet i.gr l)

/-- Vector integer instructions, comparisons, lane moves and flag moves.
It rests on the model's own choices and readings in notes/assumptions/20.md, notes/assumptions/22.md. -/
def Obligations.VectorOperations : Prop := Says.VectorInteger ∧ Says.VectorComparisons ∧ Says.LaneAndFlagMoves

/-- The floating-point operations write, element by element, the value and the flags of the operation in the format of TYPE under the
rounding attribute of RM, or of FRM for the code 0b000 (R41, R42); subtraction is addition of the negated operand but for a NaN, and
VFABS, VFNEG, VFCPYS and VFCLASS raise no flag (R161).
It rests on the model's own choices and readings in notes/assumptions/21.md. -/
def Obligations.FloatArithmetic : Prop :=
  ∀ (s : State) (p g : Nat) (w : InsnWord) (i : Iss) (rm : Rm), rmOf i.gr.frm (mRM w) = some rm →
    let f := typeFmt (mTYPE w)
    let a := aElem i.gr w
    let b := bElem i.gr w
    let c := cElem i.gr w
    let top := 2 ^ (f.eb + f.fb)
    let writes := fun k r => WritesElements (exec k s) s i r
    (Issued s p g w (vf2Legal true) i →
      writes (.vfadd p g w) (fun l e => fadd f rm (a l e) (b l e))
      ∧ writes (.vfsub p g w) (fun l e => (firstNan f [a l e, b l e]).getD (fadd f rm (a l e) (negF f (b l e))))
      ∧ writes (.vfmul p g w) (fun l e => fmul f rm (a l e) (b l e)) ∧ writes (.vfdiv p g w) (fun l e => fdiv f rm (a l e) (b l e)))
    ∧ (Issued s p g w vf3Legal i →
      writes (.vfma p g w) (fun l e => ffma f rm false false (a l e) (b l e) (c l e))
      ∧ writes (.vfms p g w) (fun l e => ffma f rm false true (a l e) (b l e) (c l e))
      ∧ writes (.vfnma p g w) (fun l e => ffma f rm true false (a l e) (b l e) (c l e)))
    ∧ (Issued s p g w (vf1Legal true false) i → writes (.vfsqrt p g w) (fun l e => fsqrt f rm (a l e)))
    ∧ (Issued s p g w (vf1Legal true true) i → writes (.vfrint p g w) (fun l e => frint f rm (decide (mSUB w = 1)) (a l e)))
    ∧ (Issued s p g w (vf2Legal false) i →
      writes (.vfrem p g w) (fun l e => frem f (a l e) (b l e))
      ∧ writes (.vfmin p g w) (fun l e => fminmax f false (a l e) (b l e))
      ∧ writes (.vfmax p g w) (fun l e => fminmax f true (a l e) (b l e))
      ∧ writes (.vfcpys p g w) (fun l e => (a l e % top + (if (b l e).testBit (f.eb + f.fb) then top else 0), 0)))
    ∧ (Issued s p g w (vf1Legal false false) i →
      writes (.vfabs p g w) (fun l e => (a l e % top, 0)) ∧ writes (.vfneg p g w) (fun l e => (a l e ^^^ top, 0))
      ∧ writes (.vfclass p g w) (fun l e => (fclass f (a l e), 0)))

/-- Finite arithmetic is the exact result rounded once (R40, R44): a sum, a product, and a fused product and sum of finite operands is the
rounding of the exact integer at its exact weight. -/
def Obligations.FiniteResultsRoundOnce : Prop :=
  ∀ (f : Fmt) (rm : Rm) (x y z : Nat) (s t u : Bool) (m n k : Nat) (e g h : Int),
    decodeF f x = .fin s m e → decodeF f y = .fin t n g → decodeF f z = .fin u k h →
    let v : Bool → Nat → Int := fun s m => if s then -(m : Int) else m
    let pw : Int → Int → Int := fun a b => 2 ^ (a - b).toNat
    (∀ w, w ≤ e → w ≤ g → v s m * pw e w + v t n * pw g w ≠ 0 → fadd f rm x y = roundInt f rm false (v s m * pw e w + v t n * pw g w) w false)
    ∧ fmul f rm x y = roundF f rm false (s != t) (m * n) (e + g) false
    ∧ (∀ w, w ≤ e + g → w ≤ h → v s m * v t n * pw (e + g) w + v u k * pw h w ≠ 0 →
        ffma f rm false false x y z = roundInt f rm false (v s m * v t n * pw (e + g) w + v u k * pw h w) w false)

/-- A finite number of a format, rounded to that format, is that number with no flag, whatever the rounding attribute (R34, R40): no bit of
an encoding is lost between decoding and encoding. -/
def Obligations.FiniteEncodingsRoundTrip : Prop :=
  ∀ (f : Fmt) (rm : Rm) (sat : Bool) (x : Nat) (s : Bool) (m : Nat) (e : Int),
    f ∈ [binary32, binary16, sf16, sf8a, sf8b] → x < 2 ^ f.width → decodeF f x = .fin s m e → roundF f rm sat s m e false = (x, 0)

/-- The special functions write, element by element, the result of Table 05-19 for the operation's code and the format of TYPE, and the
values at the operands that the table names are these, with the flags it names: a reciprocal of zero is infinite with DZ, of infinity
zero; the reciprocal square root, the logarithm and the sine of an operand outside the domain are the default NaN with INV. -/
def Says.SpecialFunctions : Prop :=
  (∀ (s : State) (p g : Nat) (w : InsnWord) (i : Iss), Issued s p g w spLegal i →
    let f := typeFmt (mTYPE w)
    let writes := fun k code => WritesElements (exec k s) s i fun l e => special code f (aElem i.gr w l e)
    writes (.vrcp p g w) 0x90 ∧ writes (.vrsq p g w) 0x91 ∧ writes (.vexp2 p g w) 0x92 ∧ writes (.vlog2 p g w) 0x93
    ∧ writes (.vsinpi p g w) 0x94 ∧ writes (.vcospi p g w) 0x95 ∧ writes (.vtanh p g w) 0x96)
  ∧ ∀ (f : Fmt), f = binary32 ∨ f = binary16 → ∀ sg : Bool,
    let zr := signBit f sg
    let inf := encInf f sg
    special 0x90 f zr = (inf, fDZ) ∧ special 0x90 f inf = (zr, 0)
    ∧ special 0x91 f zr = (inf, fDZ) ∧ special 0x91 f (encInf f false) = (0, 0) ∧ special 0x91 f (encInf f true) = (defaultNan f, fINV)
    ∧ special 0x92 f (encInf f false) = (encInf f false, 0) ∧ special 0x92 f (encInf f true) = (0, 0)
    ∧ special 0x93 f zr = (encInf f true, fDZ) ∧ special 0x93 f (encInf f true) = (defaultNan f, fINV)
    ∧ special 0x94 f inf = (defaultNan f, fINV) ∧ special 0x95 f inf = (defaultNan f, fINV)
    ∧ special 0x96 f zr = (zr, 0) ∧ (decodeF f (special 0x96 f inf).1 = .fin sg (2 ^ f.fb) (-(f.fb : Int)))
    ∧ ∀ code ∈ [0x90, 0x91, 0x92, 0x93, 0x94, 0x95, 0x96], special code f (defaultNan f) = (defaultNan f, 0)

/-- VCVT converts the elements that POS names and leaves the destination positions outside it (R163); VPK4 writes into byte t of the 64-bit
word of lane t its two elements of the block that all 32 lanes hold, under one scale code; VUPK4 decodes them again (R164). -/
def Says.Conversions : Prop :=
  ∀ (s : State) (p g : Nat) (w : InsnWord) (i : Iss) (rm : Rm), rmOf i.gr.frm (mRM w) = some rm →
    let va := vGet i.gr w.a.toNat
    (Issued s p g w vcvtLegal i → ∀ src dst, cTypeOf (mSRC w) = some src → cTypeOf (mDST w) = some dst →
      let es := 64 / src.width
      let ed := 64 / dst.width
      let n := min es ed
      let lo := if es < ed then mPOS w * n else 0
      let one := fun l k => convert src dst rm (mSAT w) (elem src.width (va l) ((if ed < es then mPOS w * n else 0) + k))
      WritesVector (exec (.vcvt p g w) s) s i w.d.toNat
        (fun l => pack dst.width ((List.range ed).map fun e =>
          if lo ≤ e ∧ e < lo + n then (one l (e - lo)).1 else elem dst.width (vGet i.gr w.d.toNat l) e))
        (fun l => allFlags ((List.range n).map (one l))))
    ∧ (Issued s p g w vpk4Legal i → ∃ c els,
      sf4Encode rm ((List.range 64).map fun k =>
        let f := if mSRC w = 0 then binary32 else binary16
        decodeF f (elem f.width (va (k / 2)) (k % 2))) = (c, els)
      ∧ WritesVector (exec (.vpk4 p g w) s) s i w.d.toNat
        (fun l => BitVec.ofNat 64 (c * 256 + (els.getD (2 * l + 1) (0, 0)).1 * 16 + (els.getD (2 * l) (0, 0)).1))
        (fun l => (els.getD (2 * l) (0, 0)).2 ||| (els.getD (2 * l + 1) (0, 0)).2))
    ∧ (Issued s p g w vupk4Legal i →
      let f := if mDST w = 0 then binary32 else binary16
      let one := fun (n : Nat) => encNum f rm (mSAT w) (sf4Num (bits (va 0) 15 8) n)
      let byte := fun l => bits (va l) 7 0
      WritesVector (exec (.vupk4 p g w) s) s i w.d.toNat
        (fun l => pack f.width [(one (byte l % 16)).1, (one (byte l / 16)).1])
        (fun l => (one (byte l % 16)).2 ||| (one (byte l / 16)).2))

/-- Special functions, conversions and the packing of blocks.
It rests on the model's own choices and readings in notes/assumptions/6.md, notes/assumptions/19.md, notes/assumptions/20.md,
notes/assumptions/21.md. -/
def Obligations.SpecialAndConversions : Prop := Says.SpecialFunctions ∧ Says.Conversions

/-- The threads of the issue set move (R154, R155): behind NOP; to PC + 8 OFF24, or s[a], where the condition holds and on where it does not;
CALL also keeps PC + 8 in s[d] when a thread branches. A misaligned BRR target raises cause 0x02 and moves no thread. -/
def Says.ControlFlow : Prop :=
  ∀ (s : State) (p g : Nat) (w : InsnWord) (i : Iss),
    let rel := i.pc + BitVec.ofInt 64 (8 * w.md.toInt)
    let link := sGet i.gr w.a.toNat
    let goes := fun (k : Instr) (target : W64) (sv : Nat → W64) =>
      Performs (exec k s) fun t => ∃ x, CountOnly (setGroup s p g x) t ∧ x.v = i.gr.v ∧ x.p = i.gr.p ∧ x.flags = i.gr.flags
        ∧ x.frm = i.gr.frm ∧ x.cb = i.gr.cb ∧ x.cvg = i.gr.cvg ∧ x.exited = i.gr.exited ∧ (∀ r, sGet x r = sv r)
        ∧ ∀ l, l < 32 → pcGet x l
            = if i.part.getLsbD l then target else if i.set.getLsbD l then i.pc + 8 else pcGet i.gr l
    (Issued s p g w bareLegal i → Performs (exec (.nop p g w) s) fun t => ∃ x, Moved s t i x
        ∧ x.v = i.gr.v ∧ x.s = i.gr.s ∧ x.p = i.gr.p ∧ x.flags = i.gr.flags ∧ x.frm = i.gr.frm)
    ∧ (Issued s p g w braLegal i → goes (.bra p g w) rel (sGet i.gr))
    ∧ (Issued s p g w brrLegal i → i.part = 0 ∨ link.toNat % 8 = 0 → goes (.brr p g w) link (sGet i.gr))
    ∧ (Issued s p g w brrLegal i → i.part ≠ 0 → link.toNat % 8 ≠ 0 → exec (.brr p g w) s = .next (takeException s p g 2 i.pc link i.part))
    ∧ (Issued s p g w callLegal i → goes (.call p g w) rel fun r =>
        if r = w.d.toNat ∧ r ≠ 0 ∧ i.part ≠ 0 then i.pc + 8 else sGet i.gr r)

/-- CVG.SET writes the issue set into cbN, and the set goes on; at CVG.WAIT the threads that cbN names stop and the others go on, and when all
that it names have arrived the stopped threads go on together and cbN is cleared (R79). A barrier that still lacks a thread holds the
arrived ones where they are. -/
def Says.Convergence : Prop :=
  ∀ (s : State) (p g : Nat) (w : InsnWord) (i : Iss),
    let goes := fun (k : Instr) (n : Nat) (cb cvg : Mask) (pc : Nat → W64) =>
      Performs (exec k s) fun t => ∃ x, CountOnly (setGroup s p g x) t ∧ x.v = i.gr.v ∧ x.s = i.gr.s ∧ x.p = i.gr.p
        ∧ x.flags = i.gr.flags ∧ x.exited = i.gr.exited
        ∧ (∀ m, cbGet x m = if m = n then cb else cbGet i.gr m) ∧ (∀ m, cvgGet x m = if m = n then cvg else cvgGet i.gr m)
        ∧ ∀ l, l < 32 → pcGet x l = pc l
    (Issued s p g w cvgSetLegal i →
      goes (.cvgSet p g w) w.d.toNat i.set (cvgGet i.gr w.d.toNat) fun l => if i.set.getLsbD l then i.pc + 8 else pcGet i.gr l)
    ∧ (Issued s p g w cvgWaitLegal i →
      let n := w.a.toNat
      let stopped := i.set &&& cbGet i.gr n
      let waiting := cvgGet i.gr n ||| stopped
      let pc := fun l => if i.set.getLsbD l && !stopped.getLsbD l then i.pc + 8 else pcGet i.gr l
      (waiting ≠ 0 → cbGet i.gr n &&& ~~~ waiting = 0 →
        goes (.cvgWait p g w) n 0 0 fun l => if waiting.getLsbD l then pc l + 8 else pc l)
      ∧ (waiting = 0 ∨ cbGet i.gr n &&& ~~~ waiting ≠ 0 → goes (.cvgWait p g w) n (cbGet i.gr n) waiting pc))

/-- EXIT ends its participating threads, which leave cb0-cb3, and the others of the issue set go on (R79); a convergence wait that they alone
held up ends, its threads going on behind it. With its last thread the group leaves its slot and its job (R63). -/
def Says.Exits : Prop :=
  ∀ (s : State) (p g : Nat) (w : InsnWord) (i : Iss), Issued s p g w bareLegal i →
    (alive i.gr &&& ~~~ i.part ≠ 0 →
      ∀ n < 4, (∀ m < 4, m ≠ n → cvgGet i.gr m = 0) →
        let over_ := cvgGet i.gr n ≠ 0 ∧ cbGet i.gr n &&& ~~~ i.part &&& ~~~ cvgGet i.gr n = 0
        Performs (exec (.exit p g w) s) fun t => ∃ x, CountOnly (setGroup s p g x) t ∧ x.exited = i.gr.exited ||| i.part
          ∧ x.s = i.gr.s ∧ x.v = i.gr.v ∧ x.p = i.gr.p ∧ x.flags = i.gr.flags ∧ x.frm = i.gr.frm ∧ x.block = i.gr.block
          ∧ (∀ m < 4, cbGet x m = if m = n ∧ over_ then 0 else cbGet i.gr m &&& ~~~ i.part)
          ∧ (∀ m < 4, cvgGet x m = if m = n ∧ over_ then 0 else cvgGet i.gr m)
          ∧ ∀ l < 32, pcGet x l = if (i.set &&& ~~~ i.part).getLsbD l = true then i.pc + 8
              else if over_ ∧ (cvgGet i.gr n).getLsbD l = true then pcGet i.gr l + 8 else pcGet i.gr l)
    ∧ (alive i.gr &&& ~~~ i.part = 0 → i.gr.semas = [] → (∀ n < 4, cvgGet i.gr n = 0) → ∀ x, jobOf s i.job = some x → 1 < x.liveGroups →
        Performs (exec (.exit p g w) s) fun t => groupOf t p g = none ∧ (∀ k, k ≠ g → groupOf t p k = groupOf s p k)
          ∧ (coreOf t p).order = (coreOf s p).order.filter (· != g) ∧ t.mem = s.mem
          ∧ jobOf t i.job = some { x with liveGroups := x.liveGroups - 1 })

/-- Branches, convergence barriers and EXIT.
It rests on the model's own choices and readings in notes/assumptions/25.md. -/
def Obligations.ThreadControl : Prop := Says.ControlFlow ∧ Says.Convergence ∧ Says.Exits

/-- CVG.SET and CVG.WAIT must have PRED = 0 and NEG = 0; any other value raises cause 0x01, for the whole issue set (R155). -/
def Obligations.ConvergenceFieldCheck : Prop :=
  ∀ (s : State) (p g : Nat) (w : InsnWord) (i : Iss), p < 36 → g < 48 → prepare s p g w = .go i → w.pred ≠ 0 ∨ w.neg = true →
    Excepts (exec (.cvgSet p g w) s) s p g 1 i.pc 0 i.set ∧ Excepts (exec (.cvgWait p g w) s) s p g 1 i.pc 0 i.set

/-- Exceptions (Table 03-4, R99-R102): for every core instruction, a word that its field check refuses raises cause 0x01 for the whole issue
set, and a faulty register cause 0x06 when a thread participates; BRR to a misaligned address raises cause 0x02, and TRAP cause 0x08 for
its participating threads. A record that is held is kept and MULTI is set. TRAP without a participating thread does nothing.
It rests on the model's own choices and readings in notes/assumptions/25.md, notes/assumptions/26.md. -/
def Obligations.Exceptions : Prop :=
  ∀ (s : State) (p g : Nat) (w : InsnWord) (i : Iss), p < 36 → g < 48 → prepare s p g w = .go i →
    (∀ cls legal body, legal i.gr w = false → Excepts (issue p g w cls legal body s) s p g 1 i.pc 0 i.set)
    ∧ (∀ cls legal body, legal i.gr w = true → w.flaw = .register → i.part ≠ 0 → Excepts (issue p g w cls legal body s) s p g 6 i.pc 0 i.part)
    ∧ (Issued s p g w brrLegal i → i.part ≠ 0 → (sGet i.gr w.a.toNat).toNat % 8 ≠ 0 →
        Excepts (exec (.brr p g w) s) s p g 2 i.pc (sGet i.gr w.a.toNat) i.part)
    ∧ (Issued s p g w bareLegal i →
        (i.part ≠ 0 → Excepts (exec (.trap p g w) s) s p g 8 i.pc 0 i.part)
        ∧ (i.part = 0 → Leaves (exec (.trap p g w) s) s i)
        ∧ (i.part ≠ 0 → infoHeld s (pgCore p) 0x110 = true → Performs (exec (.trap p g w) s) fun t =>
            rget t (pgCore p) 0x110 = setBit (rget s (pgCore p) 0x110) 30 ∧ (coreOf t p).fltPc = (coreOf s p).fltPc
            ∧ (coreOf t p).fltAddr = (coreOf s p).fltAddr ∧ (coreOf t p).fltMask = (coreOf s p).fltMask))

/-- The checks of one access come in this order (R166, R99): an address that is no multiple of SIZE gives cause 0x02; in the local store an
access outside the store or the job's declared ranges gives cause 0x05; in device memory an address from 2^48 up gives cause 0x03, a
page whose entry lacks the permission cause 0x04, and a page with the permission the physical address of the entry.
It rests on the model's own choices and readings in notes/assumptions/23.md. -/
def Obligations.AccessChecks : Prop :=
  ∀ (i : Iss) (s : State) (perm : Perm) (va : W64),
    (va.toNat % mSIZE i.w ≠ 0 → look i s perm va = .bad 2 none)
    ∧ (va.toNat % mSIZE i.w = 0 → mSPACE i.w = true → ∀ j, jobOf s i.job = some j →
        (inRanges (jobRanges j) va.toNat (mSIZE i.w) = false ∨ 0x400000 ≤ va.toNat → look i s perm va = .bad 5 none)
        ∧ (inRanges (jobRanges j) va.toNat (mSIZE i.w) = true → va.toNat < 0x400000 → look i s perm va = .ok (.ls va.toNat)))
    ∧ (va.toNat % mSIZE i.w = 0 → mSPACE i.w = false →
        (2 ^ 48 ≤ va.toNat → ∃ f, look i s perm va = .bad 3 (some f))
        ∧ (va.toNat < 2 ^ 48 → ∀ e, tlbFind (coreOf s i.p) i.tag va.toNat = some e →
            (grants e.attr perm = false → ∃ f, look i s perm va = .bad 4 (some f))
            ∧ (grants e.attr perm = true →
                let pa := (e.ppn + (va.toNat / 4096 - e.vpn)) * 4096 + va.toNat % 4096
                pa < 0x100000000000 → look i s perm va = .ok (.hbm pa (e.attr.getLsbD 6)))))

/-- A load reads SIZE bytes, little-endian, for each participating lane into v[d], or once into s[d], zero- or sign-extended (R166): from the
local store; around the near cache with NC_BYPASS; or from what the core holds, the newest of merging buffer and near cache (R86). An
acquire (ORD 0b01 at DEVICE scope or wider) invalidates the near cache, and a hit touches its set. -/
def Says.Loads : Prop :=
  ∀ (s : State) (p g : Nat) (w : InsnWord) (i : Iss) (a : Nat → Nat) (na : Nat → Bool),
    let ext := fun n => if mSX w then BitVec.ofInt 64 (IFmt.val { w := 8 * mSIZE w, signed := true } n) else BitVec.ofNat 64 n
    let acq := fun s => if 2 ≤ mSCOPE w ∧ mORD w = 1 then nearInvalidateAt s p else s
    let c := coreOf s p
    let held := fun l => leNat ((List.range (mSIZE w)).map fun k => coreByte s c (a l + k))
    let hits := fun (ls : List Nat) => setCore s p ((ls.map a).foldl nearHit c)
    (Issued s p g w vldLegal i → Passes i s false .r (fun l => .ls (a l)) → mSPACE w = true → mdrnPending s p g = false →
      (∀ l ∈ lanesOf i.part, lsMulti c (a l) = false) →
      WritesVector (exec (.vld p g w) s) (acq s) i w.d.toNat (fun l => ext (lsNat c (a l) (mSIZE w))) (fun _ => 0))
    ∧ (Issued s p g w sldLegal i → Passes i s true .r (fun l => .ls (a l)) → mSPACE w = true → mdrnPending s p g = false →
      lsMulti c (a 0) = false →
      WritesScalar (exec (.sld p g w) s) (acq s) i w.d.toNat (ext (lsNat c (a 0) (mSIZE w))))
    ∧ (Issued s p g w vldLegal i → Passes i s false .r (fun l => .hbm (a l) (na l)) → mSPACE w = false →
      (ncBypass s p = true → (∀ l ∈ lanesOf i.part, poisoned s (a l) = false) →
        WritesVector (exec (.vld p g w) s) (acq s) i w.d.toNat (fun l => ext (memNat s (a l) (mSIZE w))) (fun _ => 0))
      ∧ (ncBypass s p = false → w.flaw = .clean → (∀ l ∈ lanesOf i.part, heldByCore c (a l) (mSIZE w) = true) →
        WritesVector (exec (.vld p g w) s) (acq (hits (lanesOf i.part))) i w.d.toNat (fun l => ext (held l)) (fun _ => 0)))
    ∧ (Issued s p g w sldLegal i → Passes i s true .r (fun l => .hbm (a l) (na l)) → mSPACE w = false →
      (ncBypass s p = true → poisoned s (a 0) = false →
        WritesScalar (exec (.sld p g w) s) (acq s) i w.d.toNat (ext (memNat s (a 0) (mSIZE w))))
      ∧ (ncBypass s p = false → w.flaw = .clean → heldByCore c (a 0) (mSIZE w) = true →
        WritesScalar (exec (.sld p g w) s) (acq (hits [0])) i w.d.toNat (ext (held 0))))

/-- A store writes the low SIZE bytes of v[c] of each participating lane in ascending lane order, so that the highest lane's bytes remain
(R91), or of s[c] once; nothing else of the state changes but the number of the store. It goes to the local store, around the near
cache with NC_BYPASS, or into the merging buffer while the buffer is empty or has entries for its new lines (R85). A release holds
it up while something is pending. -/
def Says.Stores : Prop :=
  ∀ (s : State) (p g : Nat) (w : InsnWord) (i : Iss) (spot : Nat → Spot),
    let c := coreOf s p
    let s0 := updCore s p fun c => { c with storeNext := c.storeNext + 1 }
    let place := fun s l bs => storeOne i s c.storeNext (spot l) bs
    let goes := (mSCOPE w < 2 ∨ mORD w ≠ 2 ∨ i.gr.released = true ∨ NothingPending s p g (decide (mSCOPE w = 3)))
    let inDevice := fun (ls : List Nat) => ((openEntries c).length ≤ 16 ∧ ∀ l ∈ ls, ∃ a, spot l = .ls a)
      ∨ (ncBypass s p = true ∧ ∀ l ∈ ls, ∃ a n, spot l = .hbm a n) ∨ (openEntries c = [] ∧ ∀ l ∈ ls, ∃ a n, spot l = .hbm a n)
      ∨ ((openEntries c).length + ls.length ≤ 16 ∧ ∀ l ∈ ls, ∃ a n, spot l = .hbm a n)
    (Issued s p g w vstLegal i → Passes i s false .w spot → goes → inDevice (lanesOf i.part) →
      Leaves (exec (.vst p g w) s)
        ((lanesOf i.part).foldl (fun s l => place s l (natLe (mSIZE w) (vGet i.gr w.c.toNat l).toNat)) s0) i)
    ∧ (Issued s p g w sstLegal i → Passes i s true .w spot → goes → inDevice [0] →
      Leaves (exec (.sst p g w) s) (place s0 0 (natLe (mSIZE w) (sGet i.gr w.c.toNat).toNat)) i)

/-- Loads and stores: value, address, and every other byte unchanged.
It rests on the model's own choices and readings in notes/assumptions/23.md, notes/assumptions/24.md, notes/assumptions/65.md. -/
def Obligations.LoadsAndStores : Prop := Says.Loads ∧ Says.Stores

/-- What one access of a store does (R83, R85): its bytes, and no others, are what the core then reads at these addresses; in the local store
and around the near cache at once, through the merging buffer with memory as it was until the entry drains.
It rests on the model's own choices and readings in notes/assumptions/10.md, notes/assumptions/24.md. -/
def Obligations.StoredBytesAreRead : Prop :=
  ∀ (i : Iss) (s : State) (n a : Nat) (na : Bool) (bs : List Byte), a % 128 + bs.length ≤ 128 →
    let at_ := fun (old : Nat → Byte) (b : Nat) => if a ≤ b ∧ b < a + bs.length then bs.getD (b - a) 0 else old b
    let c := coreOf s i.p
    (∀ t, t = storeOne i s n (.ls a) bs →
      (∀ b, lsByte (coreOf t i.p) b = at_ (lsByte c) b) ∧ t.mem = s.mem)
    ∧ (ncBypass s i.p = true → ∀ t, t = storeOne i s n (.hbm a na) bs →
      (∀ b, memByte t b = at_ (memByte s) b) ∧ t.cores = s.cores)
    ∧ (ncBypass s i.p = false → (openEntries c).length < 16 → ∀ t, t = storeOne i s n (.hbm a na) bs →
      (∀ b, coreByte t (coreOf t i.p) b = at_ (coreByte s c) b) ∧ t.mem = s.mem)

/-- The value that an atomic leaves (R168, Table 05-21): ADD, AND, OR, XOR, MINS, MAXS, MINU, MAXU, SWAP, CAS, and FADD in binary32 with
roundTiesToEven; and one atomic on memory or on the local store returns the old value into v[d] of its lane, zero- or sign-extended, and
leaves the new one in its place. -/
def Says.AtomicOperations : Prop :=
  (∀ (size old v cmp : Nat), size = 4 ∨ size = 8 → old < 2 ^ (8 * size) → v < 2 ^ (8 * size) →
    let f : IFmt := { w := 8 * size, signed := true }
    atomicNew 0 size old v cmp = (old + v) % 2 ^ (8 * size) ∧ atomicNew 1 size old v cmp = old &&& v
    ∧ atomicNew 2 size old v cmp = old ||| v ∧ atomicNew 3 size old v cmp = old ^^^ v
    ∧ f.val (atomicNew 4 size old v cmp) = min (f.val old) (f.val v) ∧ f.val (atomicNew 5 size old v cmp) = max (f.val old) (f.val v)
    ∧ atomicNew 6 size old v cmp = min old v ∧ atomicNew 7 size old v cmp = max old v ∧ atomicNew 8 size old v cmp = v
    ∧ (atomicNew 9 size old v cmp = if old = cmp then v else old) ∧ atomicNew 10 size old v cmp = (fadd binary32 .even old v).1)
  ∧ ∀ (s : State) (p g t a : Nat) (w : InsnWord) (gr : Group), groupOf s p g = some gr → t < 32 → mSIZE w = 4 ∨ mSIZE w = 8 →
      let old := memNat s a (mSIZE w)
      let lsOld := lsNat (coreOf s p) a (mSIZE w)
      let new := fun n => atomicNew (mAOP w) (mSIZE w) n (atomicVal w gr t) (atomicCmp w gr t) % 2 ^ (8 * mSIZE w)
      let m := atomicMem w p g gr s t a
      let l := atomicLs w p g gr s t a
      memNat m a (mSIZE w) = new old ∧ (∀ b, b < a ∨ a + mSIZE w ≤ b → memByte m b = memByte s b)
      ∧ lsNat (coreOf l p) a (mSIZE w) = new lsOld ∧ l.mem = s.mem
      ∧ (∃ x, groupOf m p g = some x ∧ vGet x w.d.toNat t = extend (mSX w) (mSIZE w) old)
      ∧ ∃ x, groupOf l p g = some x ∧ vGet x w.d.toNat t = extend (mSX w) (mSIZE w) lsOld

/-- VATOM performs the atomics of its participating lanes in ascending lane order, each on the operands its lane held at issue (R91, R168);
FENCE moves on once nothing is pending, an acquire invalidating the near cache, and otherwise waits for what is pending (R93). -/
def Says.AtomicsAndFences : Prop :=
  ∀ (s : State) (p g : Nat) (w : InsnWord) (i : Iss) (spot : Nat → Spot),
    let c := coreOf s p
    let inv := fun (b : Bool) s => if b then nearInvalidateAt s p else s
    let acq := decide (2 ≤ mSCOPE w) && (mORD w == 1 || mORD w == 3)
    let rel := decide (2 ≤ mSCOPE w) && (mORD w == 2 || mORD w == 3)
    let through := fun (one : State → Nat → State) =>
      let s' := inv acq ((lanesOf i.part).foldl one s)
      Performs (exec (.vatom p g w) s) fun t => ∃ y x, groupOf s' p g = some y ∧ Moved s' t i x ∧ x.v = y.v
        ∧ x.s = i.gr.s ∧ x.p = i.gr.p ∧ x.flags = i.gr.flags ∧ x.frm = i.gr.frm
    (Issued s p g w vatomLegal i → Passes i s false .rw spot →
      (rel = false ∨ i.gr.released = true ∨ NothingPending s p g (decide (mSCOPE w = 3))) → ∀ a : Nat → Nat,
      ((∀ l ∈ lanesOf i.part, spot l = .ls (a l) ∧ lsMulti c (a l) = false) → through fun s l => atomicLs w p g i.gr s l (a l))
      ∧ ((∀ l ∈ lanesOf i.part, (∃ na, spot l = .hbm (a l) na) ∧ poisoned s (a l) = false
            ∧ ∀ e ∈ openEntries c, e.line ≠ lineOf (a l)) → through fun s l => atomicMem w p g i.gr s l (a l)))
    ∧ (Issued s p g w fenceLegal i → i.part ≠ 0 → mSCOPE w < 2 ∨ mORD w = 1 ∨ i.gr.released = true ∨ NothingPending s p g (decide (mSCOPE w = 3)) →
        Leaves (exec (.fence p g w) s) (inv (decide (2 ≤ mSCOPE w) && mORD w != 2) s) i)
    ∧ (Issued s p g w fenceLegal i → i.part ≠ 0 → 2 ≤ mSCOPE w → mORD w ≠ 1 → i.gr.released = false → c.merge ≠ [] →
        Performs (exec (.fence p g w) s) fun t => ∃ tags,
          t = setGroup s p g { i.gr with block := .release (c.merge.map fun e => e.serial) tags })

/-- Atomics and fences: result, memory and frame.
It rests on the model's own choices and readings in notes/assumptions/24.md, notes/assumptions/65.md. -/
def Obligations.AtomicsAndFences : Prop := Says.AtomicOperations ∧ Says.AtomicsAndFences

/-- STRQ copies a legal descriptor from the local store onto its engine's queue and returns the ticket of the engine and the descriptor's
sequence number; with the queue's 16 places taken it returns a refused ticket and queues nothing (R178, R179). STRS reads the last
completed sequence number and the free places; STRW returns 1 for a ticket that is none, 0 once the transfer has ended well, raises the
transfer's cause where it faulted, and otherwise waits (R180). -/
def Says.StreamInstructions : Prop :=
  ∀ (s : State) (p g : Nat) (w : InsnWord) (i : Iss),
    let a := sGet i.gr w.a.toNat
    let c := coreOf s p
    let x := engOf c (mENG w)
    let d := readDesc c a.toNat
    let n := bits a 33 32
    let y := engOf c n
    let seq : W32 := BitVec.ofNat 32 (bits a 31 0)
    let later := (y.next - 1 - seq).toNat
    let waiting := Issued s p g w strwLegal i ∧ i.part ≠ 0 ∧ i.set = alive i.gr
    (Issued s p g w strqLegal i → i.part ≠ 0 → ∀ j, jobOf s i.job = some j → mdrnPending s p g = false →
      a.toNat % 64 = 0 → a.toNat < 0x400000 → inRanges (jobRanges j) a.toNat 64 = true →
      (∀ k < 4, lsMulti c (a.toNat + 16 * k) = false) → descLegal d = true → descOut (jobRanges j) d = none →
      (x.queue.length < 16 → ¬ (mENG w = 3 ∧ pkType j.words = 2) → x.failed = [] →
        WritesScalar (exec (.strq p g w) s) (setCore s p (setEng c (mENG w) { x with
            queue := x.queue ++ [{ seq := x.next, desc := d, job := i.job, tag := i.tag, wantFrame := wantedFrame s d }]
            next := x.next + 1 })) i w.d.toNat (BitVec.ofNat 64 (mENG w * 2 ^ 32 + x.next.toNat)))
      ∧ (16 ≤ x.queue.length → WritesScalar (exec (.strq p g w) s) s i w.d.toNat (BitVec.ofNat 64 (2 ^ 63))))
    ∧ (Issued s p g w strsLegal i →
      WritesScalar (exec (.strs p g w) s) s i w.d.toNat (BitVec.ofNat 64 ((16 - x.queue.length) * 2 ^ 32 + x.last.toNat)))
    ∧ (waiting → a.getLsbD 63 = true → WritesScalar (exec (.strw p g w) s) s i w.d.toNat 1)
    ∧ (waiting → a.getLsbD 63 = false →
      (2 ^ 31 ≤ later → WritesScalar (exec (.strw p g w) s) s i w.d.toNat 1)
      ∧ (later < 2 ^ 31 → (∃ t ∈ y.queue, t.seq = seq) →
          Blocks (exec (.strw p g w) s) s i (.strw n seq w.d) (mTMO w))
      ∧ (later < 2 ^ 31 → y.any = true → (∀ t ∈ y.queue, t.seq ≠ seq) →
          ((∀ f ∈ y.ended, f.seq ≠ seq) → WritesScalar (exec (.strw p g w) s) s i w.d.toNat 0)
          ∧ (∀ f, y.ended = [f] → f.seq = seq →
              exec (.strw p g w) s = .next (takeException s p g f.cause.toNat i.pc f.addr i.part))))

/-- CWAIT returns at once with the status of Table 06-9 where the source has one, and otherwise blocks with its time-out (R181, R182): 4 for an
unbound source; for a reached position 0, or 1 where a video source has gone on to a later frame; 2 for a stopped source. -/
def Says.CadenceWaits : Prop :=
  (∀ (s : State) (p g : Nat) (w : InsnWord) (i : Iss), Issued s p g w cwaitLegal i → i.part ≠ 0 → i.set = alive i.gr →
    let n := bits (sGet i.gr w.a.toNat) 5 0
    let pos := sGet i.gr w.b.toNat
    (∀ st, cwaitStatus s n pos = some st → WritesScalar (exec (.cwait p g w) s) s i w.d.toNat (BitVec.ofNat 64 st))
    ∧ (cwaitStatus s n pos = none → Blocks (exec (.cwait p g w) s) s i (.cwait n pos w.d) (mTMO w)))
  ∧ ∀ (s : State) (n : Nat) (target : W64),
    let x := sourceOf s n
    let ahead := fun k => aheadBy 48 k (posFrame target)
    (48 ≤ n ∨ srcKind x = 0 → cwaitStatus s n target = some 4)
    ∧ (n < 48 → srcKind x = 1 ∨ srcKind x = 2 →
        (ahead (posFrame x.pos) = true → cwaitStatus s n target = some 1)
        ∧ (posFrame x.pos = posFrame target → posLine target ≤ posLine x.pos → cwaitStatus s n target = some 0)
        ∧ (posFrame x.pos = posFrame target → posLine x.pos < posLine target →
            cwaitStatus s n target = if x.state = 2 then some 2 else none))
    ∧ (n < 48 → srcKind x = 3 ∨ srcKind x = 5 →
        (x.pos = target → cwaitStatus s n target = some 0)
        ∧ (aheadBy 64 target.toNat x.pos.toNat = true → cwaitStatus s n target = if x.state = 2 then some 2 else none))

/-- The stream instructions and CWAIT.
It rests on the model's own choices and readings in notes/assumptions/30.md, notes/assumptions/31.md. -/
def Obligations.StreamAndCadence : Prop := Says.StreamInstructions ∧ Says.CadenceWaits

/-- BAR with a count of 1 to 48 (R183): an arrival before the last blocks its group and the barrier holds the count and the arrived slots; the
last arrival frees the barrier, moves on, and every group that had arrived goes on behind its BAR. Another count than the barrier's, or
a count out of range, raises cause 0x01. -/
def Says.Barriers : Prop :=
  ∀ (s : State) (p g : Nat) (w : InsnWord) (i : Iss), Issued s p g w barLegal i → i.part ≠ 0 → i.set = alive i.gr →
    let count := (sGet i.gr w.a.toNat).toNat
    let bid := mBID w
    let c := coreOf s p
    let arrived := fun slots => setCore s p { c with bars := tput c.bars bid { count, job := i.job, slots := slots ++ [g] } }
    let freed := setCore s p { c with bars := tdel c.bars bid }
    (count = 0 ∨ 48 < count → exec (.bar p g w) s = .next (takeException s p g 1 i.pc 0 i.part))
    ∧ (1 ≤ count → count ≤ 48 → mdrnPending s p g = false →
      (tfind c.bars bid = none → 1 < count → Blocks (exec (.bar p g w) s) (arrived []) i (.barrier bid) 0)
      ∧ (tfind c.bars bid = none → count = 1 → Leaves (exec (.bar p g w) s) freed i)
      ∧ ∀ b, tfind c.bars bid = some b → b.job = i.job →
        (b.count ≠ count → exec (.bar p g w) s = .next (takeException s p g 1 i.pc 0 i.part))
        ∧ (b.count = count → b.slots.length + 1 < count → Blocks (exec (.bar p g w) s) (arrived b.slots) i (.barrier bid) 0)
        ∧ (b.count = count → count ≤ b.slots.length + 1 → g ∉ b.slots → b.slots.Nodup →
            Performs (exec (.bar p g w) s) fun t => tfind (coreOf t p).bars bid = none ∧ t.mem = s.mem
              ∧ (∃ x, groupOf t p g = some x ∧ ∀ l, l < 32 → pcGet x l = if i.set.getLsbD l then i.pc + 8 else pcGet i.gr l)
              ∧ ∀ k ∈ b.slots, ∀ y, groupOf s p k = some y → ∃ x, groupOf t p k = some x ∧ x.block = .none ∧ x.s = y.s ∧ x.v = y.v
                ∧ ∀ l, l < 32 → pcGet x l = if (alive y).getLsbD l then pcGet y l + 8 else pcGet y l))

/-- SEMA on a free semaphore of the group's context makes the group its holder, returns 1 where the last holder abandoned it and 0 otherwise,
and invalidates the near cache; on one that another group holds it queues behind the waiters of its priority and above and blocks (the holder's job having that priority already). SEMR
by the holder frees the semaphore when nobody waits. A semaphore not allocated to the context, and a release by a group that does not
hold it, raise cause 0x04 (R184, R185). -/
def Says.Semaphores : Prop :=
  ∀ (s : State) (p g : Nat) (w : InsnWord) (i : Iss) (L : Nat), logicalOf s p = some L → i.part ≠ 0 →
    let n := bits (sGet i.gr w.a.toNat) 7 0
    let put := fun x => { s with semas := tput s.semas n x }
    let none_ := exec (.sema p g w) s = .next (takeException s p g 4 i.pc 0 i.part)
    (Issued s p g w semaLegal i → i.set = alive i.gr →
      (semaFor s i.job n = none → none_)
      ∧ ∀ x, semaFor s i.job n = some x →
        (x.holder = none →
          let s' := nearInvalidateAt (put { x with holder := some (L, g), since := s.now, abandoned := false, shortNow := x.short }) p
          WritesScalar (exec (.sema p g w) s) s' i w.d.toNat (if x.abandoned then 1 else 0)
          ∧ Performs (exec (.sema p g w) s) fun t => ∃ y, groupOf t p g = some y ∧ y.semas = i.gr.semas ++ [n])
        ∧ (∀ h, x.holder = some h → h ≠ (L, g) → (∀ j, holderJob s n = some j → jobPrio s i.job ≤ jobPrio s j) →
          Blocks (exec (.sema p g w) s) (put { x with
            waiters := insertBy (fun w => 7 - w.1) (jobPrio s i.job, L, g) x.waiters }) i (.sema n w.d) (mTMO w)))
    ∧ (Issued s p g w semrLegal i →
      (semaFor s i.job n = none ∨ n ∉ i.gr.semas → exec (.semr p g w) s = .next (takeException s p g 4 i.pc 0 i.part))
      ∧ ∀ x, semaFor s i.job n = some x → n ∈ i.gr.semas → (i.gr.released = true ∨ (coreOf s p).merge = []) → x.waiters = [] →
        Performs (exec (.semr p g w) s) fun t =>
          tfind t.semas n = some { x with holder := none, abandoned := false, shortNow := x.short } ∧ t.mem = s.mem ∧ t.fences = s.fences
          ∧ ∃ y, groupOf t p g = some y ∧ y.semas = i.gr.semas.filter (· != n) ∧ y.s = i.gr.s ∧ y.v = i.gr.v
            ∧ ∀ l, l < 32 → pcGet y l = if i.set.getLsbD l then i.pc + 8 else pcGet i.gr l)

/-- Barriers and semaphores.
It rests on the model's own choices and readings in notes/assumptions/26.md, notes/assumptions/31.md. -/
def Obligations.GroupSynchronisation : Prop := Says.Barriers ∧ Says.Semaphores

/-- A signal of a fence in VALUE: a value above the fence's own is taken, 2^64 - 1 also exhausting it; an equal one changes nothing; a lower one
is refused with status 1 and counted. A fence in EXHAUSTED refuses with status 3, one in ERROR or ABANDONED and a free slot with status 2
(R188, R290). -/
def Says.FenceSignals : Prop :=
  ∀ (s : State) (slot : Nat) (v : W64),
    (tfind s.fences slot = none → signalFence s slot v false = (s, 2))
    ∧ ∀ f, tfind s.fences slot = some f →
      let r := signalFence s slot v false
      (f.state = 0 → f.value.toNat < v.toNat → r.2 = 0 ∧ ∃ f', tfind r.1.fences slot = some f' ∧ f'.value = v
          ∧ f'.state = (if v = BitVec.allOnes 64 then 2 else 0))
      ∧ (f.state = 0 → v = f.value → r = (s, 0))
      ∧ (f.state = 0 → v.toNat < f.value.toNat → r.2 = 1 ∧ ∃ f', tfind r.1.fences slot = some f' ∧ f'.value = f.value ∧ f'.state = 0
          ∧ f'.regress.toNat = min 0xFFFF (f.regress.toNat + 1))
      ∧ (f.state = 2 → r = (s, 3)) ∧ (f.state = 1 ∨ f.state = 3 → r = (s, 2))

/-- FSIG by a context that the slot is granted to signals the fence once its stores are performed and returns the signal's status; FWAIT returns
the status of Table 10-5 where the fence has one, an acquire when it is 0, and otherwise blocks with its time-out; a slot that is not
granted raises cause 0x04 (R187, R188). -/
def Says.FenceInstructions : Prop :=
  (∀ (s : State) (p g : Nat) (w : InsnWord) (i : Iss), i.part ≠ 0 →
    let slot := bits (sGet i.gr w.a.toNat) 15 0
    let v := sGet i.gr w.b.toNat
    let mine := granted s slot (jobCtx s i.job)
    (Issued s p g w fsigLegal i →
      (mine = false → exec (.fsig p g w) s = .next (takeException s p g 4 i.pc 0 i.part))
      ∧ (mine = true → (i.gr.released = true ∨ NothingPending s p g (decide (mSCOPE w = 3))) →
          (∀ f, tfind s.fences slot = some f → f.home = none) → i.gr.block = .none →
          WritesScalar (exec (.fsig p g w) s) (signalFence s slot v false).1 i w.d.toNat (BitVec.ofNat 64 (signalFence s slot v false).2)))
    ∧ (Issued s p g w fwaitLegal i → i.set = alive i.gr →
      (mine = false → exec (.fwait p g w) s = .next (takeException s p g 4 i.pc 0 i.part))
      ∧ (mine = true → (∀ st, slotStatus s slot v = some st →
            WritesScalar (exec (.fwait p g w) s) (if st = 0 then nearInvalidateAt s p else s) i w.d.toNat (BitVec.ofNat 64 st))
          ∧ (slotStatus s slot v = none → Blocks (exec (.fwait p g w) s) s i (.fwait slot v w.d) (mTMO w)))))
  ∧ ∀ (f : Fence) (v : W64), fenceStatus f v =
      if f.state = 2 then some 2 else if f.state = 3 then some 3
      else if v.toNat ≤ f.value.toNat then some 0 else if f.state = 1 then some 1 else none

/-- Signals of fences, FSIG and FWAIT.
It rests on the model's own choices and readings in notes/assumptions/26.md, notes/assumptions/31.md. -/
def Obligations.FenceInstructions : Prop := Says.FenceSignals ∧ Says.FenceInstructions

/-- When a wait reaches its time-out, the group goes on with the time-out status of its instruction in s[d]: STRW and SEMA 2, CWAIT 3, FWAIT 4
(R190, Table 06-8); a short-attribute hold that reaches 20 µs loses the attribute (R186).
It rests on the model's own choices and readings in notes/assumptions/8.md. -/
def Obligations.WaitsEnd : Prop :=
  (∀ (s : State) (p g : Nat) (gr : Group) (due : Nat), p < 36 → g < 48 → groupOf s p g = some gr → gr.deadline = some due →
    let ends := fun (rd : BitVec 7) (st : Nat) =>
      Performs (exec (.waitTimeOut p g) s) fun t => t.now = max s.now due ∧ t.mem = s.mem ∧ t.fences = s.fences ∧ ∃ x, groupOf t p g = some x
        ∧ x.block = .none ∧ x.deadline = none ∧ x.v = gr.v ∧ x.p = gr.p
        ∧ (∀ r, sGet x r = if r = rd.toNat ∧ r ≠ 0 then BitVec.ofNat 64 st else sGet gr r)
        ∧ ∀ l, l < 32 → pcGet x l = if (alive gr).getLsbD l then pcGet gr l + 8 else pcGet gr l
    (∀ e q rd, gr.block = .strw e q rd → ends rd 2) ∧ (∀ n rd, gr.block = .sema n rd → ends rd 2)
    ∧ (∀ n q rd, gr.block = .cwait n q rd → ends rd 3) ∧ (∀ n v rd, gr.block = .fwait n v rd → ends rd 4))
  ∧ ∀ (s : State) (n : Nat) (x : Sema), n < 256 → tfind s.semas n = some x → x.holder.isSome = true → x.shortNow = true →
      Performs (exec (.semaShortExpiry n) s) fun t => t.now = max s.now (x.since + 20000)
        ∧ tfind t.semas n = some { x with shortNow := false } ∧ t.cores = s.cores ∧ t.mem = s.mem ∧ t.fences = s.fences

/-- A matrix-slot instruction whose operands pass its checks joins the matrix queue with the operand words, FRM, slot, job, program counter and
threads it has at issue, and moves on (R118, R175); MFLG reads its accumulator's flags once no earlier entry names it, and with CLR
clears them (R176). A shape outside its limits raises cause 0x01; an operand base or row pitch off a 64-byte boundary cause 0x02.
It rests on the model's own choices and readings in notes/assumptions/27.md. -/
def Obligations.MatrixIssue : Prop :=
  ∀ (s : State) (p g : Nat) (w : InsnWord) (i : Iss), i.part ≠ 0 →
    let aw := sGet i.gr w.a.toNat
    let bw := sGet i.gr w.b.toNat
    let cw := sGet i.gr w.c.toNat
    let c := coreOf s p
    let form := fun (op : MatOp) (k : Instr) (legal : Group → InsnWord → Bool) (rows : Nat) (words : List W64) =>
      Issued s p g w legal i → retired s p = false → queuedMat c < 4 → ∀ j, jobOf s i.job = some j →
        (matFault (jobRanges j) op w aw bw cw = none →
          Leaves (exec k s) (setCore s p { c with mat := c.mat ++ [{ op, w, aw, bw, cw, frm := i.gr.frm, slot := g, job := i.job,
                                                                     pc := i.pc, mask := i.part }] }) i)
        ∧ (shM cw = 0 ∨ rows < shM cw ∨ shN cw = 0 ∨ 64 < shN cw ∨ 4096 < shK cw →
          exec k s = .next (takeException s p g 1 i.pc 0 i.part))
        ∧ (matFault (jobRanges j) op w aw bw cw ≠ some (1, 0) → ∀ x ∈ words, owBase x % 64 ≠ 0 ∨ owStride x % 64 ≠ 0 →
          ∃ addr, exec k s = .next (takeException s p g 2 i.pc addr i.part))
    form .mldb (.mldb p g w) mldbLegal 64 [bw] ∧ form .mma (.mma p g w) mmaLegal 64 [aw, bw]
    ∧ form .mmv (.mmv p g w) mmvLegal 8 [aw, bw] ∧ form .mew (.mew p g w) mewLegal 64 [] ∧ form .mdrn (.mdrn p g w) mdrnLegal 64 [bw]
    ∧ (Issued s p g w mflgLegal i → (∀ e ∈ c.mat, w.a.toNat ∉ matAccs e) →
        WritesScalar (exec (.mflg p g w) s)
          (if w.md.getLsbD 0 then setCore s p { c with accFlags := tdel c.accFlags w.a.toNat } else s) i w.d.toNat
          ((tget 0 c.accFlags w.a.toNat).setWidth 64))

/-- MATRIX_START takes the next waiting entry into the array once a holding set is free and reads its operands, element by element, from the
local store (R114-R119); MATRIX_COMMIT commits a started entry whose group's earlier entries have committed (R138). Nothing else of
the core changes. -/
def Says.MatrixEntriesAdvance : Prop :=
  ∀ (s : State) (p k : Nat) (e : MatEntry), p < 36 →
    let c := coreOf s p
    c.mat[k]? = some e →
    (canStart c k = true → retired s p = false → firstBad c (readExtents e) = none →
      Performs (exec (.matrixStart p k) s) fun t => t.mem = s.mem ∧ (coreOf t p).acc = c.acc ∧ (coreOf t p).ls = c.ls ∧
        ∃ x, (coreOf t p).mat[k]? = some x ∧ x.phase = .started ∧ x.op = e.op ∧ x.w = e.w ∧ x.cw = e.cw
        ∧ (e.op = .mma ∨ e.op = .mmv → ∀ f, matFmt (mAFMT e.w) = some f → ∀ m < shM e.cw, ∀ j < shK e.cw,
            at2 x.a m j = readA c f e.aw m j)
        ∧ ((e.op = .mma ∧ mBSRC e.w = 0) ∨ e.op = .mmv → ∀ f, matFmt (mFMT e.w) = some f → ∀ j < shK e.cw, ∀ n < shN e.cw,
            at2 x.b j n = readB c f e.bw j n))
    ∧ (e.phase = .started ∨ e.phase = .checked → e.committed = false → (∀ x ∈ c.mat.take k, x.slot = e.slot → x.committed = true) →
      Performs (exec (.matrixCommit p k) s) fun t =>
        CountOnly (setCore s p { c with mat := modifyAt c.mat k fun e => { e with committed := true } }) t)

/-- MATRIX_CHECK without a fault of the array finds agreement: the entry is checked and holds its results, for MMA and MMV the exact block sums
onto the accumulator or onto zero; MATRIX_COMPLETE writes a committed, checked entry's results, flags and bytes and removes it (R116,
R129, R139). -/
def Says.MatrixResults : Prop :=
  ∀ (s : State) (p k : Nat) (e : MatEntry) (stuck : Bool), p < 36 →
    let c := coreOf s p
    c.mat[k]? = some e →
    (e.phase = .started → (∀ x ∈ c.mat.take k, x.phase = .checked) → retired s p = false → stuck = false ∨ injTests c e = 0 →
      Performs (exec (.matrixCheck p k { stuck }) s) fun t => t.mem = s.mem ∧ (coreOf t p).acc = c.acc ∧ (coreOf t p).ls = c.ls ∧
        ∃ x, (coreOf t p).mat[k]? = some x ∧ x.phase = .checked ∧ x.committed = e.committed
        ∧ (e.op = .mma ∨ e.op = .mmv → 0 < shK e.cw → shN e.cw ≤ 64 → ∀ m < shM e.cw, ∀ n < shN e.cw,
            let acc := if mACC e.w then accBits c k e.w.d.toNat m n else 0
            tfind x.result (64 * m + n) = some (BitVec.ofNat 32 ((matJob e).element none acc m n).1)))
    ∧ (e.phase = .checked → e.committed = true → (∀ x ∈ c.mat.take k, ∀ a ∈ matAccs x, a ∉ matAccs e) →
      Performs (exec (.matrixComplete p k) s) fun t =>
        ∃ acc flags ls, CountOnly (setCore s p { c with mat := removeAt c.mat k, acc := acc, accFlags := flags, ls := ls }) t
        ∧ ((e.result.map (·.1)).Nodup → ∀ r ∈ e.result, tget 0 acc (4096 * e.w.d.toNat + r.1) = r.2)
        ∧ ((e.out.map (·.1)).Nodup → ∀ r ∈ e.out, tget 0 ls r.1 = r.2)
        ∧ (∀ x, x ∉ e.result.map (fun r => 4096 * e.w.d.toNat + r.1) → tget 0 acc x = tget 0 c.acc x)
        ∧ (∀ x, x ∉ e.out.map (·.1) → tget 0 ls x = tget 0 c.ls x)
        ∧ ∀ a, tget 0 flags a = if (matAccs e).head? = some a then tget 0 c.accFlags a ||| e.flags else tget 0 c.accFlags a)

/-- Matrix entries start, commit, are checked and complete.
It rests on the model's own choices and readings in notes/assumptions/11.md, notes/assumptions/27.md. -/
def Obligations.MatrixExecution : Prop := Says.MatrixEntriesAdvance ∧ Says.MatrixResults

/-- A block of at most 64 products (R52-R54, R57): in an integer format the accumulator plus the exact sum, clamped to INT32 with the SAT flag;
in a floating format the exact sum with the accumulator, rounded once to binary32.
It rests on the model's own choices and readings in notes/assumptions/27.md. -/
def Obligations.MatrixBlockSums : Prop :=
  ∀ (j : MatJob) (acc m n : Nat), 0 < j.k → j.k ≤ 64 →
    let prod := fun k => intOf (j.av m k) * intOf (j.bv k n)
    let sum : Int := int32.val acc + ((List.range j.k).map prod).sum
    (j.int = true → j.element none acc m n =
      if sum < -2147483648 then (0x80000000, fSAT) else if 2147483647 < sum then (0x7FFFFFFF, fSAT) else (int32.enc sum, 0))
    ∧ (j.int = false → j.passes = [(false, false)] → j.fa ≠ .float binary32 → (∀ k < j.k, (j.av m k).special = false ∧ (j.bv k n).special = false) →
      ∀ sg mm ee, decodeF binary32 acc = .fin sg mm ee →
      let exact : Int := atWeight sg mm ee (-300) + ((List.range j.k).map fun k =>
        match j.av m k, j.bv k n with
        | .fin s x e, .fin t y g => atWeight (s != t) (x * y) (e + g) (-300)
        | _, _ => 0).sum
      (j.element none acc m n).1 = (roundInt binary32 .even false exact (-300) false).1)

/-- GROUP_LAUNCH places the next group of the core's oldest job that has one in the lowest free slot, at the young end of the launch list, with
the launch state of Table 03-5: s1 the argument address, s2 the group index, s3 the number of groups, s4 the logical core, s5 the base of
the first declared range, v0 of lane t the lane and the global thread number, FRM roundTiesToEven, no flag and no predicate set, every
thread at the entry address (R64, R65, R103). -/
def Says.GroupLaunch : Prop :=
  ∀ (s : State) (p j slot L : Nat) (x : Job), p < 36 → (coreOf s p).jobs.find? (wantsLaunch s p) = some j →
    freeSlot (coreOf s p) = some slot → logicalOf s p = some L → jobOf s j = some x → jobVregs x / 8 ≤ granFree (coreOf s p) →
    let n := x.nextGroup
    let c := coreOf s p
    (pkType x.words ≠ 2 → launchEntry x n = (BitVec.ofNat 64 (bits (pkW x 4) 47 0), BitVec.ofNat 64 (bits (pkW x 5) 47 0)))
    ∧ Performs (exec (.groupLaunch p) s) fun t =>
      (coreOf t p).order = c.order ++ [slot] ∧ (coreOf t p).launches = c.launches + 1 ∧ t.mem = s.mem
      ∧ jobOf t j = some { x with nextGroup := n + 1, liveGroups := x.liveGroups + 1 }
      ∧ (∀ k, k ≠ slot → groupOf t p k = groupOf s p k)
      ∧ ∃ gr, groupOf t p slot = some gr ∧ gr.job = j ∧ gr.index = n ∧ gr.age = c.launches ∧ gr.vregs = jobVregs x ∧ gr.frm = 1
        ∧ gr.block = .none ∧ gr.exited = 0 ∧ sGet gr 1 = (launchEntry x n).2 ∧ sGet gr 2 = BitVec.ofNat 64 n
        ∧ sGet gr 3 = BitVec.ofNat 64 x.groups ∧ sGet gr 4 = BitVec.ofNat 64 L ∧ sGet gr 5 = BitVec.ofNat 64 (firstRange x)
        ∧ (∀ r, 5 < r → sGet gr r = 0) ∧ (∀ r, r ≠ 0 → pGet gr r = 0)
        ∧ ∀ l, l < 32 → pcGet gr l = (launchEntry x n).1 ∧ flagsGet gr l = 0
          ∧ vGet gr 0 l = BitVec.ofNat 64 (l + (32 * n + l) % 2 ^ 32 * 2 ^ 32) ∧ ∀ r, r ≠ 0 → vGet gr r l = 0

/-- A boost marks the group in its issue slot (R74); a grant of R77 goes to the threads of the issue set that has waited longest; the arrival of
an instruction line unblocks the group that missed (R152); a page walk that finds a leaf with the permission installs the translation
and unblocks the group, and one that ends in a fault leaves the cause to the waiting instruction (R260, R262). -/
def Says.GroupEvents : Prop :=
  ∀ (s : State) (p g : Nat) (gr : Group), p < 36 → g < 48 → groupOf s p g = some gr →
    (∀ cls, cls < 4 → gr.block = .none →
      exec (.ageBoost p g cls) s = .next (setGroup s p g { gr with boost := gr.boost ||| BitVec.ofNat 4 (2 ^ cls) }))
    ∧ (fwdThreshold (coreOf s p) ≤ gr.issueRun → ∀ u ∈ lanesOf (candidates gr &&& ~~~ gr.lastSet),
        (∀ l ∈ lanesOf (candidates gr &&& ~~~ gr.lastSet),
          tget 0 gr.lastIssue u < tget 0 gr.lastIssue l ∨ (tget 0 gr.lastIssue u = tget 0 gr.lastIssue l ∧ u ≤ l)) →
        exec (.forwardProgressGrant p g) s = .next (setGroup s p g { gr with granted := some (pcGet gr u), issueRun := 0 }))
    ∧ (∀ va pa na, gr.block = .fetch va → xlate s p (jobTag s gr.job) va.toNat .x = .ok pa na → poisoned s pa = false →
        Performs (exec (.icacheFill p g) s) fun t => t.mem = s.mem ∧ t.jobs = s.jobs
          ∧ (jobTag s gr.job, va.toNat / 128) ∈ (coreOf t p).icache
          ∧ groupOf t p g = some { gr with block := .none })
    ∧ ∀ va perm, gr.block = .walk va perm →
      let tag := jobTag s gr.job
      let ce := coreEntry s p tag
      let s1 := pmcCore (pmcCore s p 0x23 1) p 0x24 1
      (coreOf s p).walks = [] → ctV ce = true →
      (∀ level e at_, walkFrom s1 ce va.toNat 3 (ctRoot ce) = .leaf level e at_ → grants (pteAttr e) perm = true →
        Performs (exec (.pageWalk p g) s) fun t => t.mem = s.mem ∧ groupOf t p g = some { gr with block := .none }
          ∧ ∃ y, tlbFind (coreOf t p) tag va.toNat = some y ∧ y.attr = pteAttr e ∧ y.level = level)
      ∧ (∀ f, walkFrom s1 ce va.toNat 3 (ctRoot ce) = .fault f → f.kind ≠ 4 →
        Performs (exec (.pageWalk p g) s) fun t => t.mem = s.mem
          ∧ groupOf t p g = some { gr with block := .none, xfault := some (va.toNat / 0x1000, f.cause) })

/-- Group launch, boost, instruction arrival and page walks.
It rests on the model's own choices and readings in notes/assumptions/4.md, notes/assumptions/18.md, notes/assumptions/32.md. -/
def Obligations.GroupsOfACore : Prop := Says.GroupLaunch ∧ Says.GroupEvents

/-- A line that the core has asked for arrives and is installed with what waits in the merging buffer over it; a load that waits for it alone
completes with the bytes of memory (R84, R86, R549). The oldest waiting entry of the merging buffer drains: memory takes its bytes and
no others (R85). An acknowledgement frees the oldest drained entry, and a release that waited for it alone is over (R93).
It rests on the model's own choices and readings in notes/assumptions/10.md, notes/assumptions/24.md. -/
def Obligations.CacheAndBufferEvents : Prop :=
  (∀ (s : State) (p line : Nat) (f : Fill), p < 36 → line % 128 = 0 → (coreOf s p).fills.find? (fun f => f.line == line) = some f →
    f.stale = false → poisoned s line = false → nearWay (coreOf s p) line = none →
    let c := coreOf s p
    (waitingFor s p line = [] → Performs (exec (.nearCacheFill p line) s) fun t => t.mem = s.mem ∧ (coreOf t p).groups = c.groups
      ∧ (∀ f ∈ (coreOf t p).fills, f.line ≠ line)
      ∧ ∀ k < 128, nearByte (coreOf t p) (line + k) = some ((mergeByte c (line + k)).getD (memByte s (line + k))))
    ∧ ∀ g gr l, waitingFor s p line = [(g, l)] → groupOf s p g = some gr → l.missing = [line] → l.atomic = false → l.scalar = false →
      acquireWord l.w = false → (∀ k < 128, mergeByte c (line + k) = none) →
      (∀ a ∈ l.addrs, a.1 < 32 ∧ line ≤ a.2 ∧ a.2 + mSIZE l.w ≤ line + 128) → (l.addrs.map (·.1)).Nodup →
      Performs (exec (.nearCacheFill p line) s) fun t => t.mem = s.mem ∧ ∃ x, groupOf t p g = some x ∧ x.block = .none ∧ x.pc = gr.pc
        ∧ x.s = gr.s ∧ x.p = gr.p
        ∧ ∀ a ∈ l.addrs, vGet x l.w.d.toNat a.1 = extend (mSX l.w) (mSIZE l.w) (memNat s a.2 (mSIZE l.w)))
  ∧ (∀ (s : State) (p : Nat) (e : MergeEntry), p < 36 → (openEntries (coreOf s p)).head? = some e → groupTagsFree s p ≠ 0 →
    Performs (exec (.mergeBufferDrain p false) s) fun t =>
      (∀ o ∈ e.mask, memByte t (e.line + o) = tget 0 e.bytes o)
      ∧ (∀ a, (∀ o ∈ e.mask, a ≠ e.line + o) → memByte t a = memByte s a)
      ∧ (coreOf t p).groups = (coreOf s p).groups
      ∧ (coreOf t p).merge = (coreOf s p).merge.map fun x => if x.serial = e.serial then { x with sent := true } else x)
  ∧ ∀ (s : State) (p : Nat) (e : MergeEntry), p < 36 → (coreOf s p).merge.find? (fun e => e.sent) = some e →
    Performs (exec (.mergeBufferAck p) s) fun t => t.mem = s.mem
      ∧ (coreOf t p).merge = (coreOf s p).merge.filter (fun x => x.serial != e.serial)
      ∧ ∀ g gr, groupOf s p g = some gr → groupOf t p g = some (
          if gr.block = .release [e.serial] [] then { gr with block := .none, released := true } else ackRelease gr (some e.serial) none)

/-- An engine begins the tile in hand once its cadence wait is over and every page is translated (R210, R213); when the tile lands, the bytes of
a load are in the local store, and the transfer goes on to its next tile or, after its last, completes with its sequence number
(R178, R202). The prefetch of translations holds only pages that have a mapping (R209), and the patrol goes on to the next of 4,096 rows,
keeping every multi-bit error it has found (R198).
It rests on the model's own choices and readings in notes/assumptions/11.md, notes/assumptions/30.md. -/
def Obligations.StreamEngineEvents : Prop :=
  (∀ (s : State) (p e : Nat) (t : Transfer) (rest : List Transfer) (j : Job), p < 36 → e < 4 →
    (engOf (coreOf s p) e).queue = t :: rest → jobOf s t.job = some j →
    let c := coreOf s p
    (t.started = false → j.phase = .running → ∀ tr, tileCheck s p t = .ok tr → spokePages tr = [] →
      (tileWait s t = .load 0 →
        Performs (exec (.tileStart p e) s) fun u => u = setCore s p (setEng c e (setFront (engOf c e) { t with
          started := true, trans := tr, relFrame := BitVec.ofNat 32 (posFrame (sourcePos s (dCsrc t.desc))) })))
      ∧ (tileWait s t = .wait → exec (.tileStart p e) s = .next s))
    ∧ (t.started = true → engWaits s p e = false →
      (t.tile + 1 < dCount t.desc → Performs (exec (.tileLanded p e) s) fun u =>
        (engOf (coreOf u p) e).queue = { t with landed := t.landed + 1, tile := t.tile + 1, started := false, trans := []
                                                frame := t.relFrame } :: rest
        ∧ (dOp t.desc = 1 → (coreOf u p).ls = c.ls) ∧ (dOp t.desc ≠ 1 → u.mem = s.mem)
        ∧ (dOp t.desc = 0 → ((tileBytes t.desc t.tile).map (·.2)).Nodup → ∀ x ∈ tileBytes t.desc t.tile,
            lsByte (coreOf u p) x.2 = match x.1 with | .dev a => heldByte s t.trans a | .const b => b))
      ∧ (dCount t.desc ≤ t.tile + 1 → rest = [] → (engOf c e).failed = [] → (∀ g gr, groupOf s p g = some gr → ∀ n q rd, gr.block ≠ .strw n q rd) →
        Performs (exec (.tileLanded p e) s) fun u => (engOf (coreOf u p) e).queue = []
          ∧ (engOf (coreOf u p) e).last = (engOf c e).next - 1 ∧ (engOf (coreOf u p) e).any = true)))
  ∧ (∀ (s : State) (p e : Nat), p < 36 → e < 4 → (engOf (coreOf s p) e).queue ≠ [] →
    Performs (exec (.translationPrefetch p e) s) fun u => ∃ held,
      u = setCore s p (setEng (coreOf s p) e { engOf (coreOf s p) e with ahead := held })
      ∧ ∀ y ∈ held, ∀ f, rangeXlate s p y.1 (y.2 * 0x1000) .r = .error f → f.kind = 2)
  ∧ ∀ (s : State) (p : Nat) (hits : List EccHit), p < 36 → bits (coreOf s p).strCfg 7 0 ≠ 0 →
    Performs (exec (.lsScrub p hits) s) fun u => (coreOf u p).scrubRow = ((coreOf s p).scrubRow + 1) % 4096 ∧ u.mem = s.mem
      ∧ (coreOf u p).ls = (coreOf s p).ls ∧ (coreOf u p).groups = (coreOf s p).groups
      ∧ (∀ w ∈ (coreOf s p).lsBad, w ∈ (coreOf u p).lsBad)
      ∧ ∀ h ∈ hits, h.multi = true → (coreOf s p).scrubRow * 64 + h.bank % 64 ∈ (coreOf u p).lsBad

/-- The channel controllers (08): a window ends at the next full microsecond with the lines served, at most 300 for each pseudo-channel, and
counts each demand above its guarantee (R231, R233); the patrol reads its next line and goes on (R230); a read of a clean line changes
nothing, a single-bit error is counted, and a multi-bit error poisons the line and is recorded (R228, R229). -/
def Says.MemoryChannels : Prop :=
  (∀ (s : State) (c : Nat) (v : WindowInput), c < 32 →
    let late := fun d cls => if cls = 0 then decide (256 < d) else if cls = 1 then decide (128 < d) else false
    let n := (if late v.demand0 v.class0 then 1 else 0) + (if late v.demand1 v.class1 then 1 else 0)
    Performs (exec (.memWindow c v) s) fun t => t.now = (s.now / 1000 + 1) * 1000 ∧ t.mem = s.mem ∧ t.cores = s.cores ∧ t.poison = s.poison
      ∧ rget t (0x10 + c) 0x108 = BitVec.ofNat 32 (min v.served1 300 * 2 ^ 16 + min v.served0 300)
      ∧ (rget t (0x10 + c) 0x10C).toNat = min 0xFFFFFFFF ((rget s (0x10 + c) 0x10C).toNat + n))
  ∧ (∀ (s : State) (c pc i : Nat), c < 32 → pc < 2 → pcOwner s (2 * c + pc) = some i → bit s.trained c = true →
    rbits s (0x10 + c) 0x100 18 16 ≠ 0 →
    let x := chanRec s c
    let l := if pc = 0 then x.patrol0 else x.patrol1
    poisoned s (pcLine s i (2 * c + pc) l) = false →
    Performs (exec (.memPatrol c pc .clean) s) fun t => CountOnly (setChan s c
      (if pc = 0 then { x with patrol0 := (l + 1) % 0x600000 } else { x with patrol1 := (l + 1) % 0x600000 })) t)
  ∧ ∀ (s : State) (line rq i pc : Nat), line < 0xC00000000 → rq < 64 → line % 128 = 0 → partAt s line = some i → pcAt s line = some pc →
    bit s.trained (pc / 2) = true → noMajority s (0x10 + pc / 2) 0x100 0 (8 * (pc % 2)) = false → poisoned s line = false →
    (Performs (exec (.hbmRead line rq .clean) s) fun t => CountOnly s t)
    ∧ (Performs (exec (.hbmRead line rq .single) s) fun t => t.mem = s.mem ∧ t.poison = s.poison ∧
        rbits t (0x10 + pc / 2) 0x110 19 0 = min 0xFFFFF (rbits s (0x10 + pc / 2) 0x110 19 0 + 1))
    ∧ (pc < 64 → infoHeld s (0x10 + pc / 2) 0x114 = false → i < 8 → Performs (exec (.hbmRead line rq .multi) s) fun t => t.mem = s.mem ∧ poisoned t line = true
        ∧ rget t (0x10 + pc / 2) 0x114 = BitVec.ofNat 32 (0x80000000 + pc % 2 * 2 ^ 29 + i * 2 ^ 26 + 2 ^ 24)
        ∧ (chanRec t (pc / 2)).errAddr = line ∧ (chanRec t (pc / 2)).errReq = rq)

/-- The system-cache slices (08): a hit wakes the slice and marks the line dirty for a write without the no-allocate attribute and for an
atomic, a whole write clearing its poison mark (R229, R241); a miss allocates in a way of its partition that is invalid (R240, R241); an
eviction entry drains in two steps (R242); a flush lets its ways accept nothing and drops their clean lines, and its end leaves them
empty (R243). Memory keeps its contents. -/
def Says.CacheSlices : Prop :=
  (∀ (s : State) (line part : Nat) (v : LookupInput), line < 0xC00000000 → part < 8 → line % 128 = 0 → v.err = .clean →
    let n := sliceOf line
    let x := sliceRec s n
    let set := sliceSet line
    (∀ w l, sliceWay x line = some w → sliceAt x set w = some l →
      Performs (exec (.sliceLookup line part v) s) fun t => t.mem = s.mem ∧ (sliceRec t n).idle = false
        ∧ sliceAt (sliceRec t n) set w = some { l with
            dirty := if v.atomic then true else if v.write then !v.na else l.dirty
            poison := l.poison && !(v.write && v.whole) }
        ∧ (v.write = true → v.whole = true → poisoned t line = false))
    ∧ (∀ w, w < 16 → sliceWay x line = none → (x.evict.find? fun e => e.line == line) = none → v.na = false ∨ v.atomic = true → x.flush = none →
      wayOwner s n w = part → noMajority s (0x30 + n) (if w < 8 then 0x100 else 0x104) 0 (4 * (w % 8)) = false →
      (∀ l, sliceAt x set w = some l → l.valid = false) →
      Performs (exec (.sliceLookup line part v) s) fun t => t.mem = s.mem ∧ (sliceWay (sliceRec t n) line).isSome = true))
  ∧ (∀ (s : State) (n : Nat), n < 16 →
    let x := sliceRec s n
    exec (.sliceIdle n) s = .next (setSlice s n { x with idle := true })
    ∧ (∀ k e, k < 32 → x.evict[k]? = some e →
      (e.begun = false → exec (.evictionDrain n k) s = .next (setSlice s n { x with evict := modifyAt x.evict k fun e => { e with begun := true } }))
      ∧ (e.begun = true → Performs (exec (.evictionDrain n k) s) fun t => CountOnly (setSlice s n { x with evict := removeAt x.evict k }) t))
    ∧ (∀ ways : BitVec 16, x.flush = none → Performs (exec (.flush n ways) s) fun t => t.mem = s.mem ∧ (sliceRec t n).flush = some ways
        ∧ rget t (0x30 + n) 0x10C = ways.setWidth 32
        ∧ ∀ set w l, w < 16 → sliceAt x set w = some l → sliceAt (sliceRec t n) set w
            = some (if ways.getLsbD w = true ∧ l.dirty = false then { l with valid := false } else l))
    ∧ ∀ ways, x.flush = some ways → Performs (exec (.flushEnd n) s) fun t => t.mem = s.mem ∧ (sliceRec t n).flush = none
        ∧ (rget t (0x30 + n) 0x10).getLsbD 1 = true
        ∧ ∀ set w l, w < 16 → sliceAt x set w = some l → sliceAt (sliceRec t n) set w
            = some (if ways.getLsbD w = true then { l with valid := false, dirty := false } else l))

/-- The channel controllers and the system-cache slices.
It rests on the model's own choices and readings in notes/assumptions/10.md, notes/assumptions/11.md, notes/assumptions/33.md. -/
def Obligations.MemoryChannelsAndSlices : Prop := Says.MemoryChannels ∧ Says.CacheSlices

/-- The translation block (09): a table write stores the 128 bits of XLT_CTX_D0-D3 as the tag's entry and a table read brings the entry into the
mailbox (R252, R276); an invalidation that starts leaves no TLB entry, walk-cache entry, held table entry or range-cache entry of its tag
in any unit, and its end shows in DONE_TAG, XLT_INV_SEQ and INV_DONE (R268, R269); a fill installs the range entry that covers its
address (R258).
It rests on the model's own choices and readings in notes/assumptions/14.md, notes/assumptions/18.md. -/
def Obligations.TranslationBlock : Prop :=
  (∀ (s : State) (tag : BitVec 12), let d := fun k => (rget s 0x40 (0x100 + 4 * k)).toNat
    Performs (exec (.ctxTableWrite tag) s) (fun t => t.mem = s.mem ∧ t.cores = s.cores
      ∧ ∀ n, ctxEntry t n = if n = tag.toNat then BitVec.ofNat 128 (d 0 + d 1 * 2 ^ 32 + d 2 * 2 ^ 64 + d 3 * 2 ^ 96) else ctxEntry s n)
    ∧ Performs (exec (.ctxTableRead tag) s) (fun t => t.ctxRead = ctxEntry s tag.toNat ∧ t.ctxTab = s.ctxTab ∧ t.mem = s.mem
      ∧ rget t 0x40 0x110 = BitVec.ofNat 32 (2 ^ 30 + tag.toNat))
    ∧ (s.invRun = none → s.invQueue = [] → Performs (exec (.tagInvalidation tag) s) fun t =>
      t.invRun = some tag.toNat ∧ t.invQueue = [] ∧ t.mem = s.mem ∧ rget t 0x40 0x114 = tag.setWidth 32
      ∧ ∀ p c, tfind t.cores p = some c → (∀ e ∈ c.tlb1 ++ c.tlb2, e.tag ≠ tag.toNat) ∧ (∀ e ∈ c.walks, e.tag ≠ tag.toNat)
          ∧ tfind c.held tag.toNat = none)
    ∧ (∀ r, s.invRun = some r → tag.toNat ∉ s.invQueue → s.invQueue.length < 8 → Performs (exec (.tagInvalidation tag) s) fun t =>
      t.invRun = some r ∧ t.invQueue = s.invQueue ++ [tag.toNat] ∧ t.cores = s.cores))
  ∧ (∀ (s : State) (r : Nat), s.invRun = some r → s.invQueue = [] → tagInFlight s r = false →
    Performs (exec .invalidationComplete s) fun t => t.invRun = none ∧ t.doneTag = r ∧ t.mem = s.mem
      ∧ rget t 0x40 0x11C = rget s 0x40 0x11C + 1 ∧ (rget t 0x40 0x10).getLsbD 0 = true)
  ∧ ∀ (s : State) (unit : Nat) (tag : BitVec 12) (va : W64) (k : Nat) (w0 w1 : W64), unit < 36 ∨ (0x120 ≤ unit ∧ unit < 0x140) →
    ctV (ctxEntry s tag.toNat) = true → (∀ k < 8, poisoned s (ctRtb (ctxEntry s tag.toNat) + 128 * k) = false) →
    rangeFind s (ctRtb (ctxEntry s tag.toNat)) va.toNat = some (k, w0, w1) →
    Performs (exec (.rangeCacheFill unit tag va) s) fun t => t.mem = s.mem
      ∧ rangeCached t unit tag.toNat va.toNat = some { tag := tag.toNat, index := k, w0, w1 }
      ∧ (tget [] t.rangeCache unit).length ≤ 32

/-- A completion of PCIe brings the bytes of a host-window access, which completes the load that waits for them (R264); an Unsupported Request
or a Completer Abort raises cause 0x04 in its group, and a poisoned completion stops its job, which completes with status 0x03 when it
may not be restarted (R135, R229). -/
def Says.HostCompletions : Prop :=
  ∀ (s : State) (vi addr p g : Nat) (data : List Byte) (gr : Group) (l : PendLoad) (x : Job), vi < 64 → isHost addr = true →
    (addr - hostBase) / hostSize = vi → windowWaiter s addr = some (p, g, l) → groupOf s p g = some gr →
    jobOf s gr.job = some x → x.phase = .running →
    Completes (exec (.hostCompletion vi addr .ok data) s) s p g gr l addr ((List.range (mSIZE l.w)).map fun k => data.getD k 0)
    ∧ (∀ st, st = .unsupported ∨ st = .abort → Excepts (exec (.hostCompletion vi addr st data) s) s p g 4 l.pc (BitVec.ofNat 64 addr) (lanesAt l addr))
    ∧ (pkRestart x.words = false → Performs (exec (.hostCompletion vi addr .poisoned data) s) fun t =>
        ∃ y, jobOf t gr.job = some y ∧ y.phase = .ended 3 0)

/-- A peer's access that its inbound window accepts (R266, R421, R422): a read is answered with the bytes at BASE + OFFSET, a write stores its
data there, and no other byte, and is acknowledged; one that the window refuses is answered by an error response with the cause and
recorded as an inbound refusal. A packet with an unassigned code is answered with cause 0x04; one for another device is forwarded over
the link of its route, or answered with cause 0x03 (R412, R421). -/
def Says.AccessesOfPeers : Prop :=
  ∀ (s : State) (a : RemotePacket) (link : Nat), a.win < 16 → a.srcWin < 16 → link < 8 → (linkOf s link).state = 3 →
    (routeOf s a.src = some link → packetCodesOk a = true → a.op ≤ 2 → a.dst = ownId s →
      ∀ c, c = Instr.inboundAccess a ∨ c = Instr.remoteRequest link a →
      let answer := fun op cause data => { op := op, vc := 1, src := ownId s, dst := a.src, len := ceilDiv (List.length data) 16, tag := a.tag,
                                           cause := cause, data := data : RemotePacket }
      (∀ pa, inboundCheck s a = .ok pa →
        (a.op = 0 → CanSend s link (1 + a.len) 1 → Performs (exec c s) fun t => t.mem = s.mem
          ∧ Sends s t link (1 + a.len) (answer 3 0 (memRead s pa (16 * a.len))))
        ∧ (a.op = 1 → a.data.length = 16 * a.len → CanSend s link 1 1 → Performs (exec c s) fun t => memRead t pa (16 * a.len) = a.data
          ∧ (∀ b, b < pa ∨ pa + 16 * a.len ≤ b → memByte t b = memByte s b) ∧ Sends s t link 1 (answer 4 0 []))
        ∧ (a.op = 2 → CanSend s link 2 1 →
          let size := if (Config.atomicSlot a.data).1 then 8 else 4
          let operand := fun v => v % 2 ^ (8 * size)
          let old := memNat s pa size
          Performs (exec c s) fun t => memNat t pa size = operand (atomicNew a.aop size old (operand (Config.atomicSlot a.data).2.1)
              (operand (Config.atomicSlot a.data).2.2))
            ∧ (∀ b, b < pa ∨ pa + size ≤ b → memByte t b = memByte s b) ∧ Sends s t link 2 (answer 3 0 (natLe size old))))
      ∧ ∀ cause, inboundCheck s a = .error cause → CanSend s link 1 1 → infoHeld s 0x41 0x100 = false → cause ≤ 4 →
          Performs (exec c s) fun t => t.mem = s.mem ∧ Sends s t link 1 (answer 8 cause [])
            ∧ rget t 0x41 0x100 = BitVec.ofNat 32 (2 ^ 31 + 5 * 2 ^ 27 + (0x2F + link) * 2 ^ 18))
    ∧ (packetCodesOk a = false → CanSend s link 1 1 → Performs (exec (.remoteRequest link a) s) fun t => t.mem = s.mem
        ∧ Sends s t link 1 { op := 8, vc := 1, src := ownId s, dst := a.src, tag := a.tag, cause := 4 })
    ∧ (packetCodesOk a = true → a.op ≤ 2 → a.dst ≠ ownId s →
        (∀ n, routeOf s a.dst = some n → (linkOf s n).state = 3 → a.vc = 0 → CanSend s n (if a.op = 0 then 1 else 1 + a.len) 0 →
          Performs (exec (.remoteRequest link a) s) fun t => t.mem = s.mem ∧ Sends s t n (if a.op = 0 then 1 else 1 + a.len) a)
        ∧ (routeOf s a.dst = none → CanSend s link 1 1 → Performs (exec (.remoteRequest link a) s) fun t => t.mem = s.mem
            ∧ Sends s t link 1 { op := 8, vc := 1, src := ownId s, dst := a.src, tag := a.tag, cause := 3 }))

/-- Remote accesses of this device (R422, R423): a response completes the load that waits for it, an acknowledgement ends the write, an error
response raises its cause in the group; a late one is counted in SPK_TMO_CNT. An access without an answer within RTO of its sending
ends as a time-out, which is counted and stops its job (R229). -/
def Says.RemoteAnswers : Prop :=
  ∀ (s : State) (link : Nat) (a : RemotePacket) (r : RemoteAcc) (gr : Group) (x : Job), link < 8 → (linkOf s link).state = 3 →
    a.reserved = false → a.dst = ownId s → groupOf s r.core r.slot = some gr → gr.job = r.job → r.slot < 48 → r.core < 36 →
    jobOf s r.job = some x → x.phase = .running →
    (a.op = 3 ∨ a.op = 4 ∨ a.op = 8 → remoteAt s link a.tag = none → Performs (exec (.remoteResponse link a) s) fun t =>
      rget t (0x210 + link) 0x110 = BitVec.ofNat 32 (min 0xFFFFFFFF ((rget s (0x210 + link) 0x110).toNat + 1)) ∧ t.cores = s.cores ∧ t.mem = s.mem)
    ∧ (remoteAt s link a.tag = some r →
      (a.op = 3 → r.kind = 0 → ∀ l, l.missing.contains r.pa = true → r.size = mSIZE l.w → Completes (exec (.remoteResponse link a) s) s r.core r.slot gr l r.pa
        ((List.range r.size).map fun k => a.data.getD k 0))
      ∧ (a.op = 4 → r.kind = 1 → (∀ sr tg, gr.block ≠ .release sr tg) → Performs (exec (.remoteResponse link a) s) fun t =>
          t.remotes = removeFirst (fun y => y == r) s.remotes ∧ t.mem = s.mem ∧ groupOf t r.core r.slot = some gr)
      ∧ (a.op = 8 → 1 ≤ a.cause → a.cause ≤ 8 → ∀ l, remoteLoad s r = some l →
          Excepts (exec (.remoteResponse link a) s) s r.core r.slot a.cause l.pc (BitVec.ofNat 64 r.pa) (lanesAt l r.pa)))
    ∧ ((s.remotes.find? fun y => y.tag == a.tag) = some r → r.link < 8 → pkRestart x.words = false →
        Performs (exec (.remoteTimeout a.tag) s) fun t => s.now ≤ t.now ∧ r.since + rbits s (0x210 + r.link) 0x100 15 0 * 1000 ≤ t.now
          ∧ rget t (0x210 + r.link) 0x110 = BitVec.ofNat 32 (min 0xFFFFFFFF ((rget s (0x210 + r.link) 0x110).toNat + 1))
          ∧ ∃ y, jobOf t r.job = some y ∧ y.phase = .ended 3 0)

/-- Host completions, accesses of peers and remote answers.
It rests on the model's own choices and readings in notes/assumptions/11.md, notes/assumptions/34.md, notes/assumptions/35.md. -/
def Obligations.RemoteAccesses : Prop := Says.HostCompletions ∧ Says.AccessesOfPeers ∧ Says.RemoteAnswers

/-- A doorbell write of QUE_TAIL by the function that holds the queue (R281, R307): from the tail forward by less than 2^31 and no farther than
the ring holds behind the head it is stored; any other write leaves the tail, is counted in ERR_CNT and sets REFUSED; while the queue's
context is DYING it is only counted. -/
def Says.Doorbells : Prop :=
  ∀ (s : State) (fn q : Nat) (v : W32) (x : Queue) (c : Context), fn < 64 → q < 1024 → s.boot.up = true → fnAnswers s fn = true →
    queueVi s q = some fn → tfind s.queues q = some x → ctxOf s x.ctx = some c →
    let pg := 0x400 + q
    let tail := rget s pg 0x104
    let inRing := 0 < (v - tail).toNat ∧ (v - tail).toNat < 2 ^ 31 ∧ (v - x.head).toNat ≤ 2 ^ x.log2
    Performs (exec (.queTailWrite fn q v) s) fun t => t.queues = s.queues ∧ t.jobs = s.jobs ∧ t.mem = s.mem
      ∧ rget t pg 0x104 = (if c.state ≠ .dying ∧ inRing then v else tail)
      ∧ rbits t pg 0x14 15 0 = (if c.state ≠ .dying ∧ inRing then rbits s pg 0x14 15 0 else min 0xFFFF (rbits s pg 0x14 15 0 + 1))
      ∧ (c.state ≠ .dying → ¬ inRing → (rget t pg 0x10).getLsbD 2 = true)

/-- PACKET_FETCH takes the packet at the head of a ring (R281-R285, R552): a well-formed one with a new SEQ becomes a job, ready at once if it
waits for nothing; one of a LOST context, a malformed one and one whose SEQ is refused become none, and their completion record says
0x02, 0x05 or 0x06 (Table 10-4); a poisoned one stops the queue with QUE_ERR. -/
def Says.PacketFetches : Prop :=
  ∀ (s : State) (q : Nat) (x : Queue) (c : Context), q < 1024 → tfind s.queues q = some x → ctxOf s x.ctx = some c → c.state ≠ .dying →
    x.stopped = false → tailOf s q ≠ x.head → (s.jobs.any fun j => j.2.queue == q && j.2.phase == .waiting) = false →
    let pa := x.ringPa + 64 * (x.head.toNat % 2 ^ x.log2)
    let w := (List.range 8).map fun k => BitVec.ofNat 64 (memNat s (pa + 8 * k) 8)
    let good := packetOk s x.ctx c.part c.tag w
    (poisoned s pa = true → Performs (exec (.packetFetch q) s) fun t => tfind t.queues q = some { x with stopped := true }
      ∧ t.jobs = s.jobs ∧ (rget t (0x400 + q) 0x10).getLsbD 3 = true)
    ∧ (poisoned s pa = false → c.state = .live → good = true → seqOk x (pkSeq w) = true → s.doomed.contains (q, pkSeq w) = false →
      Performs (exec (.packetFetch q) s) fun t => t.mem = s.mem ∧ t.nextJob = s.nextJob + 1
        ∧ tfind t.queues q = some { x with head := x.head + 1, lastSeq := some (pkSeq w), accepted := x.accepted ++ [(pkSeq w, false)] }
        ∧ ∃ j, jobOf t s.nextJob = some j ∧ j.queue = q ∧ j.ctx = x.ctx ∧ j.seq = pkSeq w ∧ j.words = w
          ∧ (pkWaiten w = false → pkOrder w = false → j.phase = .ready s.now)
          ∧ (pkWaiten w = true → slotStatus s (pkWslot w) (pkWval w) = none → j.phase = .waiting)
          ∧ (pkWaiten w = true → ∀ n, slotStatus s (pkWslot w) (pkWval w) = some n → n ≠ 0 → j.phase = .ended 7 0))
    ∧ ∀ status, poisoned s pa = false →
      (c.state = .lost ∧ status = 2) ∨ (c.state = .live ∧ good = false ∧ status = 5)
        ∨ (c.state = .live ∧ good = true ∧ seqOk x (pkSeq w) = false ∧ status = 6) →
      Performs (exec (.packetFetch q) s) fun t => t.nextJob = s.nextJob ∧ (∃ y, tfind t.queues q = some y ∧ y.head = x.head + 1)
        ∧ ∀ at_, pkCpl w ≠ 0 → rangeCovers s c.tag (pkCpl w) 16 true = some at_ → memRead t at_ 16 = recordBytes s q (pkSeq w) status 0

/-- Doorbell writes and the fetching of packets.
It rests on the model's own choices and readings in notes/assumptions/41.md. -/
def Obligations.QueuesAndPackets : Prop := Says.Doorbells ∧ Says.PacketFetches

/-- The dispatcher of a partition chooses, of the jobs that stand ready at the heads of their queues and whose cores no other job keeps, one that
none of the others comes before: by priority, then by the time since which it is ready, then by the number of its queue (R325).
It rests on the model's own choices and readings in notes/assumptions/42.md. -/
def Obligations.DispatcherOrder : Prop :=
  ∀ (s : State) (part : Nat),
    (candidatesOf s part = [] ↔ bestJob s part = none)
    ∧ ∀ j, bestJob s part = some j → j ∈ candidatesOf s part ∧ ∀ k ∈ candidatesOf s part, beats s k j = false

/-- JOB_START starts the chosen job (R325, R335): a MARKER, GRAPH or PREFETCH on no core; a KERNEL, DRAW or TRANSFER on the open cores of its mask,
each of which loses its near cache and instruction cache, and, when it was idle, the accumulators, and the local store of another
context (R87, R104, R106, R152); one whose mask names only withdrawn cores ends with status 0x03. -/
def Says.JobStarts : Prop :=
  ∀ (s : State) (part j : Nat) (x : Job), part < 8 → s.rel.owed = [] → partialJobs s part = [] → bestJob s part = some j → jobOf s j = some x →
    (pkType x.words = 0 ∨ pkType x.words = 4 ∨ pkType x.words = 5 → Performs (exec (.jobStart part) s) fun t =>
      jobOf t j = some { x with phase := .started, startAt := s.now, cores := [] } ∧ t.cores = s.cores ∧ t.mem = s.mem)
    ∧ (pkType x.words = 1 ∨ pkType x.words = 2 ∨ pkType x.words = 3 →
      (jobTargets s x = [] → Performs (exec (.jobStart part) s) fun t => ∃ y, jobOf t j = some y ∧ y.words = x.words ∧ y.phase = .ended 3 0)
      ∧ (jobTargets s x ≠ [] → (∀ L ∈ jobTargets s x, coreOpen s x.ctx L = true) → Performs (exec (.jobStart part) s) fun t =>
          t.mem = s.mem ∧ jobOf t j = some { x with phase := .started, startAt := s.now, cores := (jobTargets s x).filterMap (physOf s) }
          ∧ ∀ L ∈ jobTargets s x, ∀ p, physOf s L = some p →
            j ∈ (coreOf t p).jobs ∧ (∀ a, nearByte (coreOf t p) a = none) ∧ (coreOf t p).icache = [] ∧ (coreOf t p).lsOwner = some x.ctx
            ∧ ((coreOf s p).jobs = [] → (coreOf t p).acc = [] ∧ ((coreOf s p).lsOwner ≠ some x.ctx → ∀ a, lsByte (coreOf t p) a = 0))))

/-- What the jobs do once they have started (Table 10-2): a MARKER ends; a KERNEL's groups may launch, unless its register count is none of R69,
which ends it with cause 0x0B (R70); a TRANSFER becomes the copy of its core, done at once with length 0 (R553). -/
def Says.JobWork : Prop :=
  ∀ (s : State) (j : Nat) (x : Job), jobOf s j = some x → x.phase = .started →
    let ends := fun (t : State) st cause => ∃ y, jobOf t j = some y ∧ y.words = x.words ∧ y.phase = .ended st cause
    (pkType x.words = 0 → Performs (exec (.marker j) s) fun t => ends t 0 0)
    ∧ (pkType x.words = 1 → ∀ p ps, x.cores = p :: ps →
        let vregs := bits (pkW x 4) 55 48
        let fits := 8 ≤ vregs ∧ vregs ≤ 128 ∧ vregs % 8 = 0
        (fits → Performs (exec (.kernel j) s) fun t => t.cores = s.cores ∧ t.mem = s.mem
          ∧ jobOf t j = some { x with phase := .running, groups := bits (pkW x 6) 31 0 })
        ∧ (¬ fits → p < 36 → infoHeld s (pgCore p) 0x110 = false → ∀ c, ctxOf s x.ctx = some c → c.state = .live → stageOf s x.ctx = none →
          Performs (exec (.kernel j) s) fun t => ends t 1 0x0B ∧ ctxOf t x.ctx = some { c with state := .lost }
            ∧ rget t (pgCore p) 0x110 = BitVec.ofNat 32 (2 ^ 31 + 0x0B * 2 ^ 16)))
    ∧ (pkType x.words = 3 → ∀ L p, jobTargets s x = [L] → physOf s L = some p → p ∈ x.cores → (coreOf s p).copy = none →
        (0 < copyTiles x.words → Performs (exec (.transfer j) s) fun t => t.mem = s.mem ∧ jobOf t j = some { x with phase := .running }
          ∧ (coreOf t p).copy = some { job := j, tag := tagOf s x.ctx })
        ∧ (copyTiles x.words = 0 → Performs (exec (.transfer j) s) fun t => ends t 0 0))

/-- A PREFETCH that is refused moves nothing and completes with status 0x08, another with status 0x00 (R271); a leaf that moves keeps its bytes, and
its entry names the new page, W cleared when the host page is kept (R272). A GRAPH job submits the packet of its stage to the stage's
ring, whose tail advances, and is done (R305). -/
def Says.PrefetchAndGraph : Prop :=
  ∀ (s : State) (j : Nat) (x : Job), jobOf s j = some x → x.phase = .started → coresWith s j = [] →
    let ends := fun (t : State) st => ∃ y, jobOf t j = some y ∧ y.words = x.words ∧ y.phase = .ended st 0
    (pkType x.words = 5 →
      let r := prefetchRange s (tagOf s x.ctx) (bits (pkW x 4) 47 0) (bits (pkW x 5) 47 0) (bits (pkW x 6) 1 0)
      (r = none → Performs (exec (.prefetch j) s) fun t => ends t 8 ∧ t.mem = s.mem ∧ t.cores = s.cores)
      ∧ (r.isSome = true → Performs (exec (.prefetch j) s) fun t => ends t 0))
    ∧ (∀ (l : Leaf) (page : Nat) (keep : Bool), l.at_ + 8 ≤ page * 0x1000 ∨ (page + levelPages l.level) * 0x1000 ≤ l.at_ →
        let t := moveLeaf s l page keep
        memRead t (page * 0x1000) (levelPages l.level * 0x1000) = memRead s (ptePage l.e * 0x1000) (levelPages l.level * 0x1000)
        ∧ (page < 2 ^ 34 → let e := BitVec.ofNat 64 (memNat t l.at_ 8)
            ptePage e = page ∧ pteV e = pteV l.e ∧ pteLeaf e = pteLeaf l.e ∧ e.getLsbD 4 = (l.e.getLsbD 4 && !keep)))
    ∧ (pkType x.words = 4 → ∀ g st pl y c, tfind s.graphs (bits (pkW x 4) 15 0) = some g → g.running = true → g.stopping = false →
        g.stages[bits (pkW x 4) 31 16]? = some st → g.plan.stages[bits (pkW x 4) 31 16]? = some pl →
        tfind s.queues st.2 = some y → ctxOf s y.ctx = some c → c.state = .live → (tailOf s st.2 + 1 - y.head).toNat ≤ 2 ^ y.log2 →
        let bs := (stagePacket s pl st.2).flatMap fun v => natLe 8 v.toNat
        Performs (exec (.graph j) s) fun t => ends t 0 ∧ rget t (0x400 + st.2) 0x104 = rget s (0x400 + st.2) 0x104 + 1
          ∧ memRead t (y.ringPa + 64 * ((tailOf s st.2).toNat % 2 ^ y.log2)) bs.length = bs)

/-- Jobs start, and each type does its work.
It rests on the model's own choices and readings in notes/assumptions/38.md, notes/assumptions/41.md, notes/assumptions/42.md,
notes/assumptions/43.md. -/
def Obligations.Jobs : Prop := Says.JobStarts ∧ Says.JobWork ∧ Says.PrefetchAndGraph

/-- The completion of a job (R286-R288, R296, R297): it leaves the device; its record at CPL holds SEQ, status, cause, queue and time; QUE_DONE reaches
it once every job before it has completed; EVT raises the queue's event; a fence named by SIGEN takes its value with status 0x00 and the
error state with any other. A kernel whose work is done completes with status 0x00.
It rests on the model's own choices and readings in notes/assumptions/41.md, notes/assumptions/65.md. -/
def Obligations.JobCompletions : Prop :=
  ∀ (s : State) (j : Nat) (x : Job), jobOf s j = some x →
    (∀ st cause, x.phase = .ended st cause → Performs (exec (.jobComplete j) s) fun t => jobOf t j = none
      ∧ (∀ at_, pkCpl x.words ≠ 0 → rangeCovers s (tagOf s x.ctx) (pkCpl x.words) 16 true = some at_ →
          memRead t at_ 16 = recordBytes s x.queue (pkSeq x.words) st.toNat cause.toNat)
      ∧ (∀ q, tfind s.queues x.queue = some q → q.accepted.head? = some (pkSeq x.words, false) →
          (∀ e ∈ q.accepted.tail, e.2 = false ∧ e.1 ≠ pkSeq x.words) → x.queue < 1024 → rget t (0x400 + x.queue) 0x10C = pkSeq x.words)
      ∧ (pkEvt x.words = true → x.queue < 1024 → (rget t (0x400 + x.queue) 0x10).getLsbD 0 = true)
      ∧ (pkSigen x.words = false → t.fences = s.fences)
      ∧ ∀ f, pkSigen x.words = true → tfind s.fences (pkSslot x.words) = some f → genOf s (pkSslot x.words) = x.sigGen → f.state = 0 →
          (st = 0 → f.value.toNat < (pkSval x.words).toNat → pkSval x.words ≠ BitVec.allOnes 64 →
            tfind t.fences (pkSslot x.words) = some { f with value := pkSval x.words })
          ∧ (st ≠ 0 → tfind t.fences (pkSslot x.words) = some { f with state := 1 }))
    ∧ (x.phase = .running → pkType x.words = 1 → workDone s j x = true → unwaitedFault s j = none →
        Performs (exec (.jobComplete j) s) fun t => jobOf t j = none
          ∧ (pkEvt x.words = true → x.queue < 1024 → (rget t (0x400 + x.queue) 0x10).getLsbD 0 = true))

/-- The Hub command queue of a function (R302-R304, R483, R554), for every command: with sixteen replies unread nothing is performed; in minimal
mode every command but FW_STAGE and DEV_RESET is refused with status 0x03; an unlisted operation code gives 0x02, a command for the
physical function from another 0x03, and a reserved bit 0x02. A refused command changes nothing.
It rests on the model's own choices and readings in notes/assumptions/14.md, notes/assumptions/36.md. -/
def Obligations.HubProtocol : Prop :=
  ∀ (s : State) (vi op : Nat) (pf : Bool) (masks : List Nat) (body : State → Nat → List W64 → HubAns) (w : List W64) (rest : List (List W64)),
    vi < 64 → (viOf s vi).cmds = w :: rest → (viOf s vi).resetBusy = false → (viOf s vi).disabled = false →
    let o := bits (w.getD 0 0) 63 56
    let run := hubRun op pf masks body vi s
    (16 ≤ (viOf s vi).replies.length → run = .next s)
    ∧ ((viOf s vi).replies.length < 16 →
        (s.boot.minimal = true → o ≠ 0x30 → o ≠ 0x33 → Refuses run s vi w rest 3)
        ∧ (s.boot.minimal = false → o ∉ hubOps → Refuses run s vi w rest 2)
        ∧ (s.boot.minimal = false → o ∈ hubOps → o = op → (pf = true → vi ≠ 0 → Refuses run s vi w rest 3)
            ∧ ((pf = true → vi = 0) → fieldsOk masks w = false → Refuses run s vi w rest 2)))

/-- Contexts (R251, R252, R277, R298): CTX_CREATE takes the lowest free context and tag, whose table entry names the partition, the function and
the root page and whose range table is empty, or shares the tag of another context; after CTX_DESTROY and KILL the contexts named, their
queues and their jobs are gone, and other contexts stay. A KILL that names no context of the device is refused. -/
def Says.HubContexts : Prop :=
  ∀ (s : State) (vi : Nat) (w : List W64) (rest : List (List W64)),
    let gone := fun (t : State) n => ctxOf t n = none ∧ (∀ q x, tfind t.queues q = some x → x.ctx ≠ n) ∧ ∀ j x, jobOf t j = some x → x.ctx ≠ n
    (HubFront s vi 1 false [fm 2 0, fm 12 0, fm 45 12] w rest →
      let i := arg w 1 2 0
      let root := arg w 3 45 12 * 0x1000
      bit (viOf s vi).parts i = true → (tfind s.parts i).isSome = true → ∀ n, lowestFree 4096 (fun n => (tfind s.contexts n).isSome) = some n →
      (arg w 2 12 12 = 0 → pagesGranted s vi (root / 0x1000) 1 = true → touchesReserved s root 0x1000 = false → ∀ tag,
        lowestFree 4096 (tagBusy s) = some tag →
        Replies (exec (.ctxCreate vi) s) s vi w rest 0 [BitVec.ofNat 64 n, BitVec.ofNat 64 tag] fun t =>
          ctxOf t n = some { vi := vi, part := i, tag := tag } ∧ (∀ m, m ≠ n → ctxOf t m = ctxOf s m)
          ∧ (let e := ctxEntry t tag; ctV e = true ∧ ctPart e = i ∧ ctVi e = vi ∧ ctRoot e = root ∧ ∀ k < 64, reV (rangeAt t (ctRtb e) k).2 = false))
      ∧ (∀ c, arg w 2 12 12 = 1 → ctxOf s (arg w 2 11 0) = some c → c.vi = vi → c.part = i →
        Replies (exec (.ctxCreate vi) s) s vi w rest 0 [BitVec.ofNat 64 n, BitVec.ofNat 64 c.tag] fun t =>
          ctxOf t n = some { vi := vi, part := i, tag := c.tag } ∧ (∀ m, m ≠ n → ctxOf t m = ctxOf s m) ∧ t.ctxTab = s.ctxTab ∧ t.mem = s.mem))
    ∧ (HubFront s vi 2 false [fm 11 0] w rest → ∀ c, ctxOf s (arg w 1 11 0) = some c → vi = 0 ∨ c.vi = vi →
        Replies (exec (.ctxDestroy vi) s) s vi w rest 0 [] fun t => gone t (arg w 1 11 0) ∧ ∀ m, m ≠ arg w 1 11 0 → ctxOf t m = ctxOf s m)
    ∧ (HubFront s vi 0x15 false [fm 63 0, fm 63 0, fm 63 0] w rest →
        ((∀ n ∈ killNames w, ∃ c, ctxOf s n = some c ∧ (vi = 0 ∨ c.vi = vi)) → Replies (exec (.kill vi) s) s vi w rest 0 [] fun t =>
          (∀ n ∈ killNames w, gone t n) ∧ ∀ m, m ∉ killNames w → ctxOf t m = ctxOf s m)
        ∧ (∀ n ns, killNames w = n :: ns → ctxOf s n = none → Refuses (exec (.kill vi) s) s vi w rest 2))

/-- Queues (R280, R505, R551): QUEUE_CREATE takes the lowest free queue, whose ring one range entry covers, and its doorbell page shows it with its
interrupts enabled; QUEUE_DESTROY takes it and its packets away, and is refused with status 0x04 while a job of it runs. -/
def Says.HubQueues : Prop :=
  ∀ (s : State) (vi : Nat) (w : List W64) (rest : List (List W64)),
    (HubFront s vi 3 false [fm 11 0, fm 47 0, fm 4 0, fm 2 0, fm 5 0] w rest → ∀ c pa n, ctxOf s (arg w 1 11 0) = some c → vi = 0 ∨ c.vi = vi →
      let l := arg w 3 4 0
      let ring := arg w 2 47 0
      4 ≤ l → l ≤ 16 → ring % (64 * 2 ^ l) = 0 → arg w 5 5 0 < (viOf s c.vi).vectors → rangeCovers s c.tag ring (64 * 2 ^ l) false = some pa →
      lowestFree 1024 (fun n => (tfind s.queues n).isSome) = some n →
      Replies (exec (.queueCreate vi) s) s vi w rest 0 [BitVec.ofNat 64 n] fun t => t.mem = s.mem
        ∧ tfind t.queues n = some { ctx := arg w 1 11 0, log2 := l, prio := arg w 4 2 0, vector := arg w 5 5 0, ring := ring, ringPa := pa }
        ∧ rget t (0x400 + n) 0x100 = BitVec.ofNat 32 (2 ^ 31 + arg w 4 2 0 * 2 ^ 28 + (l - 4) * 2 ^ 24 + arg w 1 11 0)
        ∧ rget t (0x400 + n) 0x104 = 0 ∧ rget t (0x400 + n) 0x10C = 0 ∧ rget t (0x400 + n) 0x04 = 0x80000000 ∧ rget t (0x400 + n) 0x0C = 0xF)
    ∧ (HubFront s vi 4 false [fm 9 0] w rest → ∀ o, queueVi s (arg w 1 9 0) = some o → vi = 0 ∨ o = vi →
      let q := arg w 1 9 0
      let runs := s.jobs.any fun j => j.2.queue == q && !jobWaiting j.2
      (runs = false → Replies (exec (.queueDestroy vi) s) s vi w rest 0 [] fun t => tfind t.queues q = none ∧ rget t (0x400 + q) 0x100 = 0
        ∧ ∀ j x, jobOf t j = some x → x.queue ≠ q)
      ∧ (runs = true → Refuses (exec (.queueDestroy vi) s) s vi w rest 4))

/-- Hub commands for contexts and queues.
It rests on the model's own choices and readings in notes/assumptions/12.md, notes/assumptions/14.md, notes/assumptions/36.md. -/
def Obligations.HubContextsAndQueues : Prop := Says.HubContexts ∧ Says.HubQueues

/-- Pages and windows (R263-R265, R267, R279): GRANT binds a run of HBM pages to a function unless another holds one of them; REVOKE frees a run that
no table names; WINDOW_OPEN takes the lowest free entry for a reachable peer that offers an inbound entry, and WINDOW_CLOSE clears it. -/
def Says.HubPages : Prop :=
  ∀ (s : State) (vi : Nat) (w : List W64) (rest : List (List W64)),
    (HubFront s vi 5 true [fm 5 0, fm 33 0, fm 33 0] w rest →
      let a := arg w 2 33 0
      let n := arg w 3 33 0
      let other := s.grants.find? fun g => g.vi != arg w 1 5 0 && runsMeet a n g.first g.count
      (other = none → n ≠ 0 → inHbm (a * 0x1000) (n * 0x1000) = true → touchesReserved s (a * 0x1000) (n * 0x1000) = false →
        Replies (exec (.grant vi) s) s vi w rest 0 [] fun t => t.grants = s.grants ++ [{ first := a, count := n, vi := arg w 1 5 0 }] ∧ t.mem = s.mem)
      ∧ (∀ g, other = some g → n ≠ 0 → Refuses (exec (.grant vi) s) s vi w rest (if (viOf s g.vi).resetBusy = true then 4 else 3)))
    ∧ (HubFront s vi 6 true [fm 33 0, fm 33 0] w rest →
      let a := arg w 1 33 0
      let n := arg w 2 33 0
      let named := (tagsInUse s).any fun t => tableNames s (runsMeet a n) 3 (ctRoot (ctxEntry s t)) || (entriesWhere s t (runsMeet a n)).any (coversRing s t)
      n ≠ 0 → (named = true → Refuses (exec (.revoke vi) s) s vi w rest 4)
        ∧ (named = false → Replies (exec (.revoke vi) s) s vi w rest 0 [] fun t => (∀ g ∈ t.grants, runsMeet a n g.first g.count = false)
            ∧ ∀ g ∈ s.grants, runsMeet a n g.first g.count = false → g ∈ t.grants))
    ∧ (HubFront s vi 0x13 false [fm 2 0, fm 3 0, fm 19 0] w rest →
      let i := arg w 1 2 0
      let peer := arg w 2 3 0
      s.boot.rngFailed = false → bit (viOf s vi).parts i = true → (tfind s.parts i).isSome = true → 0 < arg w 3 19 0 → arg w 3 19 0 ≤ 0x80000 →
      reachable s peer = true → ∀ k, lowestFree 16 (fun k => bit (owin s k) 31) = some k →
        (∀ r, Config.peerWindow s.free = some r → Replies (exec (.windowOpen vi) s) s vi w rest 0 [BitVec.ofNat 64 k] fun t =>
          rget t 0x42 (0x100 + 4 * k) = BitVec.ofNat 32 (2 ^ 31 + i * 2 ^ 28 + peer * 2 ^ 8 + r % 16) ∧ tfind t.winOwner k = some vi ∧ t.mem = s.mem)
        ∧ (Config.peerWindow s.free = none → Refuses (exec (.windowOpen vi) s) s vi w rest 1))
    ∧ (HubFront s vi 0x14 false [fm 3 0] w rest → ∀ o, bit (owin s (arg w 1 3 0)) 31 = true → tfind s.winOwner (arg w 1 3 0) = some o → vi = 0 ∨ o = vi →
        Replies (exec (.windowClose vi) s) s vi w rest 0 [] fun t => rget t 0x42 (0x100 + 4 * arg w 1 3 0) = 0 ∧ tfind t.winOwner (arg w 1 3 0) = none)

/-- Mappings (R257, R258, R263, R268-R272): MAP_RANGE stores its entry in the lowest free place of the table, or is refused with the first reason
of R257; UNMAP_RANGE removes a valid entry that covers no live ring, and INVALIDATE its tag everywhere; ADVISE records its range, and
clearing leaves no advice of the kind over it. -/
def Says.HubMappings : Prop :=
  ∀ (s : State) (vi : Nat) (w : List W64) (rest : List (List W64)) (c : Context), ctxOf s (arg w 1 11 0) = some c → vi = 0 ∨ c.vi = vi →
    let rtb := ctRtb (ctxEntry s c.tag)
    let done := fun (t : State) => t.doneTag = c.tag ∧ rget t 0x40 0x11C = rget s 0x40 0x11C + 1 ∧ ∀ p k, tfind t.cores p = some k →
      (∀ e ∈ k.tlb1 ++ k.tlb2, e.tag ≠ c.tag) ∧ (∀ e ∈ k.walks, e.tag ≠ c.tag)
    (HubFront s vi 7 false [fm 11 0, fm 63 0, fm 63 0] w rest →
      (∀ i, mapErr s c (w.getD 2 0) (w.getD 3 0) = 0 → lowestFree 64 (fun i => reV (rangeAt s rtb i).2) = some i →
        Replies (exec (.mapRange vi) s) s vi w rest 0 [BitVec.ofNat 64 i] fun t => rangeAt t rtb i = (w.getD 2 0, w.getD 3 0)
          ∧ ∀ k, k ≠ i → rangeAt t rtb k = rangeAt s rtb k)
      ∧ (mapErr s c (w.getD 2 0) (w.getD 3 0) ≠ 0 → Refuses (exec (.mapRange vi) s) s vi w rest (mapErr s c (w.getD 2 0) (w.getD 3 0))))
    ∧ (HubFront s vi 8 false [fm 11 0, fm 5 0] w rest → let i := arg w 2 5 0
      (reV (rangeAt s rtb i).2 = false → Refuses (exec (.unmapRange vi) s) s vi w rest 2)
      ∧ (reV (rangeAt s rtb i).2 = true → coversRing s c.tag i = true → Refuses (exec (.unmapRange vi) s) s vi w rest 4)
      ∧ (reV (rangeAt s rtb i).2 = true → coversRing s c.tag i = false → Replies (exec (.unmapRange vi) s) s vi w rest 0 [] fun t =>
          rangeAt t rtb i = (0, 0) ∧ (∀ k, k ≠ i → rangeAt t rtb k = rangeAt s rtb k) ∧ done t))
    ∧ (HubFront s vi 9 false [fm 11 0] w rest → Replies (exec (.invalidate vi) s) s vi w rest 0 [] fun t => t.mem = s.mem ∧ done t)
    ∧ (HubFront s vi 0x12 false [fm 11 0, fm 47 0, fm 47 0, fm 8 8 + fm 1 0, fm 4 0] w rest →
      let vpn := arg w 2 47 0 / 0x1000
      let n := arg w 3 47 0 / 0x1000
      let kind := arg w 4 1 0
      arg w 2 47 0 % 0x1000 = 0 → arg w 3 47 0 % 0x1000 = 0 → n ≠ 0 → arg w 2 47 0 + arg w 3 47 0 ≤ 2 ^ 48 → kind ≠ 3 →
      (kind = 0 → arg w 5 4 0 < 2) → (kind = 1 → arg w 5 4 0 = 0) → (kind = 2 → arg w 5 4 0 ≤ 16) → (s.advice.filter fun a => a.tag == c.tag).length ≤ 31 →
      (arg w 4 8 8 = 0 → Replies (exec (.advise vi) s) s vi w rest 0 [] fun t => t.mem = s.mem
        ∧ ∃ a ∈ t.advice, a.tag = c.tag ∧ a.first = vpn ∧ a.count = n ∧ a.kind = kind ∧ a.value = arg w 5 4 0)
      ∧ (arg w 4 8 8 = 1 → Replies (exec (.advise vi) s) s vi w rest 0 [] fun t =>
          ∀ a ∈ t.advice, a.tag = c.tag → a.kind = kind → runsMeet vpn n a.first a.count = false))

/-- Hub commands for pages, windows and mappings.
It rests on the model's own choices and readings in notes/assumptions/14.md, notes/assumptions/34.md, notes/assumptions/36.md. -/
def Obligations.HubMemory : Prop := Says.HubPages ∧ Says.HubMappings

/-- Fence commands (R289-R292, R304): FENCE_ALLOC takes the lowest free slot with the value given and answers its generation; FENCE_FREE frees the
owner's slot, whose generation rises, abandons it while importers remain, and ends an importer's grant; FENCE_EXPORT answers the handle of
home device, generation and slot; FENCE_IMPORT grants a slot exported to the function, and refuses a stale generation; FENCE_RESET sets a
value not below the current one and ends ERROR. -/
def Says.HubFences : Prop :=
  ∀ (s : State) (vi : Nat) (w : List W64) (rest : List (List W64)),
    (∀ c n, HubFront s vi 0xA false [fm 11 0, fm 63 0] w rest → ctxOf s (arg w 1 11 0) = some c → vi = 0 ∨ c.vi = vi → freeFence s = some n →
      Replies (exec (.fenceAlloc vi) s) s vi w rest 0 [BitVec.ofNat 64 n, BitVec.ofNat 64 (genOf s n).toNat] fun t => t.mem = s.mem
        ∧ tfind t.fences n = some { owner := arg w 1 11 0, value := w.getD 2 0 } ∧ ∀ m, m ≠ n → tfind t.fences m = tfind s.fences m)
    ∧ (∀ c f, HubFront s vi 0xB false [fm 11 0, fm 15 0] w rest → ctxOf s (arg w 1 11 0) = some c → vi = 0 ∨ c.vi = vi → tfind s.fences (arg w 2 15 0) = some f →
      let n := arg w 2 15 0
      let freed := fun P => Replies (exec (.fenceFree vi) s) s vi w rest 0 [] P
      (ownsFence f (arg w 1 11 0) = true → hasImporters f = false → freed fun t => tfind t.fences n = none ∧ genOf t n = genOf s n + 1)
      ∧ (ownsFence f (arg w 1 11 0) = true → hasImporters f = true → freed fun t => tfind t.fences n = some { f with ownerGone := true, state := 3 })
      ∧ (ownsFence f (arg w 1 11 0) = false → arg w 1 11 0 ∈ f.grants → f.ownerGone = false → f.home = none →
          freed fun t => tfind t.fences n = some { f with grants := f.grants.filter (· != arg w 1 11 0) })
      ∧ (ownsFence f (arg w 1 11 0) = false → arg w 1 11 0 ∉ f.grants → Refuses (exec (.fenceFree vi) s) s vi w rest 3))
    ∧ (∀ f, HubFront s vi 0xC false [fm 15 0, 2 ^ 63 + fm 5 0] w rest → fenceOwnErr s vi (arg w 1 15 0) = 0 → tfind s.fences (arg w 1 15 0) = some f →
      arg w 2 63 63 = 0 ∨ arg w 2 5 0 < 16 → let n := arg w 1 15 0
      Replies (exec (.fenceExport vi) s) s vi w rest 0 [BitVec.ofNat 64 (rbits s 0x210 0x180 3 0 * 2 ^ 32 + (genOf s n).toNat * 2 ^ 16 + n)] fun t =>
        tfind t.fences n = some { f with exportedTo := f.exportedTo ++ [(decide (arg w 2 63 63 = 1), arg w 2 5 0)] })
    ∧ (∀ c, HubFront s vi 0xD false [fm 11 0, fm 35 0] w rest → ctxOf s (arg w 1 11 0) = some c → vi = 0 ∨ c.vi = vi →
      let n := arg w 2 15 0
      (∀ f, arg w 2 35 32 = rbits s 0x210 0x180 3 0 → tfind s.fences n = some f → f.home = none →
        (genOf s n = BitVec.ofNat 16 (arg w 2 31 16) → (false, c.vi) ∈ f.exportedTo →
          Replies (exec (.fenceImport vi) s) s vi w rest 0 [BitVec.ofNat 64 n] fun t => granted t n (arg w 1 11 0) = true)
        ∧ (genOf s n ≠ BitVec.ofNat 16 (arg w 2 31 16) → Refuses (exec (.fenceImport vi) s) s vi w rest 2)
        ∧ (genOf s n = BitVec.ofNat 16 (arg w 2 31 16) → (false, c.vi) ∉ f.exportedTo → Refuses (exec (.fenceImport vi) s) s vi w rest 3))
      ∧ (∀ k, arg w 2 35 32 ≠ rbits s 0x210 0x180 3 0 → proxyOf s (arg w 2 35 32) n = none → freeFence s = some k →
        (Config.importOk s.free = true → Replies (exec (.fenceImport vi) s) s vi w rest 0 [BitVec.ofNat 64 k] fun t =>
          ∃ f, tfind t.fences k = some f ∧ f.home = some (arg w 2 35 32, n) ∧ f.grants = [arg w 1 11 0])
        ∧ (Config.importOk s.free = false → Refuses (exec (.fenceImport vi) s) s vi w rest 2)))
    ∧ (∀ f, HubFront s vi 0xE false [fm 15 0, fm 63 0] w rest → fenceOwnErr s vi (arg w 1 15 0) = 0 → tfind s.fences (arg w 1 15 0) = some f →
      (f.state = 0 ∨ f.state = 1 → f.value.toNat ≤ (w.getD 2 0).toNat → Replies (exec (.fenceReset vi) s) s vi w rest 0 [] fun t =>
        tfind t.fences (arg w 1 15 0) = some { f with value := w.getD 2 0, state := 0 })
      ∧ (f.state = 2 ∨ f.state = 3 ∨ (w.getD 2 0).toNat < f.value.toNat → Refuses (exec (.fenceReset vi) s) s vi w rest 2))

/-- Events and semaphores (R184, R295, R304), and the messages of Tandem peers (R291-R293): EVENT_ARM waits for its condition and fires at once when it
holds; SEMA_ALLOC takes the lowest free semaphore, and SEMA_FREE frees one that is not held; a peer's signal raises the home slot, a change
reaches the proxy, the home's reply ends the FSIG that waits for it, and importing devices come and go. -/
def Says.HubEvents : Prop :=
  ∀ (s : State) (vi : Nat) (w : List W64) (rest : List (List W64)),
    (HubFront s vi 0xF false [fm 15 0, fm 63 0, 2 ^ 63 + fm 1 0, fm 5 0] w rest → ∀ onState, onState = decide (arg w 3 63 63 = 1) →
      (if onState = true then w.getD 2 0 = 0 else arg w 3 1 0 = 0) → (tfind s.fences (arg w 1 15 0)).isSome = true → arg w 4 5 0 < (viOf s vi).vectors →
      vi = 0 ∨ (s.contexts.any fun c => c.2.vi == vi && granted s (arg w 1 15 0) c.1) = true → s.arms.length < 4096 →
      let a : Arm := { slot := arg w 1 15 0, onState := onState, value := if onState then BitVec.ofNat 64 (arg w 3 1 0) else w.getD 2 0, vi := vi, vector := arg w 4 5 0 }
      (∀ b ∈ s.arms, b.slot = a.slot → armHolds s b = false) →
        (armHolds s a = false → Replies (exec (.eventArm vi) s) s vi w rest 0 [] fun t => t.arms = s.arms ++ [a] ∧ t.fences = s.fences)
        ∧ (armHolds s a = true → Replies (exec (.eventArm vi) s) s vi w rest 0 [] fun t => t.arms = s.arms
            ∧ (s.boot.appliance = false → a.vector ∈ (viOf t vi).pendingVectors)))
    ∧ (∀ c n, HubFront s vi 0x10 false [fm 11 0, fm 0 0] w rest → ctxOf s (arg w 1 11 0) = some c → vi = 0 ∨ c.vi = vi →
        lowestFree 256 (fun n => (tfind s.semas n).isSome) = some n → Replies (exec (.semaAlloc vi) s) s vi w rest 0 [BitVec.ofNat 64 n] fun t =>
          tfind t.semas n = some { ctx := arg w 1 11 0, short := decide (arg w 2 0 0 = 1), shortNow := decide (arg w 2 0 0 = 1) })
    ∧ (∀ o x, HubFront s vi 0x11 false [fm 7 0] w rest → semaVi s (arg w 1 7 0) = some o → vi = 0 ∨ o = vi → tfind s.semas (arg w 1 7 0) = some x →
        (x.holder = none → Replies (exec (.semaFree vi) s) s vi w rest 0 [] fun t => tfind t.semas (arg w 1 7 0) = none)
        ∧ (x.holder.isSome = true → Refuses (exec (.semaFree vi) s) s vi w rest 4))
    ∧ ∀ n f, tfind s.fences n = some f →
      (∀ v, f.home = none → f.state = 0 → f.value.toNat < v.toNat → v ≠ BitVec.allOnes 64 →
        Performs (exec (.fenceUpdate (.signal n v (genOf s n))) s) fun t => tfind t.fences n = some { f with value := v })
      ∧ (∀ v st, f.home.isSome = true → f.state ≠ 3 →
        Performs (exec (.fenceUpdate (.update n v st)) s) fun t => tfind t.fences n = some { f with value := v, state := st })
      ∧ (∀ v st p g gr rd, (s.cores.findSome? fun c => (c.2.groups.find? fun g => match g.2.block with
            | .fsig k x _ => k == n && x == v | _ => false).map fun g => (c.1, g.1)) = some (p, g) → groupOf s p g = some gr → gr.block = .fsig n v rd →
        Performs (exec (.fenceUpdate (.reply n v st)) s) fun t => t.fences = s.fences ∧ ∃ x, groupOf t p g = some x ∧ x.block = .none
          ∧ sGet x rd.toNat = (if rd = 0 then 0 else BitVec.ofNat 64 st) ∧ x.v = gr.v ∧ x.p = gr.p)
      ∧ (∀ dev, f.home = none → (true, dev) ∈ f.exportedTo → dev ∉ f.proxies →
        Performs (exec (.fenceUpdate (.attach dev n (genOf s n))) s) fun t => tfind t.fences n = some { f with proxies := f.proxies ++ [dev] })
      ∧ (∀ dev, f.home = none → dev ∈ f.proxies → f.ownerGone = false →
        Performs (exec (.fenceUpdate (.detach dev n)) s) fun t => tfind t.fences n = some { f with proxies := f.proxies.filter (· != dev) })

/-- Hub commands for fences, events and semaphores, and messages of peers.
It rests on the model's own choices and readings in notes/assumptions/36.md, notes/assumptions/37.md. -/
def Obligations.HubFencesAndEvents : Prop := Says.HubFences ∧ Says.HubEvents

/-- Virtual functions (R300, R301, R502, R555, R556): VI_CONFIG sets what a function may use; VI_DISABLE lets its running jobs drain for DRAIN x 100 µs and
then, or at once without one, its contexts are gone and its pages do not respond; a reset takes its contexts at once, stays busy until it is
acknowledged on the physical function's queue with REQ 0xFFFF_FFF0, and then frees its pages and answers every VI_RESET.
It rests on the model's own choices and readings in notes/assumptions/8.md, notes/assumptions/14.md, notes/assumptions/36.md. -/
def Obligations.HubFunctions : Prop :=
  ∀ (s : State) (w : List W64) (rest : List (List W64)),
    let noContext := fun (t : State) vi => ∀ n c, ctxOf t n = some c → c.vi ≠ vi
    let k := arg w 1 5 0
    (HubFront s 0 0x16 true [fm 5 0, fm 7 0, fm 6 0, fm 15 0] w rest → arg w 4 15 0 ≠ 0 → arg w 3 6 0 ≤ 64 →
      (List.range 64).foldl (fun n i => n + (if i = k then arg w 3 6 0 else (viOf s i).vectors)) 0 ≤ 4096 →
      Replies (exec (.viConfig 0) s) s 0 w rest 0 [] fun t => (viOf t k).parts = BitVec.ofNat 8 (arg w 2 7 0) ∧ (viOf t k).vectors = arg w 3 6 0
        ∧ (viOf t k).drain = arg w 4 15 0 ∧ ∀ n, n ≠ k → n ≠ 0 → viOf t n = viOf s n)
    ∧ (HubFront s 0 0x17 true [fm 5 0] w rest →
      (k = 0 → Refuses (exec (.viDisable 0) s) s 0 w rest 2)
      ∧ (k ≠ 0 → (viOf s k).draining = true ∨ (viOf s k).resetBusy = true → Refuses (exec (.viDisable 0) s) s 0 w rest 4)
      ∧ (k ≠ 0 → (viOf s k).draining = false → (viOf s k).resetBusy = false →
        (viJobs s k (fun _ => true) = [] → Replies (exec (.viDisable 0) s) s 0 w rest 0 [] fun t => (viOf t k).disabled = true ∧ (viOf t k).draining = false
          ∧ (viOf t k).cmds = [] ∧ (viOf t k).replies = [] ∧ noContext t k)
        ∧ (viJobs s k jobWaiting = [] → viJobs s k (fun _ => true) ≠ [] → Performs (exec (.viDisable 0) s) fun t => (viOf t 0).cmds = rest
          ∧ (viOf t k).draining = true ∧ (viOf t k).drainAt = s.now + (viOf s k).drain * 100000 ∧ (viOf t k).disableReq = some (0, cmdReq w)
          ∧ t.jobs = s.jobs ∧ ∀ n c, ctxOf s n = some c → c.vi = k → ctxOf t n = some { c with state := .dying })))
    ∧ (∀ vi, vi < 64 → vi ≠ 0 → (viOf s vi).draining = true → (viOf s vi).disableReq = none → Performs (exec (.viDrainExpiry vi) s) fun t =>
        (viOf s vi).drainAt ≤ t.now ∧ (viOf t vi).disabled = true ∧ (viOf t vi).draining = false ∧ (viOf t vi).cmds = [] ∧ noContext t vi)
    ∧ (HubFront s 0 0x18 true [fm 5 0] w rest → k ≠ 0 → (viOf s k).disableReq = none → Performs (exec (.viReset 0) s) fun t => (viOf t 0).cmds = rest
        ∧ (viOf t 0).replies = (viOf s 0).replies ∧ (viOf t k).resetBusy = true ∧ (viOf t k).resetReqs = (viOf s k).resetReqs ++ [(0, cmdReq w)]
        ∧ ((viOf s k).resetBusy = false → noContext t k ∧ (viOf t k).cmds = [] ∧ (viOf t k).replies = []))
    ∧ (∀ vi, vi < 64 → (viOf s vi).resetBusy = true → (∀ r ∈ (viOf s vi).resetReqs, r.1 = 0) → Performs (exec (.viResetAck vi) s) fun t =>
        (viOf t vi).resetBusy = false ∧ (viOf t vi).resetReqs = [] ∧ t.grants = s.grants.filter (fun g => g.vi != vi) ∧ t.mem = s.mem
        ∧ (viOf t 0).replies = (viOf s 0).replies ++ [[0xFFFFFFF0, BitVec.ofNat 64 vi, 0, 0]]
            ++ (viOf s vi).resetReqs.map fun r => [BitVec.ofNat 64 r.2.toNat, 0, 0, 0])
    ∧ (∀ vi, vi < 64 → vi ≤ s.numVfs → (viOf s vi).disableReq = none → Performs (exec (.functionLevelReset vi) s) fun t => (viOf t vi).resetBusy = true
        ∧ ((viOf s vi).resetBusy = false → noContext t vi)
        ∧ rget t 0x201 0x104 = BitVec.ofNat 32 (min 0xFFFFFFFF ((rget s 0x201 0x104).toNat + 1)))
    ∧ (Performs (exec .vfEnableClear s) fun t => t.numVfs = 0
        ∧ ∀ n, 1 ≤ n → n ≤ s.numVfs → (viOf t n).disabled = true ∨ (viOf t n).draining = true ∨ (viOf t n).resetBusy = true)
    ∧ ∀ num, num < 64 → s.boot.up = true → s.boot.minimal = false → Performs (exec (.vfEnableSet num) s) fun t => t.numVfs = num
        ∧ ∀ n, 1 ≤ n → n ≤ num → (viOf t n).disabled = false

/-- Service graphs (R305, R442, R478): GRAPH_LOAD takes an accepted image whose caps fit; GRAPH_START, here of a graph of one stage without port set-up
or triggers, creates the stage's context and queue and takes over the caps; GRAPH_STOP waits while a job of a stage is under way, its waiting
packets discarded, and then destroys the contexts.
It rests on the model's own choices and readings in notes/assumptions/38.md, notes/assumptions/39.md. -/
def Obligations.ServiceGraphs : Prop :=
  ∀ (s : State) (w : List W64) (rest : List (List W64)),
    (HubFront s 0 0x20 true [fm 63 0, fm 39 0] w rest →
      let m := imageOf (Config.hostRead s.free (arg w 1 63 0) (arg w 2 39 0))
      let good := imageAccepted s m ikGraph && capsFit s (Config.graphPlan m.body)
      (good = false → Refuses (exec (.graphLoad 0) s) s 0 w rest 2)
      ∧ ∀ n, good = true → lowestFree 65536 (fun n => (tfind s.graphs n).isSome) = some n →
        Replies (exec (.graphLoad 0) s) s 0 w rest 0 [BitVec.ofNat 64 n] fun t =>
          tfind t.graphs n = some { svn := imgSvn m, plan := Config.graphPlan m.body } ∧ t.mem = s.mem)
    ∧ (HubFront s 0 0x21 true [fm 15 0] w rest →
      let n := arg w 1 15 0
      (tfind s.graphs n = none → Refuses (exec (.graphStart 0) s) s 0 w rest 2)
      ∧ (∀ g, tfind s.graphs n = some g → g.running = true → Refuses (exec (.graphStart 0) s) s 0 w rest 4)
      ∧ ∀ g st tag ctx q, tfind s.graphs n = some g → g.running = false → g.plan.stages = [st] → g.plan.setup = [] → g.plan.triggers = [] →
        (tfind s.parts st.part).isSome = true → 4 ≤ st.log2 → st.log2 ≤ 16 → lowestFree 4096 (tagBusy s) = some tag →
        lowestFree 4096 (fun n => (tfind s.contexts n).isSome) = some ctx → lowestFree 1024 (fun n => (tfind s.queues n).isSome) = some q →
        Replies (exec (.graphStart 0) s) s 0 w rest 0 [] fun t => ctxOf t ctx = some { vi := 0, part := st.part, tag := tag }
          ∧ tfind t.queues q = some { ctx := ctx, log2 := st.log2, prio := st.prio % 8, vector := st.vector % 64, ring := st.ring, ringPa := st.ringPa }
          ∧ tfind t.graphs n = some { g with stages := [(ctx, q)], running := true, stopping := false } ∧ t.power.caps = g.plan.caps)
    ∧ (HubFront s 0 0x22 true [fm 15 0] w rest → ∀ g, tfind s.graphs (arg w 1 15 0) = some g →
      let n := arg w 1 15 0
      let busy := !(jobsWhere s fun x => (graphCtxs g).contains x.ctx && jobActive x).isEmpty
      (g.running = false → Replies (exec (.graphStop 0) s) s 0 w rest 0 [] fun t => t.graphs = s.graphs)
      ∧ (g.running = true → busy = true → (jobsWhere s fun x => (graphCtxs g).contains x.ctx && jobWaiting x) = [] → Performs (exec (.graphStop 0) s) fun t => (viOf t 0).cmds = w :: rest
          ∧ (viOf t 0).replies = (viOf s 0).replies ∧ tfind t.graphs n = some { g with stopping := true }
          ∧ ∀ c x, c ∈ graphCtxs g → ctxOf s c = some x → ctxOf t c = some { x with state := .dying })
      ∧ (g.running = true → busy = false → Replies (exec (.graphStop 0) s) s 0 w rest 0 [] fun t =>
          tfind t.graphs n = some { g with stages := [], running := false, stopping := false } ∧ ∀ c ∈ graphCtxs g, ctxOf t c = none))

/-- Firmware update (R483-R486, Tables 18-7, 18-11): FW_STAGE verifies an image and writes it to the slot that does not run; FW_ACTIVATE rolls the pairs in
service to it and makes it the preferred one, and a pair's failure leaves the old image; FW_COMMIT and GR_COMMIT blow the fuses of their
floor; DEV_RESET resets the device with cause 7. -/
def Says.FirmwareUpdate : Prop :=
  ∀ (s : State) (w : List W64) (rest : List (List W64)),
    (HubFront s 0 0x30 true [fm 63 0, fm 39 0] w rest →
      let m := imageOf (Config.hostRead s.free (arg w 1 63 0) (arg w 2 39 0))
      (imageSound s m ikFragan = false → Refuses (exec (.fwStage 0) s) s 0 w rest 2)
      ∧ (imageSound s m ikFragan = true → imgSvn m < fwFloor s → Refuses (exec (.fwStage 0) s) s 0 w rest 3)
      ∧ (imageSound s m ikFragan = true → fwFloor s ≤ imgSvn m →
        (s.boot.minimal = false → Replies (exec (.fwStage 0) s) s 0 w rest 0 [BitVec.ofNat 64 (1 - s.boot.slot), BitVec.ofNat 64 (imgSvn m)] fun t =>
          t.boot.staged = some m ∧ t.boot.upd = 1 ∧ t.boot.slot = s.boot.slot ∧ slotImage t.boot (1 - s.boot.slot) = some m)
        ∧ (s.boot.minimal = true → ∀ d, bestDir s.boot = some d → d.slot < 2 →
          Replies (exec (.fwStage 0) s) s 0 w rest 0 [BitVec.ofNat 64 (1 - d.slot), BitVec.ofNat 64 (imgSvn m)] fun t =>
            slotImage t.boot (1 - d.slot) = some m ∧ t.boot.fails = 0 ∧ (d.gen + 1 < 2 ^ 32 → (bestDir t.boot).map (·.slot) = some (1 - d.slot)))))
    ∧ (HubFront s 0 0x31 true [] w rest →
      (s.boot.staged = none → Refuses (exec (.fwActivate 0) s) s 0 w rest 2)
      ∧ ∀ m r, s.boot.staged = some m → s.boot.running = some r →
        (imgStatev r < imgStatemin m → Refuses (exec (.fwActivate 0) s) s 0 w rest 3)
        ∧ (imgStatemin m ≤ imgStatev r → s.rel.rotating = none → s.rel.vacated = none →
          (Replies (exec (.fwActivate 0) s) s 0 w rest 0 [] fun t => t.boot.running = some m ∧ t.boot.slot = 1 - s.boot.slot ∧ t.boot.staged = none
            ∧ t.boot.rolledAt = some s.now ∧ ∀ i < 4, ((tget {} s.pairs i : Pair).state = 2 → (tget {} t.pairs i : Pair).image = 1 - s.boot.slot)
                ∧ ((tget {} s.pairs i : Pair).state ≠ 2 → (tget {} t.pairs i : Pair) = tget {} s.pairs i))
          ∧ (Replies (exec .rollFailure s) s 0 w rest 2 [] fun t => t.boot.running = some r ∧ t.boot.slot = s.boot.slot ∧ t.boot.staged = none
              ∧ t.boot.upd = 3 ∧ t.pairs = s.pairs)))
    ∧ (HubFront s 0 0x32 true [] w rest →
      (∀ t0, s.boot.rolledAt = some t0 → s.now < t0 + 60000000000 → Refuses (exec (.fwCommit 0) s) s 0 w rest 4)
      ∧ ((∀ t0, s.boot.rolledAt = some t0 → t0 + 60000000000 ≤ s.now) → Replies (exec (.fwCommit 0) s) s 0 w rest 0 [] fun t =>
          ∀ i, fuse t i = (fuse s i || decide (4104 ≤ i ∧ i < 4104 + svnOf s.boot.running))))
    ∧ (HubFront s 0 0x33 true [] w rest → Performs (exec (.devReset 0) s) fun t => ResetFrom s t 7)
    ∧ (HubFront s 0 0x34 true [fm 8 0] w rest → arg w 1 8 0 ≤ 256 →
      let below := (!s.boot.nocfg && decide (s.boot.configSvn < arg w 1 8 0)) || s.graphs.any fun g => decide (g.2.svn < arg w 1 8 0)
      (below = true → Refuses (exec (.grCommit 0) s) s 0 w rest 3)
      ∧ (below = false → Replies (exec (.grCommit 0) s) s 0 w rest 0 [] fun t =>
          ∀ i, fuse t i = (fuse s i || decide (4360 ≤ i ∧ i < 4360 + arg w 1 8 0))))

/-- Starts (R479-R483, Table 18-6): a failed random generator, a failed test, eight glitches, three failed starts, no directory or no acceptable
image end in minimal mode with their reason and every core in Deep sleep; otherwise Fragan runs from the first acceptable slot, and FAILS
has counted the start. Without UP for 2 s the device is reset with cause 6; 60 s of UP clear FAILS. -/
def Says.Starts : Prop :=
  (∀ (s : State) (b : BootInput), s.pins.powered = true → s.boot.started = false →
    let u := { s with boot := { s.boot with fuseFixes := b.fixes, fuseLost := b.lost } : State }
    let minimal := fun reason => Performs (exec (.bootStart b) s) fun t => t.boot.started = true ∧ t.boot.up = true ∧ t.boot.minimal = true
      ∧ t.boot.minReason = reason ∧ ∀ p < 36, (tget {} t.domains p : Domain).state = 3
    (lifecycle u = 2 → minimal 6)
    ∧ (lifecycle u ≠ 2 →
      (b.rngOk = false → minimal 7)
      ∧ (b.rngOk = true → b.testOk = false → minimal 4)
      ∧ (b.rngOk = true → b.testOk = true →
        (8 ≤ glitchCount u → minimal 5)
        ∧ (glitchCount u < 8 → 3 ≤ s.boot.fails → minimal 1)
        ∧ (glitchCount u < 8 → s.boot.fails < 3 →
          (bestDir s.boot = none → minimal 3)
          ∧ ∀ d, bestDir s.boot = some d → let first := if s.boot.fails = 2 then 1 - d.slot else d.slot
            (slotAccepted u first = false → slotAccepted u (1 - first) = false → minimal 2)
            ∧ ∀ k, (slotAccepted u first = true ∧ k = first) ∨ (slotAccepted u first = false ∧ slotAccepted u (1 - first) = true ∧ k = 1 - first) →
              s.boot.config = none → s.boot.appliance = false → Performs (exec (.bootStart b) s) fun t => t.boot.started = true ∧ t.boot.slot = k
                ∧ t.boot.running = slotImage s.boot k ∧ t.boot.fails = s.boot.fails + 1 ∧ t.boot.nocfg = true
                ∧ (b.reachesUp = true → t.boot.up = true) ∧ (b.reachesUp = false → t.boot.up = s.boot.up)))))
  ∧ (∀ s : State, s.boot.started = true → s.boot.up = false → Performs (exec .bootWatchdog s) fun t => ResetFrom s t 6
      ∧ s.boot.startedAt + 2000000000 ≤ t.now)
  ∧ ∀ s : State, s.boot.up = true → s.boot.minimal = false → Performs (exec .failsClear s) fun t => t.boot.fails = 0
      ∧ s.boot.upAt + 60000000000 ≤ t.now ∧ t.mem = s.mem ∧ t.regs = s.regs

/-- Firmware update and starts.
It rests on the model's own choices and readings in notes/assumptions/8.md, notes/assumptions/14.md, notes/assumptions/39.md,
notes/assumptions/40.md, notes/assumptions/57.md. -/
def Obligations.FirmwareAndStarts : Prop := Says.FirmwareUpdate ∧ Says.Starts

/-- Debug and protection (R475, R476, R487-R490): a request issues a challenge, or opens the level in MANUFACTURE; a check with a good answer opens the
level for the partitions of PMASK, a bad one locks checks out for 2^n s, at most 4,096; LEVEL 0 ends the level. A vendor's signed request
makes the device RETURNED and blows every bit of DUS; a glitch resets with cause 5 and is counted; a failed generator is marked.
It rests on the model's own choices and readings in notes/assumptions/40.md, notes/assumptions/58.md. -/
def Obligations.DebugAndProtection : Prop :=
  ∀ (s : State) (path : Path) (v : W32), Reaches s path 2 0x104 →
    let level := bits v 29 28
    let mask := BitVec.ofNat 8 (bits v 7 0)
    (level ≠ 0 → bit v 31 = true → bit v 30 = false → s.boot.challenge = none →
      (lifecycle s = 0 → Performs (exec (.debugRequest path v) s) fun t => t.boot = { s.boot with dbgLevel := level, dbgMask := mask })
      ∧ (lifecycle s ≠ 0 → Performs (exec (.debugRequest path v) s) fun t => t.boot = { s.boot with challenge := some (Config.challenge s.free) }))
    ∧ (level ≠ 0 → bit v 31 = false → bit v 30 = true → ∀ c, s.boot.challenge = some c → s.boot.lockUntil ≤ s.now →
      let r := debugResponse s
      let good := levelOpen s level && keyMatches s (r.take 97) 3464 && Config.debugSignature (r.drop 97) c (fuseField s 4616 64) level (bits v 7 0)
      let n := min 255 (s.boot.dbgFails + 1)
      (good = true → Performs (exec (.debugCheck path v) s) fun t =>
        t.boot = { s.boot with challenge := none, dbgFails := 0, dbgLevel := level, dbgMask := mask })
      ∧ (good = false → Performs (exec (.debugCheck path v) s) fun t =>
        t.boot = { s.boot with challenge := none, dbgFails := n, lockUntil := s.now + min (2 ^ n) 4096 * 1000000000 }))
    ∧ (level = 0 → Performs (exec (.debugEnd path v) s) fun t => t.boot = { s.boot with dbgLevel := 0, dbgMask := 0, challenge := none })
    ∧ exec .debugLockoutExpiry s = .next { s with now := max s.now s.boot.lockUntil }
    ∧ (s.boot.fuseLost = [] → Performs (exec (.signedVendorRequest true) s) fun t => lifecycle t = 2 ∧ (∀ i < 256, fuse t (3848 + i) = true)
        ∧ ∀ i, fuse s i = true → fuse t i = true)
    ∧ (∀ d, 1 ≤ d → d ≤ 5 → s.pins.tripped = false → s.pins.powered = true → Performs (exec (.glitchTrip d) s) fun t => ResetFrom s t 5
        ∧ t.boot.glitch = d ∧ t.boot.glitches = s.boot.glitches ++ [s.now] ∧ t.boot.glitchTotal = min 0xFFFF (s.boot.glitchTotal + 1))
    ∧ exec .rngFail s = .next { s with boot := { s.boot with rngFailed := true } }

/-- The counter collector (R518-R527): PMC_CMD presets the selected counter or zeroes all; PMC_CFG freezes, resumes, and takes a snapshot of what
the counters then hold; PMC_SET selects an event of an existing source, and PMC_READ answers from a snapshot.
It rests on the model's own choices and readings in notes/assumptions/16.md, notes/assumptions/60.md, notes/assumptions/62.md. -/
def Obligations.CounterCollector : Prop :=
  ∀ (s : State) (path : Path) (v : W32),
    let k := rbits s 6 0x108 5 0
    (Reaches s path 6 0x118 →
      (bit v 31 = true → bit v 30 = false → Performs (exec (.pmcPreset path v) s) fun t => t.mem = s.mem ∧ t.pmc.frozen = s.pmc.frozen
        ∧ ∀ j, pmcCtr t j = if j = k then { pmcCtr s k with value := BitVec.ofNat 48 ((rget s 6 0x110).toNat + rbits s 6 0x114 15 0 * 2 ^ 32) } else pmcCtr s j)
      ∧ (bit v 31 = false → bit v 30 = true → Performs (exec (.pmcClearAll path v) s) fun t => t.pmc.ovf = 0 ∧ t.pmc.fovf = 0
        ∧ (s.pmc.frozen = false → ∀ j, (pmcCtr t j).value = 0 ∧ (pmcCtr t j).sel = (pmcCtr s j).sel)
        ∧ (s.pmc.frozen = true → t.pmc.counters = s.pmc.counters)))
    ∧ (Reaches s path 6 0x100 →
      (bit v 30 = false → Performs (exec (.pmcFreeze path v) s) fun t => t.pmc.frozen = bit v 31 ∧ t.mem = s.mem)
      ∧ (bit v 30 = true → Performs (exec (.pmcSnapshot path v) s) fun t => t.pmc.shadow = t.pmc.counters ∧ t.pmc.shadowFixed = t.pmc.fixed
        ∧ t.pmc.shadowOvf = t.pmc.ovf ∧ t.pmc.shadowAt = s.now ∧ t.pmc.snapSeq = s.pmc.snapSeq + 1))
    ∧ (∀ w rest, HubFront s 0 0x40 true [fm 63 32 + fm 5 0, fm 47 0] w rest →
      let n := arg w 1 5 0
      let e := (if n % 2 = 1 then clrBit (BitVec.ofNat 32 (arg w 1 63 32)) 29 else BitVec.ofNat 32 (arg w 1 63 32)) &&& 0xEF3F00FF#32
      (evNamed e = false → Refuses (exec (.pmcSet 0) s) s 0 w rest 2)
      ∧ (evNamed e = true → evRoom s n e = true → Replies (exec (.pmcSet 0) s) s 0 w rest 0 [] fun t => (pmcCtr t n).sel = e
          ∧ (pmcCtr t n).value = (if arg w 2 47 0 = 0 then (pmcCtr s n).value else BitVec.ofNat 48 (arg w 2 47 0)) ∧ ∀ j, j ≠ n → pmcCtr t j = pmcCtr s j))
    ∧ ∀ vi w rest, HubFront s vi 0x41 false [fm 8 8 + fm 5 0] w rest →
      let n := arg w 1 5 0
      (arg w 1 8 8 = 1 → (mayReadCounter s vi n = false → Refuses (exec (.pmcRead vi) s) s vi w rest 3)
        ∧ (mayReadCounter s vi n = true → ∃ x, Replies (exec (.pmcRead vi) s) s vi w rest 0 [x] fun t => t.pmc.snapSeq = s.pmc.snapSeq + 1
          ∧ t.pmc.shadow = t.pmc.counters ∧ x = BitVec.ofNat 64 ((tget {} t.pmc.shadow n : Counter).value.toNat + if bit t.pmc.shadowOvf n then 2 ^ 48 else 0)))
      ∧ (arg w 1 8 8 = 0 → 32 ≤ n → Refuses (exec (.pmcRead vi) s) s vi w rest 2)
      ∧ (arg w 1 8 8 = 0 → n < 32 → vi = 0 → ∃ x y z, Replies (exec (.pmcRead vi) s) s vi w rest 0 [x, y, z] fun t =>
          let c := (tget {} t.pmc.shadowFixed n : SlotCounts)
          x.toNat + y.toNat * 2 ^ 64 + z.toNat * 2 ^ 128 = c.ret.toNat + c.waste.toNat * 2 ^ 48 + c.front.toNat * 2 ^ 96 + c.back.toNat * 2 ^ 144)

/-- Sources and triggers as software sets them (R311, R312, R316-R318, Tables 11-3, 11-9, 11-10): binding takes the written kind, input and time-out at
position 0, ends the CWAITs of the source with status 4 and disarms its triggers; SET gives a soft source its position; arming takes the
values of the slot as they stand, and a position already passed fires at once and is late; a trigger on an unbound source is not armed. -/
def Says.CadenceRegisters : Prop :=
  ∀ (s : State) (path : Path) (v : W32),
    (Reaches s path 5 0x110 → bits v 31 29 < 6 → (1 ≤ bits v 31 29 → bits v 31 29 ≤ 4 → bits v 15 0 ≠ 0) →
      let n := rbits s 5 0x10C 5 0
      Performs (exec (.sourceBind path v) s) fun t => (∀ m, m ≠ n → sourceOf t m = sourceOf s m)
        ∧ (bits v 31 29 = 0 → sourceOf t n = {})
        ∧ (bits v 31 29 ≠ 0 → let x := sourceOf t n
            srcKind x = bits v 31 29 ∧ srcInput x = bits v 23 16 ∧ srcStop x = bits v 15 0 ∧ srcMedia x = bit v 28 ∧ srcRpt x = bit v 27
            ∧ x.pos = 0 ∧ x.state = 1 ∧ x.skips = 0 ∧ x.repeats = 0 ∧ x.media = none ∧ x.lastAt = s.now)
        ∧ (∀ k, if tgSrc (trigOf s k) = n then tgArmed (trigOf t k) = false else trigOf t k = trigOf s k)
        ∧ ∀ p g gr pos rd, groupOf s p g = some gr → gr.block = .cwait n pos rd → ∃ x, groupOf t p g = some x ∧ x.block = .none
            ∧ sGet x rd.toNat = if rd = 0 then 0 else 4)
    ∧ (Reaches s path 5 0x10C → bit v 31 = true → bits v 5 0 < 48 → let n := bits v 5 0
      Performs (exec (.softPositionSet path v) s) fun t => sourceOf t n = if srcKind (sourceOf s n) = 5
        then { sourceOf s n with pos := BitVec.ofNat 64 ((rget s 5 0x11C).toNat * 2 ^ 32 + (rget s 5 0x118).toNat) } else sourceOf s n)
    ∧ (Reaches s path 5 0x124 →
      let k := rbits s 5 0x120 9 0
      let x := trigOf s k
      let src := bits v 25 20
      (bit v 31 = false → Performs (exec (.triggerDisarm path v) s) fun t => tgArmed (trigOf t k) = false ∧ (trigOf t k).aPos = x.aPos
        ∧ (trigOf t k).pos = x.pos ∧ t.fired = s.fired ∧ ∀ m, m ≠ k → trigOf t m = trigOf s m)
      ∧ (bit v 31 = true → 1 ≤ bits v 30 28 → bits v 30 28 ≤ 4 → (bit v 27 = true → x.inc ≠ 0) → src < 48 →
        (bound s src = false → Performs (exec (.triggerArm path v) s) fun t => tgArmed (trigOf t k) = false ∧ t.fired = s.fired
          ∧ rbits t 5 0x14 15 0 = min 0xFFFF (rbits s 5 0x14 15 0 + 1))
        ∧ (bound s src = true → (bits v 30 28 = 2 → srcKind (sourceOf s (bits x.arg 5 0)) = 5) →
          (posReached s src x.pos = none → Performs (exec (.triggerArm path v) s) fun t => let y := trigOf t k
            tgArmed y = true ∧ tgAction y = bits v 30 28 ∧ tgPeriodic y = bit v 27 ∧ tgSrc y = src ∧ y.firings = 0 ∧ t.fired = s.fired
            ∧ y.aPos = x.pos ∧ y.aInc = x.inc ∧ y.aArg = x.arg ∧ y.aDly = x.dly ∧ y.aTpl = x.tpl ∧ ∀ m, m ≠ k → trigOf t m = trigOf s m)
          ∧ ((posReached s src x.pos).isSome = true → bit v 27 = false → noMajority s 5 0x124 k 31 = false →
            Performs (exec (.triggerArm path v) s) fun t => tgArmed (trigOf t k) = false
              ∧ rget t 5 0x188 = BitVec.ofNat 32 (min 0xFFFFFFFF ((rget s 5 0x188).toNat + 1))
              ∧ ∃ z, t.fired = s.fired ++ [(k, s.now, z)] ∧ z.aPos = x.pos ∧ tgAction z = bits v 30 28))))

/-- What the actions of fired triggers do, in their order (R318-R320): LAUNCH submits the template, its SEQ moved on by the earlier firings, to its
queue, or is late when the ring is full; RELEASE advances a soft source by one; EVENT sends its vector; DEADLINE captures the latest SEQ of
its LAUNCH trigger and schedules the check of its job at the firing time plus DLY. -/
def Says.CadenceActions : Prop :=
  ∀ (s : State) (k at_ : Nat) (x : Trigger), k < 1024 → s.fired.head? = some (k, at_, x) →
    let isLate := fun (t : State) => rget t 5 0x188 = BitVec.ofNat 32 (min 0xFFFFFFFF ((rget s 5 0x188).toNat + 1)) ∧ t.fired = s.fired.tail
    (tgAction x = 1 →
      let q := bits x.aArg 9 0
      let seq := tget 0 x.aTpl 0 + BitVec.ofNat 32 x.firings
      (∀ y c, tfind s.queues q = some y → ctxOf s y.ctx = some c → c.state = .live → (tailOf s q + 1 - y.head).toNat ≤ 2 ^ y.log2 →
        Performs (exec (.launch k) s) fun t => t.fired = s.fired.tail ∧ rget t (0x400 + q) 0x104 = rget s (0x400 + q) 0x104 + 1
          ∧ (trigOf t k).latest = some seq ∧ pkSeq (launchPacket x) = seq
          ∧ memRead t (y.ringPa + 64 * ((tailOf s q).toNat % 2 ^ y.log2)) 64 = (launchPacket x).flatMap fun v => natLe 8 v.toNat)
      ∧ (submitPacket (popFired s) q (launchPacket x) = none → Performs (exec (.launch k) s) fun t => isLate t ∧ t.mem = s.mem))
    ∧ (tgAction x = 2 → let n := bits x.aArg 5 0
      (srcKind (sourceOf s n) = 5 → Performs (exec (.release k) s) fun t => sourceOf t n = { sourceOf s n with pos := (sourceOf s n).pos + 1 })
      ∧ (srcKind (sourceOf s n) ≠ 5 → Performs (exec (.release k) s) fun t => isLate t ∧ t.sources = s.sources))
    ∧ (tgAction x = 3 → Performs (exec (.event k) s) fun t => t.fired = s.fired.tail ∧ (s.boot.appliance = false →
        bits x.aArg 11 0 % 64 ∈ (viOf t (bits x.aArg 11 0 / 64)).pendingVectors))
    ∧ (tgAction x = 4 → let link := trigOf s (bits x.aArg 9 0)
      (∀ q, link.latest = some q → (trigOf s k).captured ≠ some q → Performs (exec (.deadline k) s) fun t => t.fired = s.fired.tail
        ∧ (trigOf t k).captured = some q
        ∧ t.checks = s.checks ++ [{ trg := k, queue := bits link.aArg 9 0, seq := q, due := at_ + x.aDly.toNat, missAct := bit x.aArg 16 }])
      ∧ (link.latest = none ∨ link.latest = (trigOf s k).captured → exec (.deadline k) s = .next { s with fired := s.fired.tail }))

/-- Deadlines and stops (R313, R320-R324): a check of a job that has completed passes; otherwise it is a miss, which is counted and recorded, and with
MISS_ACT the job ends with status 0x09; so does one that runs for WDOG_MS. A source without input for its time-out is STOPPED, and a PTP source
reaches the next awaited position at that very time. -/
def Says.CadenceTimes : Prop :=
  (∀ (s : State) (k : Nat) (c : Check), s.checks[k]? = some c → (∀ d ∈ removeAt s.checks k, d.seq ≠ c.seq) →
    (seqDone s c.queue c.seq = true → exec (.deadlineCheck k) s = .next { s with now := max s.now c.due, checks := removeAt s.checks k })
    ∧ (seqDone s c.queue c.seq = false → ∀ j x, jobBySeq s c.queue c.seq = some j → jobOf s j = some x → (∀ a b, x.phase ≠ .ended a b) →
      Performs (exec (.deadlineCheck k) s) fun t => t.checks = removeAt s.checks k ∧ c.due ≤ t.now
        ∧ rget t 5 0x184 = BitVec.ofNat 32 (min 0xFFFFFFFF ((rget s 5 0x184).toNat + 1))
        ∧ (infoHeld s 5 0x180 = false → t.missSeq = c.seq ∧ t.missAt = max s.now c.due ∧ rget t 5 0x180 = BitVec.ofNat 32 (2 ^ 31
            + (c.trg * 2 ^ 20 + c.queue * 2 ^ 10 + (if c.missAct then 2 ^ 9 else 0) + if jobWaiting x then 2 ^ 8 else 0)))
        ∧ (c.missAct = false → jobOf t j = some x)
        ∧ (c.missAct = true → if jobWaiting x = true then jobOf t j = none else ∃ y, jobOf t j = some y ∧ y.phase = .ended 9 0)))
  ∧ (∀ (s : State) (j : Nat) (x : Job), jobOf s j = some x → jobActive x = true → Performs (exec (.watchdog j) s) fun t =>
      x.startAt + rbits s 5 0x100 15 0 * 1000000 ≤ t.now ∧ (∃ y, jobOf t j = some y ∧ y.phase = .ended 9 0)
      ∧ rget t 5 0x184 = BitVec.ofNat 32 (min 0xFFFFFFFF ((rget s 5 0x184).toNat + 1)))
  ∧ (∀ (s : State) (n : Nat), n < 48 → (sourceOf s n).state = 1 → 1 ≤ srcKind (sourceOf s n) → srcKind (sourceOf s n) ≤ 3 →
      Performs (exec (.sourceStopped n) s) fun t => (sourceOf t n).state = 2 ∧ (sourceOf t n).pos = (sourceOf s n).pos
        ∧ (sourceOf s n).lastAt + srcStop (sourceOf s n) * 1000 ≤ t.now ∧ (rget t 5 0x10).getLsbD 2 = true
        ∧ (triggersOn s n = [] → ∀ p g gr pos rd, groupOf s p g = some gr → gr.block = .cwait n pos rd → posReached s n pos = none →
            ∃ x, groupOf t p g = some x ∧ x.block = .none ∧ sGet x rd.toNat = if rd = 0 then 0 else 2))
  ∧ ∀ (s : State) (n v : Nat) (vs : List Nat), n < 48 → srcKind (sourceOf s n) = 4 → stoppedSrc s n = false →
      (awaited s n).filter (fun v => decide (s.now ≤ v)) = v :: vs → Performs (exec (.ptpPositionReached n) s) fun t =>
        t.now = vs.foldl min v ∧ t.mem = s.mem ∧ ∀ p g gr pos rd, groupOf s p g = some gr → gr.block = .cwait n pos rd → pos.toNat = vs.foldl min v →
          ∃ x, groupOf t p g = some x ∧ x.block = .none ∧ sGet x rd.toNat = 0

/-- Cadence: sources, triggers, actions, deadlines and stops.
It rests on the model's own choices and readings in notes/assumptions/8.md, notes/assumptions/44.md. -/
def Obligations.Cadence : Prop := Says.CadenceRegisters ∧ Says.CadenceActions ∧ Says.CadenceTimes

/-- Pre-emption (R191, R217, R326-R331): the best ready job asks the running jobs of lower priority that it may pre-empt to yield; a job that yields at a
boundary is saved with its groups and leaves its cores; a saved job whose core is open again has its groups back, register for register.
It rests on the model's own choices and readings in notes/assumptions/45.md. -/
def Obligations.Preemption : Prop :=
  (∀ (s : State) (part a : Nat), part < 8 → bestJob s part = some a → Performs (exec (.preemptionRequest part) s) fun t =>
    { t with jobs := s.jobs } = s ∧ ∀ j x, jobOf s j = some x → jobOf t j = some { x with yielding := x.yielding || mayPreempt s part a j })
  ∧ (∀ (s : State) (j p L : Nat) (x : Job), jobOf s j = some x → x.yielding = true → x.phase = .running → atBoundary s j x = true → x.cores = [p] →
    logicalOf s p = some L → Performs (exec (.preemptionSwitch j) s) fun t => (∀ g gr, groupOf t p g = some gr → gr.job ≠ j)
      ∧ ∃ y, jobOf t j = some y ∧ y.words = x.words ∧ y.phase = .saved ∧ y.yielding = false ∧ y.cores = []
        ∧ ∀ g gr, g ∈ (coreOf s p).order → groupOf s p g = some gr → gr.job = j → (L, g, savedGroup gr) ∈ y.savedGroups)
  ∧ ∀ (s : State) (j p L : Nat) (x : Job), jobOf s j = some x → x.phase = .saved → jobTargets s x = [L] → physOf s L = some p →
    coreOpen s x.ctx L = true → fits s x L p = true → ((x.savedGroups.filter fun g => g.1 == L).map (·.2.1)).Nodup →
    (∀ g ∈ x.savedGroups, groupOf s p g.2.1 = none) → Performs (exec (.jobRestore j) s) fun t => t.mem = s.mem
      ∧ jobOf t j = some { x with phase := .running, cores := [p], savedGroups := [], savedEng := [], savedAcc := [], savedLs := [], savedCopy := none }
      ∧ ∀ g ∈ x.savedGroups, g.1 = L → groupOf t p g.2.1 = some g.2.2

/-- Power domains (R431-R436, R456, Tables 16-2, 16-3): a GO to a lower state begins the entry when every block accepts, and is otherwise recorded with
its reason; an entry ends within 100 µs in its target or is aborted to the state it left; a wake or a GO to Run begins the exit, which
takes its time; a wake that falls in an entry is latched. An operating point is lowered at once, and raised once the rail covers it. -/
def Says.PowerDomains : Prop :=
  (∀ (s : State) (v : W32) (answers : List (Nat × Nat)) (test : SelfTest) (t : Nat) (c : Instr), bit v 31 = true → bits v 30 28 = t →
    let d := rbits s 3 0x108 7 0
    let x := domOf s d
    let ctl := BitVec.ofNat 32 (t * 2 ^ 28 + bits v 25 23 * 2 ^ 23)
    t ∈ domStates d → x.target = none → s.rel.pfail = false →
    ((t = 1 ∧ c = .domainIdle v answers) ∨ (t = 2 ∧ c = .domainSleep v answers) ∨ (t = 3 ∧ c = .domainDeepSleep v answers test) →
      let selfTest := t = 3 ∧ bit v 23 = true
      (selfTest → domIsCore d = true ∧ x.op = 2) →
      (firstRefusal s d answers = none → Performs (exec c s) fun u => u.mem = s.mem ∧ u.cores = s.cores ∧
        domOf u d = { x with ctl := ctl, target := some t, since := s.now, test := if selfTest then some test else none })
      ∧ ∀ a, firstRefusal s d answers = some a → infoHeld s 3 0x114 = false → Performs (exec c s) fun u => (domOf u d).target = none
          ∧ (domOf u d).refuses = min 255 (x.refuses + 1) ∧ (domOf u d).state = x.state
          ∧ rget u 3 0x114 = BitVec.ofNat 32 (2 ^ 31 + (a.2 * 2 ^ 24 + d * 2 ^ 16)))
    ∧ (t = 0 → x.state ≠ 0 → (domIsCore d = true → (roleOf s d).role = 1 → ∀ p ∈ poweredSpares s, p = d) →
        (∀ a ∈ answers, a.2 = 0 ∨ 7 < a.2) → Performs (exec (.domainRun v answers) s) fun u => u.mem = s.mem ∧
          domOf u d = { x with ctl := ctl, target := some 0, since := s.now, wake := false, op := if domIsCore d then bits v 25 24 else x.op }))
  ∧ ∀ (s : State) (d : Nat), domStates d ≠ [] →
    let x := domOf s d
    (x.target = none → x.state ≠ 0 → exec (.domainWake d) s = .next (setDom s d { x with target := some 0, since := s.now, wake := false }))
    ∧ (∀ t, x.target = some t → t ≠ 0 → exec (.domainWake d) s = .next (setDom s d { x with wake := true })
      ∧ (x.test = none → x.wake = false → s.now ≤ x.since + 100000 → Performs (exec (.entryComplete d) s) fun u =>
          domOf u d = { x with state := t, target := none })
      ∧ (x.test = none → x.wake = true → s.now ≤ x.since + 100000 → Performs (exec (.entryComplete d) s) fun u =>
          domOf u d = { x with state := t, target := some 0, since := s.now, wake := false })
      ∧ (∀ reason, 0x10 ≤ reason → reason ≤ 0x12 → x.test = none → x.wake = false → infoHeld s 3 0x114 = false →
          Performs (exec (.entryAbort d reason) s) fun u => domOf u d = { x with target := none, aborts := min 255 (x.aborts + 1) }
            ∧ rget u 3 0x114 = BitVec.ofNat 32 (2 ^ 31 + (2 ^ 29 + reason * 2 ^ 24 + d * 2 ^ 16))))
    ∧ (x.target = some 0 → Performs (exec (.domainExitComplete d) s) fun u => x.since + exitTime s d ≤ u.now
        ∧ domOf u d = { x with state := 0, target := none })
    ∧ (d = 0x4D → x.target = none → x.state ≠ 0 → Performs (exec .pcieL1Exit s) fun u => (domOf u d).target = some 0
        ∧ (rbits s 0x200 0x100 22 20 = 2 ∨ rbits s 0x200 0x100 22 20 = 3 → rbits u 0x200 0x100 22 20 = 0 ∧ (rget u 0x200 0x10).getLsbD 0 = true))
    ∧ (∀ op, domIsCore d = true → op < 4 → x.state = 0 → x.target = none → mayChange s d op = true → s.power.faulted = false →
        noMajority s 3 0x10C d 24 = false →
        (op ≤ x.op ∨ railCovers s op = true → Performs (exec (.opChange d op) s) fun u => (domOf u d).op = op ∧ (domOf u d).opWanted = none)
        ∧ (x.op < op → railCovers s op = false → Performs (exec (.opChange d op) s) fun u => domOf u d = { x with opWanted := some op }))

/-- The core rail and the budget (R438-R444, R31): an accepted command makes its voltage the target, superseding one that slews; after three retries
the rail is faulted; once it has settled the raises that it covers take effect. A measurement shows its figures, and lowers by one operating
point each best-effort core of a class above its cap or of a device above its profile; a profile that a real-time partition rules out is
not taken. -/
def Says.RailAndBudget : Prop :=
  (∀ (s : State) (mv : Nat) (rest : List Nat), s.power.command = mv :: rest → s.power.faulted = false →
    (s.power.slewing = false → exec (.railCommand true) s = .next { s with power := { s.power with command := rest, tries := 0, accepted := mv, slewing := true } })
    ∧ (s.power.slewing = true → Performs (exec (.railCommand true) s) fun t => t.power.accepted = mv ∧ t.power.slewing = true ∧ t.power.command = rest
        ∧ rget t 3 0x120 = BitVec.ofNat 32 (min 0xFFFFFFFF ((rget s 3 0x120).toNat + 1)) ∧ (rget t 3 0x10).getLsbD 4 = true)
    ∧ (s.power.tries < 3 → exec (.railCommand false) s = .next { s with power := { s.power with tries := s.power.tries + 1 } })
    ∧ (3 ≤ s.power.tries → Performs (exec (.railCommand false) s) fun t => t.power.faulted = true ∧ t.power.command = [] ∧ (rget t 3 0x10).getLsbD 3 = true))
  ∧ (∀ (s : State) (level : Nat), s.power.accepted ≤ level + 10 → level ≤ s.power.accepted + 10 → s.power.slewing = true →
      Performs (exec (.railSettled level) s) fun t => t.power.level = level ∧ t.power.slewing = false ∧ t.power.target = s.power.target
        ∧ ∀ p < 36, match (domOf s p).opWanted with
          | some o => if opVolt o + rbits s 3 0x118 15 8 ≤ s.power.accepted then (domOf t p).op = o ∧ (domOf t p).opWanted = none else domOf t p = domOf s p
          | none => domOf t p = domOf s p)
  ∧ (∀ (s : State) (m : PowerReading),
      let ovr := budgetMw (profileOf s) < m.total
      let low := fun p => bestEffort s p = true ∧ (ovr ∨ 0 < s.power.thermal ∨ (if isGraphics s p then overCap s 1 m.graphics else overCap s 0 m.compute) = true)
      Performs (exec (.powerMeasure m) s) fun t => t.power.compute = m.compute ∧ t.power.graphics = m.graphics ∧ t.power.hub = m.hub ∧ t.power.io = m.io
        ∧ t.power.total = m.total ∧ t.power.ioHeld = overCap s 3 m.io ∧ s.power.measuredAt + rbits s 3 0x100 15 8 * 1000000 ≤ t.now
        ∧ (s.power.faulted = false → ∀ p < 36, (domOf s p).state ≤ 1 → noMajority s 3 0x10C p 24 = false →
            (domOf t p).op = if low p then (domOf s p).op - 1 else (domOf s p).op)
        ∧ (ovr → (∀ p < 36, bestEffort s p = true → (domOf s p).op = 0 ∨ 1 < (domOf s p).state) → rbits t 3 0x104 31 30 = 3))
  ∧ ∀ (s : State) (path : Path) (v : W32), Reaches s path 3 0x100 → bits v 1 0 ≤ 2 → bits v 1 0 ≠ profileOf s →
      (profileOk s (bits v 1 0) = false → Performs (exec (.profileChange path v) s) fun t => profileOf t = profileOf s ∧ t.domains = s.domains)
      ∧ (profileOk s (bits v 1 0) = true → Performs (exec (.profileChange path v) s) fun t => profileOf t = bits v 1 0
          ∧ (s.power.faulted = false → ∀ p < 36, noMajority s 3 0x10C p 24 = false → bestEffort s p = true →
              (domOf t p).op = min (domOf s p).op (nominalOp (bits v 1 0))))

/-- Power domains, operating points, the core rail and the budget.
It rests on the model's own choices and readings in notes/assumptions/8.md, notes/assumptions/11.md, notes/assumptions/55.md. -/
def Obligations.PowerManagement : Prop := Says.PowerDomains ∧ Says.RailAndBudget

/-- The always-on block (R425, R436, R437, R470, R538-R546): Off keeps the wake settings alone; its wakes, an interrupted supply and the end of a thermal
trip run the power-up order, after which every register has its reset value; failed attempts are counted and tried again; the reset
inputs reset the device or its functions; a temperature at the trip takes the rails off.
It rests on the model's own choices and readings in notes/assumptions/8.md, notes/assumptions/59.md, notes/assumptions/61.md. -/
def Obligations.AlwaysOnBlock : Prop :=
  ∀ s : State,
    (s.pins.powered = true → s.boot.started = true → Performs (exec .deviceOff s) fun t => t.pins.powered = false ∧ t.pins.railEn = 0 ∧ t.power.off = true
      ∧ t.power.offAt = s.now + 14000000 ∧ t.keys = 0 ∧ t.contexts = [] ∧ t.jobs = [] ∧ rget t 3 0x128 = rget s 3 0x128 ∧ rget t 3 0x12C = rget s 3 0x12C)
    ∧ (let woken := fun (t : State) cause => t.pins.rising = true ∧ t.boot.cause = cause ∧ t.mem = s.mem
       asleep s = true → s.power.offAt ≤ s.now →
        (wakeEn s 0 = true → s.pins.tripped = false → Performs (exec .wakeN s) fun t => woken t 2)
        ∧ (wakeEn s 2 = true → rget s 3 0x12C ≠ 0 → Performs (exec .timerWake s) fun t => woken t 3
            ∧ s.power.offAt + (rget s 3 0x12C).toNat * 1000000000 ≤ t.now)
        ∧ ∀ link < 8, bit (rget s (0x210 + link) 0x100) 28 = true → wakeEn s 1 = true → Performs (exec (.wakePatternDetect link) s) fun t => woken t 4)
    ∧ (∀ link < 8, s.pins.powered = true → bit (rget s (0x210 + link) 0x100) 28 = true → 2 ≤ (domOf s (0x50 + link)).state →
        (domOf s (0x50 + link)).target = none → Performs (exec (.wakePatternDetect link) s) fun t => (domOf t (0x50 + link)).target = some 0)
    ∧ (∀ link < 8, exec (.wakePatternSend link) s = .next (setLink s link { linkOf s link with waking := true }))
    ∧ (s.pins.rising = true → s.pins.powered = false → Performs (exec .powerUp s) fun t => ResetFrom s t s.boot.cause ∧ t.pins.powered = true
        ∧ t.pins.rising = false ∧ t.pins.railEn = 0x7F ∧ t.pins.attempts = 0)
    ∧ (∀ step < 7, s.pins.rising = true → s.pins.powered = false → Performs (exec (.powerUpFail step) s) fun t => t.pins.rising = false ∧ t.pins.railEn = 0
        ∧ t.pins.attempts = s.pins.attempts + 1 ∧ t.pins.failedAt = s.now ∧ t.pins.failStep = some step)
    ∧ (s.pins.powered = false → s.pins.rising = false → 1 ≤ s.pins.attempts → s.pins.attempts < 3 → Performs (exec .powerUpRetry s) fun t =>
        t.pins.rising = true ∧ s.pins.failedAt + 1000000000 ≤ t.now)
    ∧ (∀ low, s.pins.powered = true →
        (low < 1000 → exec (.resetN low) s = .next s ∧ exec (.perstN low) s = .next s)
        ∧ (10000 ≤ low → (Performs (exec (.resetN low) s) fun t => ResetFrom s t 1)
            ∧ Performs (exec (.perstN low) s) fun t => rget t 0x200 0x100 = 0x00400000 ∧ (rget t 0x200 0x10).getLsbD 3 = true
              ∧ ∀ vi ≤ s.numVfs, (viOf t vi).resetBusy = true))
    ∧ (Performs (exec .powerLoss s) fun t => ResetFrom s t 0 ∧ t.pins.powered = false ∧ t.pins.rising = true)
    ∧ (∀ sensor max aon, s.pins.powered = true →
        (tTrip s ≤ max ∨ tTrip s ≤ aon → Performs (exec (.thermalSample sensor max aon) s) fun t => t.pins.tripped = true ∧ t.pins.thermTripN = false
          ∧ t.pins.powered = false ∧ t.keys = 0)
        ∧ (max < tTrip s → aon < tTrip s → Performs (exec (.thermalSample sensor max aon) s) fun t => t.pins.powered = true
          ∧ rget t 0 0x108 = BitVec.ofNat 32 (sensor % 64 * 2 ^ 8 + (BitVec.ofInt 8 max).toNat)
          ∧ (tLimit s ≤ max → t.power.thermal = 2 ∨ 2 < s.power.thermal) ∧ (tWarn s ≤ max → max < tLimit s → s.power.thermal = 0 → t.power.thermal = 1)))
    ∧ ∀ c, s.pins.tripped = true → s.pins.coolSince = some c → Performs (exec .thermalRestart s) fun t => c + 1000000000 ≤ t.now ∧ t.boot.cause = 9
        ∧ t.pins.tripped = false ∧ t.pins.thermTripN = true ∧ t.pins.rising = true

/-- The health store's token bucket (R468): every record goes to HBM; one of severity 2 takes a token and a slot of the health store while a
token is left, and otherwise DEFER counts it; one of severity 3, and a STATE record, always takes a slot and no token; a token comes every
8 s, up to 64. -/
def Obligations.HealthStoreTokens : Prop :=
  (∀ (s : State) (r : JournalInput), r.kind < 256 → r.severity < 4 →
    let x : Record := { time := s.now, page := r.page, kind := r.kind, severity := r.severity, seq := s.rel.nextSeq % 2 ^ 32, info := r.info.take 32 }
    Performs (exec (.journalRecord r) s) fun t => t.rel.nextSeq = s.rel.nextSeq + 1
      ∧ t.rel.hbmRing = (if s.rel.hbmRing.length < 4096 then s.rel.hbmRing else s.rel.hbmRing.tail) ++ [x]
      ∧ t.rel.hsPending = (if r.severity = 3 ∨ (r.severity = 2 ∧ 0 < s.rel.tokens) then s.rel.hsPending ++ [x] else s.rel.hsPending)
      ∧ t.rel.tokens = (if r.severity = 2 then s.rel.tokens - 1 else s.rel.tokens)
      ∧ rbits t 4 0x12C 7 0 = (if r.severity = 2 ∧ s.rel.tokens = 0 then min 255 (rbits s 4 0x12C 7 0 + 1) else rbits s 4 0x12C 7 0))
  ∧ (∀ (s : State) (info : List Byte), (journalState s info).rel.tokens = s.rel.tokens
      ∧ ∃ x : Record, x.kind = stateKind ∧ x.info = info.take 32 ∧ (journalState s info).rel.hsPending = s.rel.hsPending ++ [x])
  ∧ ∀ s : State, Performs (exec .journalToken s) fun t => t.rel.tokens = min 64 (s.rel.tokens + 1) ∧ t.rel.tokenAt = t.now
      ∧ s.rel.tokenAt + 8000000000 ≤ t.now

/-- Spares, rotation and pairs (R453-R464, R472): a planned move maps the logical core to the prepared spare; a core out of service is replaced by the spare
with the latest test, or its logical core is withdrawn; a rotation step wakes the spare with the oldest test; strikes end after 30 days; a
pair that disagrees stops, and returns after its test with a strike, or is retired. -/
def Says.CoresAndPairs : Prop :=
  (∀ (s : State) (L spare old : Nat), L < 32 → spare < 36 → physOf s L = some old → old ≠ spare → (roleOf s spare).role = 1 → (domOf s spare).state = 0 →
    (domOf s spare).target = none → (coreOf s old).jobs = [] → s.rel.pfail = false → Performs (exec (.plannedMove L spare) s) fun t =>
      physOf t L = some spare ∧ (∀ M, M ≠ L → physOf t M = physOf s M) ∧ (roleOf t spare).role = 0 ∧ (coreOf t spare).groups = []
      ∧ rbits t 4 0x120 15 0 = min 0xFFFF (rbits s 4 0x120 15 0 + 1) ∧ old ∉ t.rel.moveOff
      ∧ (roleOf t old).role = (if old ∈ s.rel.moveOff then 2 else (roleOf s old).role)
      ∧ (s.rel.rotating = some (L, spare) → old ∉ s.rel.moveOff → t.rel.rotating = none ∧ t.rel.vacated = some (L, old)))
  ∧ (∀ (s : State) (L old : Nat), L < 32 → physOf s L = some old → (roleOf s old).role = 2 ∨ (roleOf s old).role = 3 → s.rel.pfail = false → s.rel.rotating = none →
      (∀ p, greatestBy (testedAt s) (spares s) = some p → (∀ q ∈ spares s, testedAt s q ≤ testedAt s p) ∧
        Performs (exec (.unplannedSubstitution L) s) fun t => physOf t L = some p ∧ (roleOf t p).role = 0 ∧ (domOf t p).state = 0 ∧ (coreOf t p).groups = []
          ∧ rbits t 4 0x120 31 16 = min 0xFFFF (rbits s 4 0x120 31 16 + 1))
      ∧ (spares s = [] → Performs (exec (.unplannedSubstitution L) s) fun t => physOf t L = none))
  ∧ (∀ (s : State) (spare p L : Nat), rbits s 4 0x100 31 31 = 1 → s.rel.pfail = false → s.rel.rotating = none → s.rel.vacated = none →
      (∀ q < 36, (domOf s q).test = none) → leastBy (testedAt s) (spares s) = some spare →
      leastBy (testedAt s) ((rotationCores s).filter fun p => (logicalOf s p).isSome) = some p → logicalOf s p = some L → (∀ q ∈ poweredSpares s, q = spare) →
      (∀ q ∈ spares s, testedAt s spare ≤ testedAt s q) ∧ Performs (exec .rotationStep s) fun t => t.rel.rotating = some (L, spare) ∧ t.rel.rotatedAt = t.now
        ∧ s.rel.rotatedAt + rbits s 4 0x100 23 16 * 60000000000 / (rotationCores s).length ≤ t.now
        ∧ ((domOf s spare).state ≠ 0 → (domOf t spare).target = some 0))
  ∧ (∀ (s : State) (p : Nat), p < 36 → 0 < (roleOf s p).strikes → Performs (exec (.strikeExpiry p) s) fun t => roleOf t p = { roleOf s p with strikes := 0 }
      ∧ (roleOf s p).strikeAt + days30 ≤ t.now)
  ∧ ∀ (s : State) (i : Nat), i < 4 → let x := pairOf s i
    (x.state = 2 → ∀ c, c = Instr.pairMismatch i ∨ c = .pairInjection i true → Performs (exec c s) fun t => (pairOf t i).state = 3
        ∧ (pairOf t i).mismatches = min 15 (x.mismatches + 1) ∧ (pairOf t i).stoppedAt = s.now ∧ (rget t 4 0x10).getLsbD 1 = true ∧ ∀ k, k ≠ i → pairOf t k = pairOf s k)
    ∧ (x.state = 2 → Performs (exec (.pairInjection i false) s) fun t => t.pairs = s.pairs ∧ rget t (8 + i) 0x10C = rget s (8 + i) 0x10C + 1)
    ∧ (x.state = 3 → ∀ passed, let good := passed = true ∧ ¬ (0 < x.strikes ∧ x.stoppedAt < x.strikeAt + days30)
        Performs (exec (.pairTestEnd i passed) s) fun t => x.stoppedAt + 5000000 ≤ t.now ∧ (pairOf t i).state = (if good then 2 else 4)
          ∧ (good → (pairOf t i).strikes = 1 ∧ (pairOf t i).strikeAt = x.stoppedAt))

/-- The health store and power failure (R465-R469, R542): waiting records are committed oldest first, over the oldest of a full ring, and all of
them when the power fails; the older state copy is rewritten with the next generation. -/
def Says.HealthStore : Prop :=
  (∀ (s : State) (r : Record) (rest : List Record), s.rel.hsPending = r :: rest → Performs (exec .healthStoreCommit s) fun t => t.rel.hsPending = rest
      ∧ t.rel.hsRing = (if s.rel.hsRing.length < 256 then s.rel.hsRing else s.rel.hsRing.tail) ++ [r])
  ∧ (∀ s : State, s.rel.pfail = false → (∀ r ∈ s.rel.hsPending, r.kind ≠ 0x100) → newerStates s ≠ [] ∨ 64 ≤ s.rel.rotSteps →
      Performs (exec .stateCopyRewrite s) fun t => ∃ c, bestCopy t = some c ∧ c.gen = max (copyGen s.rel.copyA) (copyGen s.rel.copyB) + 1 ∧ c.map = s.map
        ∧ c.roles = s.roles ∧ c.pairs = s.pairs ∧ c.upTo = s.rel.nextSeq ∧ t.rel.rotSteps = 0
        ∧ (if copyGen s.rel.copyB < copyGen s.rel.copyA then t.rel.copyA = s.rel.copyA else t.rel.copyB = s.rel.copyB))
  ∧ (∀ s : State, s.rel.pfail = false → s.pins.powered = true → Performs (exec .powerFail s) fun t => t.rel.pfail = true ∧ t.rel.hsPending = []
      ∧ (rget t 4 0x10).getLsbD 3 = true
      ∧ (s.rel.hsRing.length + s.rel.hsPending.length ≤ 256 → t.rel.hsRing = s.rel.hsRing ++ s.rel.hsPending))
  ∧ ∀ s : State, s.rel.pfail = true → Performs (exec .powerRestore s) fun t => t.rel.pfail = false ∧ t.mem = s.mem

/-- Spares, rotation, pairs, the health store and power failure.
It rests on the model's own choices and readings in notes/assumptions/8.md, notes/assumptions/11.md, notes/assumptions/56.md. -/
def Obligations.Reliability : Prop := Says.CoresAndPairs ∧ Says.HealthStore

/-- Flits (R411, R414, R415, R418): one that fails its correction or its sequence, and with keys its tag, is discarded and answered by a NAK; tag
failures are counted, and more than 64 within 1 s take the link down; an accepted one frees what it acknowledges of the replay buffer
and returns its credits, at most those advertised. A NAK sends every flit again from the refused one; the eighth in a row retrains. -/
def Says.SpokeFlits : Prop :=
  ∀ (s : State) (n : Nat) (f : Flit), n < 8 → (linkOf s n).state = 2 ∨ (linkOf s n).state = 3 →
    let l := linkOf s n
    let got := { l with received := l.received + 1 }
    let o := exec (.flitReceive n f) s
    let again := fun (o : Out) (s : State) seq => let l := linkOf s n
      let from_ := l.replay.dropWhile fun x => x.1 != seq
      (from_ = [] → o = .next s) ∧ (from_ ≠ [] → Performs o fun t => rget t (0x210 + n) 0x108 = BitVec.ofNat 32 (min 0xFFFFFFFF ((rget s (0x210 + n) 0x108).toNat + 1))
        ∧ linkOf t n = { l with sent := l.sent + BitVec.ofNat 64 from_.length, replayRun := l.replayRun + 1,
                                state := if 8 ≤ l.replayRun + 1 then 4 else l.state })
    (f.fecOk = false → o = .next (setLink s n { got with nakPending := true }))
    ∧ (f.fecOk = true → l.keys = true → f.tagOk = false →
        let fails := (l.tagFails.filter fun t => decide (s.now < t + 1000000000)) ++ [s.now]
        (fails.length ≤ 64 → Performs o fun t => linkOf t n = { got with nakPending := true, tagFails := fails }
          ∧ rget t (0x210 + n) 0x10C = BitVec.ofNat 32 (min 0xFFFFFFFF ((rget s (0x210 + n) 0x10C).toNat + 1)))
        ∧ (64 < fails.length → Performs o fun t => (linkOf t n).state = (if spkEn s n then 1 else 0) ∧ (linkOf t n).keys = false
          ∧ (linkOf t n).replay = [] ∧ (linkOf t n).crReq = 0 ∧ (linkOf t n).tagFails = []))
    ∧ (f.fecOk = true → l.keys = false ∨ f.tagOk = true →
        (f.kind = 3 → o = .next (setLink s n { got with lastValid := s.now }))
        ∧ (f.kind = 2 → again o (setLink s n { got with lastValid := s.now }) f.seq)
        ∧ (f.kind < 2 → f.seq ≠ l.expectSeq → o = .next (setLink s n { got with nakPending := true }))
        ∧ (f.kind < 2 → f.seq = l.expectSeq → Performs o fun t => (linkOf t n).expectSeq = (f.seq + 1) % 4096 ∧ (linkOf t n).ackSeq = f.seq
            ∧ (linkOf t n).nakPending = false ∧ (linkOf t n).lastValid = s.now
            ∧ (l.waiting = [] → (linkOf t n).crReq = min 512 (l.crReq + f.retReq) ∧ (linkOf t n).crRsp = min 512 (l.crRsp + f.retRsp)
                ∧ (linkOf t n).crCtl = min 32 (l.crCtl + f.retCtl)
                ∧ (∀ before pk after_, l.replay = before ++ (f.ack, pk) :: after_ → (∀ x ∈ before, x.1 ≠ f.ack) → (linkOf t n).replay = after_)
                ∧ ((∀ x ∈ l.replay, x.1 ≠ f.ack) → (linkOf t n).replay = l.replay))))
    ∧ ∀ seq < 4096, again (exec (.flitNak n seq) s) s seq

/-- Training and failure of a link (R414, R416-R418): a first training on lanes that LANES_MIN allows ends in TRAINED with the credits
advertised; a retrain keeps the credits, goes no wider, and returns to UP or TRAINED; onto fewer lanes it is a DEGRADE; below LANES_MIN the
link goes on training. DOWN comes 500 µs after the last valid flit and destroys keys, credits and the replay buffer. -/
def Says.SpokeTraining : Prop :=
  (∀ (s : State) (n : Nat) (good : BitVec 4), n < 8 →
    let l := linkOf s n
    (l.state = 1 →
      (∀ w, widthOf good = some w → spkLanesMin s n ≤ w → Performs (exec (.linkRetrain n good) s) fun t => (linkOf t n).state = 2
        ∧ (linkOf t n).lanes = w ∧ (linkOf t n).crReq = 512 ∧ (linkOf t n).crRsp = 512 ∧ (linkOf t n).crCtl = 32)
      ∧ ((∀ w, widthOf good = some w → w < spkLanesMin s n) → Performs (exec (.linkRetrain n good) s) fun t => (linkOf t n).state = 1
        ∧ (linkOf t n).crReq = l.crReq))
    ∧ (l.state = 4 ∨ ((l.state = 2 ∨ l.state = 3) ∧ (good ≠ 0xF ∨ ctrSpent l = true)) →
      (∀ w, widthOf good = some w → spkLanesMin s n ≤ min w l.lanes → Performs (exec (.linkRetrain n good) s) fun t =>
        (linkOf t n).state = (if l.keys then 3 else 2) ∧ (linkOf t n).lanes = min w l.lanes ∧ (linkOf t n).replayRun = 0
        ∧ (linkOf t n).crReq = l.crReq ∧ (linkOf t n).crRsp = l.crRsp ∧ (linkOf t n).crCtl = l.crCtl ∧ (linkOf t n).replay = l.replay
        ∧ (linkOf t n).ctr = (if ctrSpent l then 0 else l.ctr) ∧ (w < l.lanes → (rget t (0x210 + n) 0x10).getLsbD 1 = true))
      ∧ ((∀ w, widthOf good = some w → min w l.lanes < spkLanesMin s n) → Performs (exec (.linkRetrain n good) s) fun t => (linkOf t n).state = 4
        ∧ (linkOf t n).replay = l.replay)))
  ∧ ∀ (s : State) (n : Nat), n < 8 → (linkOf s n).state ≠ 0 → Performs (exec (.linkDown n) s) fun t =>
      (linkOf t n).state = (if spkEn s n then 1 else 0) ∧ (linkOf t n).keys = false ∧ (linkOf t n).replay = [] ∧ (linkOf t n).waiting = []
      ∧ (linkOf t n).crReq = 0 ∧ (linkOf t n).crRsp = 0 ∧ (linkOf t n).crCtl = 0
      ∧ ((∀ r ∈ s.remotes, r.link ≠ n) → (linkOf s n).lastValid + 500000 ≤ t.now ∧ (rget t (0x210 + n) 0x10).getLsbD 0 = true
        ∧ ∀ d < 16, d ≠ ownId s → routeOf s d = some n → (tfind t.unreachable d).isSome = true)

/-- Flits, credits, training and failure of a link.
It rests on the model's own choices and readings in notes/assumptions/8.md, notes/assumptions/40.md, notes/assumptions/52.md. -/
def Obligations.SpokeLinks : Prop := Says.SpokeFlits ∧ Says.SpokeTraining

/-- Tandem groups (R419, R420): a peer that the checks admit brings the link UP with keys and is entered with its table; one that they refuse
leaves the link in TRAINED, and admission may be tried again after 1 s. Of a peer's table new entries are taken and none is replaced; a
conflicting one takes the link to TRAINED. The entry of a device that has been unreachable for 1 s is dropped and its proxies are abandoned.
It rests on the model's own choices and readings in notes/assumptions/8.md, notes/assumptions/40.md, notes/assumptions/54.md. -/
def Obligations.TandemGroups : Prop :=
  (∀ (s : State) (n : Nat) (x : AdmissionOffer), n < 8 → (linkOf s n).state = 2 →
    let l := linkOf s n
    (l.retryAt = 0 → admits s n x = true → Performs (exec (.admission n x) s) fun t =>
      linkOf t n = { l with state := 3, peer := x.id, keys := true, ctr := 0, lastValid := s.now } ∧ memberKey t x.id = some x.keyHash
      ∧ (∀ m ∈ x.members, (memberKey t m.1).isSome = true) ∧ ∀ id k, memberKey s id = some k → memberKey t id = some k)
    ∧ (l.retryAt = 0 → admits s n x = false → Performs (exec (.admission n x) s) fun t => (linkOf t n).state = 2 ∧ (linkOf t n).keys = l.keys
      ∧ (linkOf t n).retryAt = s.now + 1000000000 ∧ t.members = s.members)
    ∧ (l.retryAt ≠ 0 → Performs (exec (.admissionRetry n) s) fun t => (linkOf t n).retryAt = 0 ∧ l.retryAt ≤ t.now))
  ∧ (∀ (s : State) (n : Nat) (es : List (Nat × BitVec 384)), n < 8 → (linkOf s n).state = 3 → (es.map (·.1)).Nodup → (∀ m ∈ es, m.1 < 16) →
      ((∀ m ∈ es, ∀ k, memberKey s m.1 = some k → k = m.2) → Performs (exec (.memberTable n es) s) fun t => (linkOf t n).state = 3
        ∧ (∀ m ∈ es, memberKey t m.1 = some m.2) ∧ ∀ id k, memberKey s id = some k → memberKey t id = some k)
      ∧ (∀ m ∈ es, ∀ k, memberKey s m.1 = some k → k ≠ m.2 → Performs (exec (.memberTable n es) s) fun t => (linkOf t n).state = 2
        ∧ ∀ id k, memberKey s id = some k → memberKey t id = some k))
  ∧ ∀ (s : State) (id : Nat), id < 16 → id ≠ ownId s → reachable s id = false → Performs (exec (.memberExpiry id) s) fun t =>
      t.members = s.members.filter (fun m => m.1 != id) ∧ (tfind s.unreachable id).getD 0 + 1000000000 ≤ t.now
      ∧ ∀ slot f h, tfind s.fences slot = some f → f.home = some h → h.1 = id → ∃ g, tfind t.fences slot = some g ∧ g.state = fsAbandoned

/-- Reserved bits read as zero, and what is written to them is ignored: two words that agree on every field write the same (R6). A refused
access has no effect but that the target page's ERR_CNT and STAT.ERR, DEV_ACC_INFO, DEV_ACC_CNT and DEV IRQ_STAT.ACC record it, and a refused
read returns zeros (R500). -/
def Obligations.ReservedBitsAndRefusals : Prop :=
  (∀ (s : State) (page off i : Nat) (r : Reg), regRow page off = some r → (∀ f ∈ r.flds, i < f.lo ∨ f.hi < i) →
    (regValue s page off).getLsbD i = false)
  ∧ (∀ (s : State) (path : Path) (page pg off : Nat) (whole : Bool) (v v' : W32) (r : Reg), off < 0x1000 →
      reach s path page off whole true = .full pg → regRow pg off = some r → (∀ f ∈ r.flds, bits v f.hi f.lo = bits v' f.hi f.lo) →
      exec (.registerWrite path page off whole v) s = exec (.registerWrite path page off whole v') s)
  ∧ ∀ (s : State) (path : Path) (page off : Nat) (target : Option Nat) (p k vi pg : Nat), off < 0x1000 →
      let same := fun t : State =>
        (∀ q, target = some q → rbits t q 0x14 15 0 = min 0xFFFF (rbits s q 0x14 15 0 + 1) ∧ (rget t q 0x08).getLsbD 31 = true)
        ∧ (rget t 0 0x10).getLsbD 0 = true ∧ rget t 0 0x110 = BitVec.ofNat 32 (min 0xFFFFFFFF ((rget s 0 0x110).toNat + 1))
        ∧ (infoHeld s 0 0x10C = true → rget t 0 0x10C = setBit (rget s 0 0x10C) 30)
        ∧ (∀ q o, o < 0x1000 → (target = some q → o ≠ 0x14 ∧ o ≠ 0x08) → (q = 0 → o ≠ 0x10 ∧ o ≠ 0x10C ∧ o ≠ 0x110) → rget t q o = rget s q o)
        ∧ { t with regs := s.regs, accOffset := s.accOffset, accData := s.accData, rdata := s.rdata } = s
      let recorded := fun (t : State) (v : W32) => infoHeld s 0 0x10C = false →
        rget t 0 0x10C = BitVec.ofNat 32 (2 ^ 31 + (p * 2 ^ 28 + k * 2 ^ 26 + vi * 2 ^ 20 + pg)) ∧ t.accOffset = pg * 0x1000 + off ∧ t.accData = v
      (∀ whole v, reach s path page off whole true = .refused target p k vi pg →
        Performs (exec (.registerWrite path page off whole v) s) fun t => same t ∧ recorded t v ∧ t.rdata = s.rdata)
      ∧ (reach s path page off true false = .refused target p k vi pg →
        Performs (exec (.rcRead path page off) s) fun t => same t ∧ recorded t 0 ∧ t.rdata = some 0)

/-- Register accesses (R5-R7, R499-R503, R508): a write takes each field at a value that its table lists and leaves the others, which ERR_CNT counts
once; reserved bits, unlisted offsets and read-only registers ignore it. The physical function's map reads the registers without side
effect, and its writes are refused. A read in full clears what is RC. -/
def Says.RegisterAccesses : Prop :=
  (∀ (s : State) (path : Path) (page off : Nat) (whole : Bool) (v : W32), off < 0x1000 → reach s path page off whole true = .full page →
    (regRow page off = none → exec (.registerWrite path page off whole v) s = .next s)
    ∧ (∀ r, regRow page off = some r → (∀ f ∈ r.flds, f.acc = .ro ∨ f.acc = .rc) → exec (.registerWrite path page off whole v) s = .next s)
    ∧ (off = 0x100 → ∀ p < 36, page = pgCore p →
        let bad := 8 < bits v 11 8 ∨ bits v 7 0 = 0
        Performs (exec (.registerWrite path page off whole v) s) fun t => rbits t page 0x100 16 16 = bits v 16 16
          ∧ rbits t page 0x100 11 8 = (if bits v 11 8 ≤ 8 then bits v 11 8 else rbits s page 0x100 11 8)
          ∧ rbits t page 0x100 7 0 = (if bits v 7 0 = 0 then rbits s page 0x100 7 0 else bits v 7 0)
          ∧ rbits t page 0x100 31 17 = rbits s page 0x100 31 17 ∧ rbits t page 0x100 15 12 = rbits s page 0x100 15 12
          ∧ rbits t page 0x14 15 0 = (if bad then min 0xFFFF (rbits s page 0x14 15 0 + 1) else rbits s page 0x14 15 0)
          ∧ { t with regs := s.regs, unvoted := s.unvoted } = s))
  ∧ (∀ (s : State) (page off : Nat), s.boot.up = true → pageExists page = true → off < 0x1000 → off % 4 = 0 →
      reach s .pf page off true true = .refused (some page) 1 1 0 page
      ∧ exec (.rcRead .pf page off) s = .next { s with rdata := some (regValue s page (off % 0x800)) })
  ∧ ∀ (s : State) (path : Path) (page off : Nat) (r : Reg), reach s path page off true false = .full page → off < 0x1000 → regRow page off = some r →
      (off < 0x20 ∨ 0x40 ≤ off) → pageKind page ≠ .pmc → (pageKind page ≠ .mem ∨ off ≠ 0x104) →
      Performs (exec (.rcRead path page off) s) fun t => t.rdata = some (regValue s page off)
        ∧ (∀ f ∈ r.flds, f.acc = .rc → ∀ i, f.lo ≤ i → i ≤ f.hi → (rget t page off).getLsbD i = false)
        ∧ (∀ i, (∀ f ∈ r.flds, f.acc = .rc → i < f.lo ∨ f.hi < i) → (rget t page off).getLsbD i = (rget s page off).getLsbD i)
        ∧ { t with regs := s.regs, rdata := s.rdata } = s

/-- Mailboxes, the scrubber and the host link (R451, R509-R511, R516): a request captures the words of its selection, and reading the last one
consumes them; before a capture words read as zero and EARLY is set; a reply is consumed the same way. An upset of one copy of a voted
field is corrected and counted; three copies that differ are recorded; a new state of the host link raises LINK. -/
def Says.MailboxesAndVoting : Prop :=
  (∀ (s : State) (path : Path) (page : Nat) (v : W32), Reaches s path page 0x18 → pageKind page ≠ .vi → bit v 31 = true →
    (∀ ws bad, selection s page (bits v 7 0) = some (ws, bad) → Performs (exec (.mailboxCapture path page v) s) fun t =>
      tget {} t.mbx page = { words := ws, valid := true, early := false, nw := ws.length, seq := (tget {} s.mbx page : Mailbox).seq + 1 }
      ∧ rbits t page 0x18 7 0 = bits v 7 0 ∧ (bad = true → rbits t page 0x14 15 0 = min 0xFFFF (rbits s page 0x14 15 0 + 1)))
    ∧ (selection s page (bits v 7 0) = none → Performs (exec (.mailboxCapture path page v) s) fun t => t.mbx = s.mbx
      ∧ rget t page 0x18 = rget s page 0x18 ∧ rbits t page 0x14 15 0 = min 0xFFFF (rbits s page 0x14 15 0 + 1)))
  ∧ (∀ (s : State) (path : Path) (page pg word : Nat), word < 8 → reach s path page (0x20 + 4 * word) true false = .full pg →
      let m : Mailbox := tget {} s.mbx pg
      (pageKind pg ≠ .vi → Performs (exec (.mailboxRead path page word) s) fun t =>
        t.rdata = some (if m.valid then m.words.getD word 0 else 0)
        ∧ tget {} t.mbx pg = (if m.valid then (if word + 1 = m.nw then { m with valid := false } else m) else { m with early := true }))
      ∧ (pageKind pg = .vi → ∀ r rest, (viOf s (pg - 0x10000)).replies = r :: rest → r.length = 4 → Performs (exec (.mailboxRead path page word) s) fun t =>
          t.rdata = some (BitVec.ofNat 32 ((r.getD (word / 2) 0).toNat / 2 ^ (32 * (word % 2))))
          ∧ (viOf t (pg - 0x10000)).replies = (if word = 7 then rest else r :: rest)))
  ∧ (∀ (s : State) (p copy k : Nat), p < 36 → copy < 3 → 0 < k → k < 256 →
      Performs (exec (.tmrScrub [{ page := pgCore p, off := 0x100, copy := copy, flip := BitVec.ofNat 32 k }]) s) fun t =>
        rget t (pgCore p) 0x100 = rget s (pgCore p) 0x100 ∧ t.unvoted = [] ∧ rbits t (pgCore p) 0x40 15 0 = min 0xFFFF (rbits s (pgCore p) 0x40 15 0 + 1)
        ∧ rbits t (pgCore p) 0x40 23 16 = 0x40 ∧ (rget t (pgCore p) 0x08).getLsbD 30 = true)
  ∧ (∀ (s : State) (p a b c : Nat), p < 36 → a < 256 → b < 256 → c < 256 → a ≠ b → a ≠ c → b ≠ c →
      let up := fun copy k => { page := pgCore p, off := 0x100, copy := copy, flip := BitVec.ofNat 32 k : Upset }
      Performs (exec (.tmrScrub [up 0 a, up 1 b, up 2 c]) s) fun t => t.unvoted = [(pgCore p, 0x100, 0)] ∧ (rget t (pgCore p) 0x40).getLsbD 31 = true
        ∧ rget t (pgCore p) 0x100 = rget s (pgCore p) 0x100)
  ∧ ∀ (s : State) (v : W32), hifLinkOk v = true → Performs (exec (.hifLinkChange v) s) fun t => rget t 0x200 0x100 = v ∧ t.mem = s.mem
      ∧ (v ≠ rget s 0x200 0x100 → (rget t 0x200 0x10).getLsbD 0 = true)

/-- Register accesses, mailboxes, voted fields and the host link.
It rests on the model's own choices and readings in notes/assumptions/13.md, notes/assumptions/15.md, notes/assumptions/56.md. -/
def Obligations.RegisterSpace : Prop := Says.RegisterAccesses ∧ Says.MailboxesAndVoting

/-- Draw batches (R340-R349): a DRAW whose descriptor and records hold what they must starts its batch, and its context records the depth mode; one
that does not ends with status 0x05. Each primitive of the draw in hand is culled and counted, or entered in the lists of its bins; where
the pool does not suffice binning stalls, or in FASTCLR the bins are rendered. POOL_POLL resumes it, and the bin phase follows the last draw.
It rests on the model's own choices and readings in notes/assumptions/46.md. -/
def Obligations.RasterBatches : Prop :=
  (∀ (s : State) (j p : Nat) (x : Job) (ps : List Nat) (bs rs : List Byte), jobOf s j = some x → x.phase = .started → pkType x.words = 2 → x.cores = p :: ps →
    vregsOk (jobVregs x) = true →
    let tag := tagOf s x.ctx
    let n := bits (pkW x 6) 31 16
    let pass := words64 bs
    let draws := (List.range n).map fun i => words64 ((rs.drop (64 * i)).take 64)
    let ends := fun (t : State) => ∃ y, jobOf t j = some y ∧ y.words = x.words ∧ y.phase = .ended 5 0
    (n = 0 ∨ bits (pkW x 7) 20 10 < 66 → Performs (exec (.draw j) s) ends)
    ∧ (n ≠ 0 → 66 ≤ bits (pkW x 7) 20 10 → rangeRead s p tag (bits (pkW x 4) 47 0) 128 = .ok bs →
        (passOk pass = false → Performs (exec (.draw j) s) ends)
        ∧ (passOk pass = true → rangeRead s p tag (bits (pkW x 5) 47 0) (64 * n) = .ok rs →
          ((∃ d ∈ draws, recordOk pass d = false) ∨ (∃ c m, ctxOf s x.ctx = some c ∧ c.dmode = some m ∧ m ≠ psFast pass) →
            Performs (exec (.draw j) s) ends)
          ∧ ∀ c h, (∀ d ∈ draws, recordOk pass d = true) → ctxOf s x.ctx = some c → (∀ m, c.dmode = some m → m = psFast pass) →
              rangeRead s p tag (psPool pass) 64 = .ok h → Performs (exec (.draw j) s) fun t => t.mem = s.mem
                ∧ ctxOf t x.ctx = some { c with dmode := some (psFast pass) }
                ∧ jobOf t j = some { x with phase := .running, groups := groupsBefore draws n, batch := { pass, draws, blocks := headBlocks pass } })))
  ∧ (∀ (s : State) (p j : Nat) (x : Job), jobOf s j = some x →
      let b := x.batch
      let d := b.draws.getD b.setUp []
      let tag := tagOf s x.ctx
      (∀ k vs, primVerts s p tag d k = .ok vs → (∀ v, vs = some v → setupTri d v = none) →
        setupPrim s p j b.setUp k = .ok (rcount s (pgGfx p) 0x10C))
      ∧ (∀ k vs q base limit, primVerts s p tag d k = .ok (some vs) → setupTri d vs = some q → rangeNat s p tag (psPool b.pass) 6 = .ok base →
          rangeNat s p tag (psPool b.pass + 8) 4 = .ok limit →
          let bins := binsOf b.pass d q
          bins ≠ [] → bins.length ≤ limit - headBlocks b.pass →
          (∀ t, b.blocks + (needBlocks b bins).length ≤ limit → setupPrim s p j b.setUp k = .ok t → ∃ y, jobOf t j = some y
            ∧ y.batch.bins = b.bins ++ bins.map (fun n => (n, b.setUp, k)) ∧ y.batch.blocks = b.blocks + (needBlocks b bins).length
            ∧ y.batch.tris = b.tris ++ [{ draw := b.setUp, prim := k, pts := q, verts := vs }] ∧ y.batch.stalled = b.stalled)
          ∧ (limit < b.blocks + (needBlocks b bins).length → needBlocks b bins ≠ [] → ∃ t, setupPrim s p j b.setUp k = .error t
            ∧ ∀ s1, putPool s p tag b (!psFast b.pass) = .ok s1 → ∃ y, jobOf t j = some y ∧ y.batch.bins = b.bins ∧ y.batch.nextPrim = k
              ∧ (if psFast b.pass then y.batch.binPhase = true ∧ y.batch.partialRun = true
                 else y.batch.stalled = true ∧ (rget t (pgGfx p) 0x10).getLsbD 1 = true)))
      ∧ (∀ ps, x.cores = p :: ps → pkType x.words = 2 → x.phase = .running → b.binPhase = false → b.stalled = false →
          (b.setUp < b.draws.length → drawShaded s j x = true →
            (∀ t, setupFrom p j b.setUp (drNprim d - b.nextPrim) b.nextPrim s = .ok t → ∀ y, jobOf t j = some y →
              exec (.drawSetup j) s = .next { t with jobs := tput t.jobs j { y with batch := { y.batch with setUp := b.setUp + 1, nextPrim := 0 } } })
            ∧ (∀ t, setupFrom p j b.setUp (drNprim d - b.nextPrim) b.nextPrim s = .error t → exec (.drawSetup j) s = .next t))
          ∧ (b.draws.length ≤ b.setUp → ∀ s1, putPool s p tag b false = .ok s1 → Performs (exec (.binPhaseStart j) s) fun t => t.mem = s1.mem
              ∧ jobOf t j = some { x with batch := { b with binPhase := true, binsDone := 0, nextBins := [] } })))
  ∧ (∀ (p j i n k : Nat) (s : State),
      (∀ t, setupPrim s p j i k = .ok t → setupFrom p j i (n + 1) k s = setupFrom p j i n (k + 1) t)
      ∧ (∀ t, setupPrim s p j i k = .error t → setupFrom p j i (n + 1) k s = .error t))
  ∧ ∀ (s s1 : State) (p j limit : Nat) (x : Job) (ps : List Nat), jobOf s j = some x → pkType x.words = 2 → x.cores = p :: ps → x.phase = .running →
      x.batch.stalled = true → x.batch.binPhase = false → x.batch.setUp < x.batch.draws.length →
      rangeNat s p (tagOf s x.ctx) (psPool x.batch.pass + 8) 4 = .ok limit →
      (limit ≤ x.batch.blocks → exec (.poolPoll j) s = .next s)
      ∧ (x.batch.blocks < limit → putPool s p (tagOf s x.ctx) x.batch false = .ok s1 →
          let y := { x with batch := { x.batch with stalled := false } }
          drawShaded (setBatch s1 j y.batch) j y = true → exec (.poolPoll j) s = exec (.drawSetup j) (setBatch s1 j y.batch))

/-- Bins and fragments (R350-R356): a bin starts with each attachment cleared, or read from its rows; its fragments launch in order in groups of at
most 32 whose record holds them, the early depth test first when DISC = 0; a retired group blends its colours where WMASK allows, unless
discarded; a finished bin is stored, or only its flag is set, and is counted.
It rests on the model's own choices and readings in notes/assumptions/46.md, notes/assumptions/47.md. -/
def Obligations.RasterBins : Prop :=
  (∀ (s : State) (p L j bin : Nat) (x : Job), p < 36 → logicalOf s p = some L → (coreOf s p).raster.bin = none → binJob s p L = some (j, x, bin) →
    let b := x.batch
    let pass := b.pass
    ∀ atts, initAll s p (tagOf s x.ctx) b bin (surfaces pass) = .ok atts → Performs (exec (.binStart p) s) fun t =>
      t.mem = s.mem ∧ (coreOf t p).raster.job = some j ∧ (coreOf t p).raster.bin = some bin ∧ (coreOf t p).raster.gathered = 0
      ∧ (coreOf t p).groups = (coreOf s p).groups
      ∧ (∀ a ∈ surfaces pass, loadOp b a = 1 → (a < 5 → (coreOf t p).raster.cleared.getLsbD a = true) ∧ ∀ i < 1024,
          lsRead (coreOf t p) (attBase x L a + attBytes pass a * i) (attBytes pass a) = clearBytes pass a)
      ∧ (psFast pass = false → ∀ i < 1024, lsNat (coreOf t p) (attBase x L 4 + 4 * i) 4 = psDclear pass)
      ∧ (∀ a ∈ surfaces pass, (a = 4 → psFast pass = true) → loadOp b a = 0 → psFlags pass = 0 → ∀ r ∈ binRowsOf pass a bin, ∀ bs,
          rangeRead s p (tagOf s x.ctx) r.1 r.2.2 = .ok bs → r.2.2 = bs.length → lsRead (coreOf t p) (attBase x L a + r.2.1) r.2.2 = bs))
  ∧ (∀ (s : State) (p L j bin draw : Nat) (x : Job) (fs : List Fragment), p < 36 → logicalOf s p = some L → jobOf s j = some x → x.phase = .running →
      let c := coreOf s p
      let d := x.batch.draws.getD draw []
      c.raster.job = some j → c.raster.bin = some bin → fs ≠ [] → fs.length ≤ 32 →
      ((binFragments x.batch bin).drop c.raster.gathered).take fs.length = fs.map (fun f => (draw, f)) →
      (drDisc d = false → ∀ g ∈ c.raster.frags, drDisc (x.batch.draws.getD g.draw []) = true → ∀ u ∈ g.frags, ∀ f ∈ fs, ¬ (f.x = u.x ∧ f.y = u.y)) →
      let live := if drDisc d then fs else (depthEarly x L d draw fs c).2
      (live = [] → Performs (exec (.fragmentGroup p fs) s) fun t => (coreOf t p).groups = c.groups ∧ (coreOf t p).raster.gathered = c.raster.gathered + fs.length
        ∧ (coreOf t p).raster.frags = c.raster.frags)
      ∧ (∀ slot, live ≠ [] → jobVregs x / 8 ≤ granFree c → fragSlot c = some slot → Performs (exec (.fragmentGroup p fs) s) fun t =>
          (coreOf t p).raster.gathered = c.raster.gathered + fs.length ∧ t.mem = s.mem
          ∧ (coreOf t p).raster.frags = c.raster.frags ++ [{ slot, index := x.groups + x.batch.fragGroups, draw, frags := live }]
          ∧ (∃ g, groupOf t p slot = some g ∧ g.job = j ∧ g.index = x.groups + x.batch.fragGroups ∧ g.vregs = jobVregs x
              ∧ (∀ l < 32, pcGet g l = BitVec.ofNat 64 (bits (drawWord d 1) 47 0)) ∧ sGet g 5 = BitVec.ofNat 64 (firstRange x))
          ∧ (∃ y, jobOf t j = some y ∧ y.liveGroups = x.liveGroups + 1 ∧ y.batch.fragGroups = x.batch.fragGroups + 1)
          ∧ lsNat (coreOf t p) (recordBase x slot) 4 = 2 ^ live.length - 1 ∧ lsNat (coreOf t p) (recordBase x slot + 4) 4 = draw % 2 ^ 32
          ∧ ∀ k f, live[k]? = some f → lsNat (coreOf t p) (recordBase x slot + 16 + 4 * k) 2 = f.x % 2 ^ 16
              ∧ lsNat (coreOf t p) (recordBase x slot + 18 + 4 * k) 2 = f.y % 2 ^ 16
              ∧ lsNat (coreOf t p) (recordBase x slot + 144 + 4 * k) 4 = fragValue x.batch draw f 0
              ∧ ∀ a < drNattr d, a < 16 → lsNat (coreOf t p) (recordBase x slot + 272 + 64 * k + 4 * a) 4 = fragValue x.batch draw f (a + 1)))
  ∧ (∀ (c : Core) (x : Job) (L draw : Nat) (d : List W64) (f : Fragment),
      let a := attBase x L 4 + 4 * binPixel f
      let z := fragValue x.batch draw f 0
      let pass := drDtest d = false ∨ depthPasses (drDcmp d) z (lsNat c a 4) = true
      (pass → (depthStep c x L d draw f).2 = true ∧ lsNat (depthStep c x L d draw f).1 a 4 = (if drDwrite d then z else lsNat c a 4))
      ∧ (¬ pass → depthStep c x L d draw f = (c, false)))
  ∧ (∀ (s : State) (p L j : Nat) (x : Job) (g : FragGroup) (rest : List FragGroup) (f : Fragment), p < 36 → logicalOf s p = some L → jobOf s j = some x →
      let c := coreOf s p
      let d := x.batch.draws.getD g.draw []
      let pass := x.batch.pass
      c.raster.job = some j → c.raster.frags = g :: rest → (∀ y, groupOf s p g.slot = some y → y.job ≠ j ∨ y.index ≠ g.index) →
      (g.frags = [f] → drDisc d = true → lsByte c (recordBase x g.slot + 3584) ≠ 0 → Performs (exec (.fragmentRetire p) s) fun t =>
        (coreOf t p).raster.frags = rest ∧ (coreOf t p).ls = c.ls)
      ∧ (g.frags = [f] → drDisc d = false → psNcol pass = 1 → Performs (exec (.fragmentRetire p) s) fun t =>
          let k := attBytes pass 0
          let at_ := attBase x L 0 + k * binPixel f
          let src := (List.range 4).map fun i => (convFF binary16 binary32 .even false (lsNat c (recordBase x g.slot + 2560 + 2 * i) 2)).1
          let dst := pixelIn (psFmt pass 0) (lsNat c at_ k)
          (coreOf t p).raster.frags = rest ∧ (∀ a, a < at_ ∨ at_ + k ≤ a → lsByte (coreOf t p) a = lsByte c a)
          ∧ lsNat (coreOf t p) at_ k = (if (drWmask d).getLsbD 0 then
              pixelOut s.free (psFmt pass 0) ((List.range 4).map fun i => blendChannel (drBlend d) (src.getD i 0) (src.getD 3 0) (dst.getD i 0)) % 2 ^ (8 * k)
            else lsNat c at_ k)))
  ∧ ∀ (s : State) (p L j bin : Nat) (x : Job), p < 36 → logicalOf s p = some L → jobOf s j = some x → x.phase = .running →
      let c := coreOf s p
      let b := x.batch
      c.raster.job = some j → c.raster.bin = some bin → c.raster.frags = [] → (binFragments b bin).length ≤ c.raster.gathered →
      (∀ s1, storeAll p (tagOf s x.ctx) L x c.raster bin (surfaces b.pass) s = .ok s1 →
        Performs (exec (.binStore p) s) fun t => t.mem = s1.mem ∧ (coreOf t p).raster = {} ∧ ∃ y, jobOf t j = some y
          ∧ (b.partialRun = false ∨ b.binsDone + 1 < binCount b.pass →
              y.batch = { b with binsDone := b.binsDone + 1, nextBins := tput b.nextBins L (tget 0 b.nextBins L + 1) })
          ∧ (b.partialRun = true → binCount b.pass ≤ b.binsDone + 1 → y.batch.bins = [] ∧ y.batch.blocks = headBlocks b.pass ∧ y.batch.binPhase = false
              ∧ y.batch.partialRun = false ∧ y.batch.forceLoad = true))
      ∧ ((∀ a ∈ surfaces b.pass, (if a = 4 then psDstore b.pass else psStore b.pass a) = false) → Performs (exec (.binStore p) s) fun t => t.mem = s.mem)
      ∧ (psNcol b.pass = 1 → psFast b.pass = false → psStore b.pass 0 = true → psFlags b.pass ≠ 0 → psFlush b.pass = false →
          c.raster.cleared.getLsbD 0 = true → c.raster.written.getLsbD 0 = false → ∀ old pa, rangeNat s p (tagOf s x.ctx) (psFlags b.pass + bin / 8) 1 = .ok old →
          rangePas s p (tagOf s x.ctx) .w (psFlags b.pass + bin / 8) 1 = .ok [pa] → Performs (exec (.binStore p) s) fun t =>
            (∀ a, a ≠ pa → memByte t a = memByte s a)
            ∧ ∀ i < 8, (memByte t pa).getLsbD i = if i = bin % 8 then true else old.testBit i)

/-- Channels and ports (R365-R367, R388, R389): enabling a channel reads its descriptor, and it runs under its tag or is refused; stopping it leaves it
off with no frame in progress. A change of a port's link is shown and raises LINK. A packet that no running channel takes changes nothing,
and one of another kind or format is dropped and counted. -/
def Says.VideoChannels : Prop :=
  (∀ (s : State) (path : Path) (page : Nat) (v : W32), isVio page = true → Reaches s path page 0x10C →
    let ch := rbits s page 0x108 4 0
    let c := chanOf s page ch
    (bit v 31 = true → s.power.ioHeld = false → c.state ≠ 1 →
      let taken := fun (t : State) st d => (chanOf t page ch).state = st ∧ (chanOf t page ch).desc = d ∧ bits (chanOf t page ch).ctl 11 0 = bits v 11 0
        ∧ (chanOf t page ch).lost = c.lost ∧ (chanOf t page ch).begun = false ∧ t.mem = s.mem
      let refused := Performs (exec (.channelEnable path page v) s) fun t => (chanOf t page ch).state = 2 ∧ (rget t page 0x10).getLsbD 1 = true
      (c.descAddr.toNat % 64 ≠ 0 → refused)
      ∧ ∀ bs, c.descAddr.toNat % 64 = 0 → rangeRead s (vioUnit page) (bits v 11 0) c.descAddr.toNat 64 = .ok bs →
          let good := chanShape s page ch (words64 bs) = true ∧ chanFits s page ch (bits v 11 0) (words64 bs) = true
          (good → Performs (exec (.channelEnable path page v) s) fun t => taken t 1 (words64 bs))
          ∧ (¬ good → refused ∧ Performs (exec (.channelEnable path page v) s) fun t => taken t 2 (words64 bs)))
    ∧ (Performs (exec (.channelStop path page) s) fun t => (chanOf t page ch).state = 0 ∧ (chanOf t page ch).inFrame = false
        ∧ (chanOf t page ch).ctl.getLsbD 31 = false ∧ (c.inFrame = false → t.mem = s.mem)))
  ∧ (∀ (s : State) (page : Nat) (up : Bool), isVio page = true → Performs (exec (.vioLinkChange page up) s) fun t =>
      rbits t page 0x104 31 31 = (if up then 1 else 0)
      ∧ (rbits s page 0x104 31 31 ≠ (if up then 1 else 0) → (rget t page 0x10).getLsbD 2 = true))
  ∧ ∀ (s : State) (port : Nat) (dst : W32) (udp : BitVec 16) (pt : BitVec 7) (m : VideoPacket) (a : AudioPacket), port < 4 → portUp s (0x220 + port) = true →
      m.port = port → m.dst = dst → m.udp = udp → m.pt = pt → a.port = port → a.dst = dst → a.udp = udp → a.pt = pt →
      ∀ c k fmt, (c = Instr.st2110Packet m ∧ k = 1 ∧ fmt = m.formatOk) ∨ (c = .aes67Packet a ∧ k = 2 ∧ fmt = a.formatOk)
          ∨ (c = .ancillaryPacket a ∧ k = 3 ∧ fmt = a.formatOk) →
        (matchChan s (0x220 + port) dst udp pt = none → exec c s = .next s)
        ∧ ∀ ch, matchChan s (0x220 + port) dst udp pt = some ch → chKind (chanOf s (0x220 + port) ch).desc ≠ k ∨ fmt = false →
            Performs (exec c s) fun t => rget t (0x220 + port) 0x11C = BitVec.ofNat 32 (min 0xFFFFFFFF ((rget s (0x220 + port) 0x11C).toNat + 1))
              ∧ t.vchans = s.vchans ∧ t.mem = s.mem

/-- Reception (R369-R373): the bytes of a row land in the slot of their frame; a complete line lands, and earlier lines that lack bytes land as lost; a
new time-stamp ends the frame, its missing lines lost; a slot record tells how it ended. CSI-2 lines, audio sample frames and ancillary
entries land one after another; what is missing is counted. -/
def Says.VideoReception : Prop :=
  (∀ (s : State) (m : VideoPacket) (ch : Nat), m.port < 4 →
    let page := 0x220 + m.port
    let c := chanOf s page ch
    let d := c.desc
    portUp s page = true → matchChan s page m.dst m.udp m.pt = some ch → chKind d = 1 → m.formatOk = true → m.fieldBit = false → running c = true →
    chSources s 1 page ch = [] → c.begun = true → 0 < chLineb d →
    (∀ line data pas, c.stamp = m.stamp → c.inFrame = true → c.seen = [] → m.rows = [(line, 0, data)] → data.length = chLineb d → line < chLines d → m.marker = false →
      rangePas s (vioUnit page) (chTag c) .w (slotOf d c.frame + line * chPitch d) (chLineb d) = .ok pas → pas.Nodup →
      (line = c.landed → Performs (exec (.st2110Packet m) s) fun t => Lands s t pas data ∧ chanOf t page ch = { c with landed := c.landed + 1 })
      ∧ (line = c.landed + 2 → Performs (exec (.st2110Packet m) s) fun t => Lands s t pas data ∧ (chanOf t page ch).landed = c.landed + 1
          ∧ (chanOf t page ch).lostLines = c.lostLines + 1 ∧ (chanOf t page ch).lost = min 0xFFFF (c.lost + 1)))
    ∧ (c.stamp ≠ m.stamp → c.inFrame = true → chRec d = 0 → m.rows = [] → m.marker = false → Performs (exec (.st2110Packet m) s) fun t => t.mem = s.mem
        ∧ (chanOf t page ch).lost = min 0xFFFF (c.lost + (chLines d - c.landed)) ∧ (chanOf t page ch).frame = (c.frame + 1) % 2 ^ 48
        ∧ (chanOf t page ch).landed = 0 ∧ (chanOf t page ch).lostLines = 0 ∧ (chanOf t page ch).stamp = m.stamp ∧ (chanOf t page ch).inFrame = true)
    ∧ (∀ pas, c.stamp = m.stamp → c.inFrame = true → m.rows = [] → m.marker = true → c.landed = chLines d → chRec d ≠ 0 →
        rangePas s (vioUnit page) (chTag c) .w (chRec d + 32 * (c.frame % chNfr d)) 32 = .ok pas → pas.Nodup →
        Performs (exec (.st2110Packet m) s) fun t => (chanOf t page ch).inFrame = false
          ∧ Lands s t pas (natLe 8 c.frame ++ natLe 8 c.frameAt ++ natLe 2 c.landed ++ natLe 2 c.lostLines ++ [0] ++ List.replicate 11 0)))
  ∧ (∀ (s : State) (rx vc : Nat), rx < 8 → vc < 16 →
      let page := 0x224 + rx
      let c := chanOf s page vc
      let d := c.desc
      portUp s page = true → running c = true → chSources s 1 page vc = [] →
      (∀ frame, frame < 2 ^ 16 → c.inFrame = false → Performs (exec (.csi2FrameStart rx vc frame) s) fun t => t.mem = s.mem ∧ (chanOf t page vc).inFrame = true
        ∧ (chanOf t page vc).landed = 0 ∧ (chanOf t page vc).frameAt = s.now
        ∧ (chanOf t page vc).frame = (if c.begun then (c.frame + 1) % 2 ^ 48 else 0))
      ∧ (∀ (hdr : HeaderError) bad data pas, hdr ≠ .uncorrectable → c.inFrame = true → c.landed < chLines d →
          rangePas s (vioUnit page) (chTag c) .w (slotOf d c.frame + c.landed * chPitch d) (min (chLineb d) data.length) = .ok pas → pas.Nodup →
          Performs (exec (.csi2LongPacket rx vc (chFmtx d) hdr bad data) s) fun t => Lands s t pas (data.take (chLineb d)) ∧ (chanOf t page vc).landed = c.landed + 1
            ∧ (chanOf t page vc).lost = (if bad = true ∨ data.length ≠ chLineb d then min 0xFFFF (c.lost + 1) else c.lost))
      ∧ (∀ dt bad data, Performs (exec (.csi2LongPacket rx vc dt .uncorrectable bad data) s) fun t =>
          rget t page 0x11C = BitVec.ofNat 32 (min 0xFFFFFFFF ((rget s page 0x11C).toNat + 1)) ∧ t.vchans = s.vchans ∧ t.mem = s.mem)
      ∧ (∀ pas, c.inFrame = true → chRec d ≠ 0 → rangePas s (vioUnit page) (chTag c) .w (chRec d + 32 * (c.frame % chNfr d)) 32 = .ok pas → pas.Nodup →
          Performs (exec (.csi2FrameEnd rx vc) s) fun t => (chanOf t page vc).inFrame = false
            ∧ Lands s t pas (natLe 8 c.frame ++ natLe 8 c.frameAt ++ natLe 2 c.landed ++ natLe 2 c.lostLines
                ++ [if c.landed < chLines d then 1 else 0] ++ List.replicate 11 0)))
  ∧ (∀ (s : State) (m : AudioPacket) (ch : Nat), m.port < 4 →
      let page := 0x220 + m.port
      let c := chanOf s page ch
      let d := c.desc
      portUp s page = true → matchChan s page m.dst m.udp m.pt = some ch → m.formatOk = true → running c = true → c.begun = true →
      (∀ pas, chKind d = 2 → chSources s 3 page ch = [] → chFmtx d = 1 → 0 < chLines d → m.payload.length = 3 * chLines d → m.stamp = BitVec.ofNat 32 c.pos →
        rangePas s (vioUnit page) (chTag c) .w (sampleAddr d c.pos) (4 * chLines d) = .ok pas → pas.Nodup → Performs (exec (.aes67Packet m) s) fun t =>
          chanOf t page ch = { c with pos := c.pos + 1, lost := min 0xFFFF c.lost }
          ∧ Lands s t pas ((List.range (chLines d)).flatMap fun k => [0, m.payload.getD (3 * k + 2) 0, m.payload.getD (3 * k + 1) 0, m.payload.getD (3 * k) 0]))
      ∧ (∀ pas, chKind d = 3 → c.stamp = m.stamp → m.payload.length ≤ 1020 → c.entry < chLines d →
          rangePas s (vioUnit page) (chTag c) .w (slotOf d c.frame + 1024 * c.entry) (4 + m.payload.length) = .ok pas → pas.Nodup →
          Performs (exec (.ancillaryPacket m) s) fun t => Lands s t pas (natLe 4 m.payload.length ++ m.payload) ∧ chanOf t page ch = { c with entry := c.entry + 1 }))
  ∧ ∀ (s : State) (port : Nat) (samples : List W32), port < 4 →
      let page := 0x22C + port
      let c := chanOf s page 0
      portUp s page = true → running c = true → running (chanOf s page 1) = false → chSources s 3 page 0 = [] →
      ∀ pas, rangePas s (vioUnit page) (chTag c) .w (sampleAddr c.desc c.pos) (4 * chLines c.desc) = .ok pas → pas.Nodup →
        Performs (exec (.tdmFrameSync port samples) s) fun t => chanOf t page 0 = { c with pos := c.pos + 1 }
          ∧ Lands s t pas ((List.range (chLines c.desc)).flatMap fun k => natLe 4 ((samples.getD k 0).toNat * 2 ^ (32 - tdmWidth s page) % 2 ^ 32))

/-- Channels and reception of video, audio and ancillary data.
It rests on the model's own choices and readings in notes/assumptions/44.md, notes/assumptions/48.md. -/
def Obligations.VideoReception : Prop := Says.VideoChannels ∧ Says.VideoReception

/-- Transmission and time (R372-R376): at its frame time a video channel sends the slot that its ready word names, one sent again being counted; an audio
channel sends the next sample frame, an ancillary one the entries of its slot. The servo locks after sixteen small offsets, taking the
offset off the device timestamp; four large ones in a row, or 3 s without a sync message, lose the lock; locked, the clock is not stepped.
It rests on the model's own choices and readings in notes/assumptions/8.md, notes/assumptions/48.md. -/
def Obligations.VideoTransmission : Prop :=
  (∀ (s : State) (page ch : Nat), isEth page = true → ch < 32 →
    let c := chanOf s page ch
    let d := c.desc
    let rd := fun s a n => rangeRead s (vioUnit page) (chTag c) a n
    portUp s page = true → running c = true →
    (∀ w img, chKind d = 9 → c.begun = true → rangeNat s (vioUnit page) (chTag c) (chReady d) 8 = .ok w → chLines d = 1 →
      rd s (chBase d + nbits w 5 0 * chStride d) (chLineb d) = .ok img → Performs (exec (.videoOutFrame page ch) s) fun t =>
        (chanOf t page ch).sent = img ∧ (chanOf t page ch).frame = c.frame + 1 ∧ (chanOf t page ch).lastCount = nbits w 63 16
        ∧ (chanOf t page ch).lost = (if nbits w 63 16 = c.lastCount then min 0xFFFF (c.lost + 1) else c.lost)
        ∧ frameTime d c.frame ≤ t.now ∧ t.mem = s.mem)
    ∧ (∀ bs, chKind d = 0xA → c.begun = true → rd s (sampleAddr d c.pos) (4 * chLines d) = .ok bs → Performs (exec (.audioOutSend page ch) s) fun t =>
        (chanOf t page ch).sent = bs ∧ (chanOf t page ch).pos = c.pos + 1 ∧ c.pos * 1000000000 ≤ t.now * 48000 ∧ t.mem = s.mem)
    ∧ (∀ w l bs, chKind d = 0xB → chLines d = 1 → rangeNat s (vioUnit page) (chTag c) (chReady d) 8 = .ok w →
        let at_ := chBase d + nbits w 5 0 * chStride d
        rangeNat s (vioUnit page) (chTag c) at_ 4 = .ok l → 0 < l → l ≤ 1020 → rd s (at_ + 4) l = .ok bs → Performs (exec (.ancillaryOutSend page ch) s) fun t =>
          (chanOf t page ch).sent = bs ∧ t.mem = s.mem))
  ∧ (∀ (s : State) (port : Nat) (samples : List W32), port < 4 →
      let page := 0x22C + port
      let c := chanOf s page 1
      portUp s page = true → running c = true → running (chanOf s page 0) = false →
      ∀ bs, rangeRead s (vioUnit page) (chTag c) (sampleAddr c.desc c.pos) (4 * chLines c.desc) = .ok bs → Performs (exec (.tdmFrameSync port samples) s) fun t =>
        chanOf t page 1 = { c with pos := c.pos + 1, sent := bs } ∧ t.mem = s.mem)
  ∧ ∀ (s : State) (port : Nat) (offset delay : Int), servoPort s = some port → (∀ x ∈ s.sources, srcKind x.2 ≠ 4) →
      let small := offset.natAbs < 1000
      let o := exec (.ptpSync offset delay) s
      (s.ptp.locked = true →
        (small → Performs o fun t => t.ptp.locked = true ∧ t.ptp.bad = 0 ∧ t.ptp.lastSync = s.now ∧ t.ptp.offset = offset ∧ t.now = s.now)
        ∧ (¬ small → s.ptp.bad < 3 → Performs o fun t => t.ptp.locked = true ∧ t.ptp.bad = s.ptp.bad + 1 ∧ t.now = s.now)
        ∧ (¬ small → 3 ≤ s.ptp.bad → Performs o fun t => t.ptp.locked = false ∧ rbits t (0x220 + port) 0x104 30 30 = 0 ∧ t.now = s.now)
        ∧ Performs (exec .ptpSyncTimeout s) fun t => t.ptp.locked = false ∧ s.ptp.lastSync + 3000000000 ≤ t.now ∧ rbits t (0x220 + port) 0x104 30 30 = 0)
      ∧ (s.ptp.locked = false → s.ptp.everLocked = false →
        (small → s.ptp.good < 15 → Performs o fun t => t.ptp.locked = false ∧ t.ptp.good = s.ptp.good + 1 ∧ t.now = s.now)
        ∧ (small → 15 ≤ s.ptp.good → offset ≤ s.now → Performs o fun t => t.ptp.locked = true ∧ (t.now : Int) = s.now - offset
            ∧ rbits t (0x220 + port) 0x104 30 30 = 1)
        ∧ (¬ small → Performs o fun t => t.ptp.locked = false ∧ t.ptp.good = 0 ∧ t.now = s.now))
      ∧ (s.ptp.locked = false → s.ptp.everLocked = true →
        (small → Performs o fun t => t.ptp.locked = true ∧ t.now = s.now)
        ∧ (offset < -1000000 → Performs o fun t => t.ptp.locked = true ∧ (t.now : Int) = s.now - offset)
        ∧ (¬ small → -1000000 ≤ offset → Performs o fun t => t.ptp.locked = false ∧ t.now = s.now))

/-- Display pipes (R377-R385): a pipe starts on its first blanking line unless its timing is refused; the descriptor that its slot names is read once a
frame and checked, and takes effect at scan line 0, else the previous one stays; scan lines follow one another, a layer that meets a
translation fault turns off, the blended line is written back, and its readiness word after the last. Hot plug and training set the link.
It rests on the model's own choices and readings in notes/assumptions/49.md. -/
def Obligations.DisplayPipes : Prop :=
  (∀ (s : State) (path : Path) (n : Nat) (v : W32), n < 4 → Reaches s path (pgCmp n) 0x100 → bits v 28 27 ≤ 2 → bits v 26 25 ≤ 2 → bit v 31 = true →
    let x := pipeOf s n
    (x.on = false → timingOk s n v = true → Performs (exec (.pipeEnable path n v) s) fun t => (pipeOf t n).on = true ∧ (pipeOf t n).frame = 0
      ∧ (pipeOf t n).line = bits (rget s (pgCmp n) 0x108) 15 0 ∧ (pipeOf t n).htim = rget s (pgCmp n) 0x104 ∧ (pipeOf t n).pclk = rget s (pgCmp n) 0x10C
      ∧ (pipeOf t n).tag = bits v 11 0 ∧ (pipeOf t n).hpd = x.hpd ∧ t.mem = s.mem)
    ∧ (x.on = false → timingOk s n v = false → Performs (exec (.pipeEnable path n v) s) fun t => t.pipes = s.pipes ∧ rget t (pgCmp n) 0x100 = rget s (pgCmp n) 0x100)
    ∧ (Performs (exec (.pipeDisable path n) s) fun t => (pipeOf t n).on = false ∧ (pipeOf t n).hpd = x.hpd ∧ (pipeOf t n).rate = x.rate
        ∧ (rget t (pgCmp n) 0x100).getLsbD 31 = false ∧ t.mem = s.mem))
  ∧ (∀ (s : State) (n : Nat), n < 4 →
      let x := pipeOf s n
      (x.hpd = true → ∀ rate lanes, rate ≤ 5 → lanes ≤ 2 → Performs (exec (.dpLinkTraining n rate lanes) s) fun t =>
        pipeOf t n = { x with rate := rate, lanes := if rate = 0 then 0 else lanes })
      ∧ (x.hpd = true → Performs (exec (.hotPlugLoss n) s) fun t => pipeOf t n = { x with hpd := false, rate := 0, lanes := 0 }
        ∧ (rget t (pgCmp n) 0x10).getLsbD 3 = true)
      ∧ Performs (exec (.hotPlugDetect n) s) fun t => pipeOf t n = { x with hpd := true })
  ∧ (∀ (s : State) (n a : Nat), n < 4 →
      let x := pipeOf s n
      x.on = true → x.line = x.vact → x.fetched = false → tagLive s x.tag = true → rangeNat s (cmpUnit n) x.tag x.ptr 8 = .ok a →
      (a = 0 → exec (.descriptorFetch n) s = .next (setPipe s n { x with fetched := true, next := none }))
      ∧ ∀ bs, a ≠ 0 → rangeRead s (cmpUnit n) x.tag a 576 = .ok bs →
          (frameOk x (words64 bs) = true → exec (.descriptorFetch n) s = .next (setPipe s n { x with fetched := true, next := some (words64 bs) }))
          ∧ (frameOk x (words64 bs) = false → Performs (exec (.descriptorFetch n) s) fun t => pipeOf t n = { x with fetched := true, next := none }
              ∧ rget t (pgCmp n) 0x11C = BitVec.ofNat 32 (min 0xFFFFFFFF ((rget s (pgCmp n) 0x11C).toNat + 1)) ∧ (rget t (pgCmp n) 0x10).getLsbD 1 = true))
  ∧ (∀ (s : State) (n : Nat), n < 4 →
      let x := pipeOf s n
      x.on = true → x.applied = false → x.line + 1 = x.vtot →
      (∀ d, x.next = some d → Performs (exec (.frameDescriptorApply n) s) fun t => (pipeOf t n).desc = d ∧ (pipeOf t n).previous = false
        ∧ (pipeOf t n).layersOff = 0 ∧ (pipeOf t n).applied = true)
      ∧ (x.next = none → Performs (exec (.frameDescriptorApply n) s) fun t => (pipeOf t n).desc = x.desc ∧ (pipeOf t n).previous = true
        ∧ (x.fetched = false → tagLive s x.tag = true → (rget t (pgCmp n) 0x10).getLsbD 2 = true
            ∧ rget t (pgCmp n) 0x120 = BitVec.ofNat 32 (min 0xFFFFFFFF ((rget s (pgCmp n) 0x120).toNat + 1)))))
  ∧ (∀ (s : State) (n : Nat) (late : BitVec 8), n < 4 → sourcesOf s 2 n = [] →
      let x := pipeOf s n
      x.on = true → x.khz ≠ 0 → x.vtot ≠ 0 →
      (x.vact ≤ x.line + 1 → x.line + 1 < x.vtot → Performs (exec (.scanLine n late) s) fun t => pipeOf t n = { x with line := x.line + 1 }
        ∧ (x.line + 1) * x.htot * 1000000 ≤ (t.now - x.line0At) * x.khz ∧ t.mem = s.mem)
      ∧ (x.line + 1 = x.vtot → x.applied = true → x.vact = 0 ∨ tagLive s x.tag = false → Performs (exec (.scanLine n late) s) fun t => (pipeOf t n).line = 0
          ∧ (pipeOf t n).frame = (x.frame + 1) % 2 ^ 48 ∧ (pipeOf t n).fetched = false ∧ (pipeOf t n).applied = false ∧ (pipeOf t n).line0At = t.now ∧ t.mem = s.mem)
      ∧ (x.line + 1 < x.vact → x.line + 1 < x.vtot → tagLive s x.tag = true →
          let y := { x with line := x.line + 1 }
          (layersOn y = [] → fdWbBase x.desc ≠ 0 → x.wbStopped = false → fdTone x.desc = 0 → ∀ pas,
            rangePas s (cmpUnit n) x.tag .w (fdWbBase x.desc + x.frame % fdWbNfr x.desc * (fdWbPitch x.desc * x.vact) + y.line * fdWbPitch x.desc) (wbBytes x) = .ok pas →
            pas.Nodup → Performs (exec (.scanLine n late) s) fun t => Lands s t pas ((List.range (wbBytes x)).map fun i => Config.blend x.cfg x.desc [] y.line [] i)
              ∧ (pipeOf t n).line = y.line ∧ ((pipeOf t n).wbDone = if y.line + 1 = x.vact then true else x.wbDone))
          ∧ (∀ l k f a, layersOn y = [l] → l < 8 → (readLayer (nextLine s n) n y l).bad = some (k, .fault f a) → (readLayer (nextLine s n) n y l).off = true →
              fdWbBase x.desc = 0 → Performs (exec (.scanLine n late) s) fun t => (pipeOf t n).layersOff = setBit x.layersOff l ∧ (pipeOf t n).line = y.line
                ∧ (rget t (pgCmp n) 0x10).getLsbD 0 = true ∧ t.mem = s.mem)))
  ∧ ∀ (s : State) (n : Nat) (pas : List Nat), n < 4 →
      let x := pipeOf s n
      x.wbDone = true → tagLive s x.tag = true → rangePas s (cmpUnit n) x.tag .w (fdReady x.desc) 8 = .ok pas → pas.Nodup →
      Performs (exec (.writebackReady n) s) fun t => Lands s t pas (natLe 8 (x.frame * 2 ^ 16 + x.frame % fdWbNfr x.desc)) ∧ pipeOf t n = { x with wbDone := false }

/-- The rings of the compression engines (R393, R394, R403, R406): enabling binds a ring with its counts at 0; a poll takes TAIL, stops a ring whose TAIL is
out of range, and fetches the next descriptor, refused ones with status 0x06; a completion writes its record, then HEAD, is counted, and
signals the fence that SIGEN names, or puts it into the error state. -/
def Says.CompressionRings : Prop :=
  (∀ (s : State) (path : Path) (e : Nat) (v : W32), e < 4 → Reaches s path (pgCpr e) 0x108 → bit v 31 = true → 2 ≤ bits v 30 27 → bits v 30 27 ≤ 12 →
    let r := rbits s (pgCpr e) 0x104 1 0
    let x := cprRing (cprOf s e) r
    x.on = false → Performs (exec (.cprRingEnable path e v) s) fun t => let y := cprRing (cprOf t e) r
      y.on = true ∧ y.size = 2 ^ bits v 30 27 ∧ y.tag = bits v 11 0 ∧ y.base = x.wbase ∧ y.head = 0 ∧ y.tail = 0 ∧ y.fault = false ∧ t.mem = s.mem)
  ∧ (∀ (s : State) (e r tl : Nat), e < 4 → r < 4 →
      let c := cprOf s e
      let x := cprRing c r
      c.desc = none → x.on = true → x.fault = false → (∀ k < 4, k ≠ r → (cprRing c k).on = false) → rangeNat s (cprUnit e) x.tag x.base.toNat 4 = .ok tl →
      let tail := BitVec.ofNat 32 tl
      (x.size < (tail - x.head).toNat → Performs (exec (.cprPoll e) s) fun t => (cprRing (cprOf t e) r).fault = true ∧ (cprOf t e).desc = none
        ∧ (cprRing (cprOf t e) r).tail = x.tail ∧ (rget t (pgCpr e) 0x10).getLsbD 1 = true)
      ∧ (tail = x.head → Performs (exec (.cprPoll e) s) fun t => cprRing (cprOf t e) r = { x with tail } ∧ (cprOf t e).desc = none)
      ∧ ∀ bs, tail ≠ x.head → (tail - x.head).toNat ≤ x.size →
          rangeRead s (cprUnit e) x.tag (x.base.toNat + 64 + 64 * (x.head.toNat % x.size)) 64 = .ok bs → Performs (exec (.cprPoll e) s) fun t =>
            cprRing (cprOf t e) r = { x with tail } ∧ (cprOf t e).desc = some (words64 bs) ∧ (cprOf t e).serving = r ∧ t.mem = s.mem
            ∧ (cprOf t e).outcome = (if cdOk s x.tag (words64 bs) then none else some (6, 0, 0, 0, 0)))
  ∧ ∀ (s s1 s3 : State) (e inn out chunks : Nat) (d : List W64) (st : BitVec 8) (crc : W32), e < 4 →
      let c := cprOf s e
      let x := cprRing c c.serving
      c.desc = some d → c.outcome = some (st, inn, out, crc, chunks) → cdCpl d % 32 = 0 →
      rangeWrite s (cprUnit e) x.tag (cdCpl d) (cprRecordBytes d st inn out crc chunks) = .ok s1 →
      rangeWrite s1 (cprUnit e) x.tag (x.base.toNat + 8) (natLe 4 (x.head + 1).toNat) = .ok s3 →
      Performs (exec (.cprComplete e) s) fun t => t.mem = s3.mem ∧ (cprOf t e).desc = none ∧ cprRing (cprOf t e) c.serving = { x with head := x.head + 1 }
        ∧ rget t (pgCpr e) 0x118 = BitVec.ofNat 32 (min 0xFFFFFFFF ((rget s (pgCpr e) 0x118).toNat + 1))
        ∧ ∀ f, cdSigen d = true → tagGranted s x.tag (cdSlot d) = true → genOf s (cdSlot d) = c.gen → tfind s.fences (cdSlot d) = some f → f.state = fsValue →
            (st = 0 → f.value.toNat < (dw d 5).toNat → dw d 5 ≠ BitVec.allOnes 64 → tfind t.fences (cdSlot d) = some { f with value := dw d 5 })
            ∧ (st = 1 → tfind t.fences (cdSlot d) = some f)
            ∧ (st ≠ 0 → st ≠ 1 → ∃ g, tfind t.fences (cdSlot d) = some g ∧ g.state = fsError ∧ g.value = f.value)

/-- The four operations (R395, R399-R405), on a stream of one chunk and a surface of one block: the coded form is written, with its headers and check
value, or status 0x01 says that it does not fit; a decompress writes the data and compares the check value, and one that differs gives
status 0x02 with no output. The outcome counts the bytes in and out. -/
def Says.CompressionOperations : Prop :=
  ∀ (s : State) (e : Nat) (d : List W64), e < 4 →
    let c := cprOf s e
    let u := cprUnit e
    let tag := (cprRing c c.serving).tag
    c.desc = some d → c.outcome = none → cdCont d = false → dw d 7 = 0 → cdOverlap d = false →
    (∀ bs, cdOp d = 0 → 0 < cdSrcLen d → cdSrcLen d ≤ 65536 → rangeRead s u tag (cdSrc d) (cdSrcLen d) = .ok bs →
      let size := sizeCode (cdFmt d)
      let out := streamHeader (cdLevel d) (cdPred d) size (cdSrcLen d) ++ codeChunk (cdLevel d) (cdPred d) size bs ++ natLe 4 (crc32c bs).toNat
      (cdDstLen d < out.length → Performs (exec (.compressStream e) s) fun t => (cprOf t e).outcome = some (1, 0, 0, 0, 0) ∧ t.mem = s.mem)
      ∧ ∀ s1, out.length ≤ cdDstLen d → rangeWrite s u tag (cdDst d) out = .ok s1 → Performs (exec (.compressStream e) s) fun t =>
          t.mem = s1.mem ∧ (cprOf t e).outcome = some (0, cdSrcLen d, out.length, crc32c bs, 1))
    ∧ (∀ h pred level size n data s1 x, cdOp d = 1 → rangeRead s u tag (cdSrc d) 16 = .ok h → parseStream h = some (pred, level, size, n) → 0 < n → n ≤ 65536 →
        cdSrcLen d = n + 24 → n ≤ cdDstLen d → data.length = n → rangeRead s u tag (cdSrc d + 16) (4 + n) = .ok (natLe 4 (2 ^ 31 + n) ++ data) →
        rangeNat s u tag (cdSrc d + 16) 4 = .ok (2 ^ 31 + n) → rangeWrite s u tag (cdDst d) data = .ok s1 → rangeNat s1 u tag (cdSrc d + 20 + n) 4 = .ok x →
        (x = (crc32c data).toNat → Performs (exec (.decompressStream e) s) fun t => t.mem = s1.mem
          ∧ (cprOf t e).outcome = some (0, n + 24, n, crc32c data, 1))
        ∧ (x ≠ (crc32c data).toNat → Performs (exec (.decompressStream e) s) fun t => (cprOf t e).outcome = some (2, n + 24, 0, crc32c data, 1)))
    ∧ (let f := cdSurf d
       f.blocks = 1 → 0 < cdWidth d → 0 < cdHeight d →
       (∀ px s1 s2, cdOp d = 2 → readRows s u tag d f 0 (f.bh 0) = .ok px →
          let coded := codeBlock (cdLevel d) (cdPred d) f.fmt (f.bw 0) px
          let head := surfHeader f.fmt f.width f.height (crc32c (imageBytes f [px])) ++ natLe 8 (mkBlockHeader coded.2.1 coded.2.2 (coded.1.length / 16) (f.data / 16))
          rangeWrite s u tag (cdDst d + f.data) coded.1 = .ok s1 → rangeWrite s1 u tag (cdDst d) (head ++ List.replicate (f.data - head.length) 0) = .ok s2 →
          Performs (exec (.compressSurface e) s) fun t => t.mem = s2.mem
            ∧ (cprOf t e).outcome = some (0, px.length, f.data + coded.1.length, crc32c (imageBytes f [px]), 0))
       ∧ ∀ hdr g body px s1, cdOp d = 3 → rangeRead s u tag (cdSrc d) f.data = .ok hdr → hdr.length = f.data → (parseSurf fun a => hdr.getD a 0) = some g →
          g.fmt = f.fmt → g.width = f.width → g.height = f.height →
          let h := leNat ((hdr.drop 64).take 8)
          blockOk h = true → g.data ≤ 16 * bhOff h → 16 * bhOff h + 16 * bhLen h ≤ g.room →
          rangeRead s u tag (cdSrc d + 16 * bhOff h) (16 * bhLen h) = .ok body →
          decodeBlock (fun a => if a < hdr.length then hdr.getD a 0 else body.getD (a - 16 * bhOff h) 0) g 0 = some px →
          writeRows u tag d g 0 px (g.bh 0) s = .ok s1 →
          (g.crc = crc32c (imageBytes g [px]) → Performs (exec (.decompressSurface e) s) fun t => t.mem = s1.mem
            ∧ (cprOf t e).outcome = some (0, max f.data (16 * bhOff h + 16 * bhLen h), px.length, g.crc, 0))
          ∧ (g.crc ≠ crc32c (imageBytes g [px]) → Performs (exec (.decompressSurface e) s) fun t => ∃ inn crc, (cprOf t e).outcome = some (2, inn, 0, crc, 0)))

/-- The compression engines: rings and operations.
It rests on the model's own choices and readings in notes/assumptions/50.md, notes/assumptions/51.md. -/
def Obligations.CompressionEngines : Prop := Says.CompressionRings ∧ Says.CompressionOperations

/-- The stream and block formats lose nothing (R396-R401): where the range coder returns the tokens that it was given, with or without padding behind,
a coded chunk decodes to its bytes and a coded block to its pixels.
It rests on the model's own choices and readings in notes/assumptions/50.md, notes/assumptions/51.md. -/
def Obligations.CompressedFormatsRoundTrip : Prop :=
  (∀ (level pred size : Nat) (bs : List Byte), pred ≤ 1 → size < 4 → bs.length ≤ 65536 →
    let rs := streamResidue pred size bs
    Config.rangeDecode (Config.rangeCode (tokenise level rs rs.length 0)) bs.length = tokenise level rs rs.length 0 →
    decodeChunk pred size bs.length (codeChunk level pred size bs) = some ((codeChunk level pred size bs).length, bs))
  ∧ ∀ (level pred b off : Nat) (f : Surf) (ls : List Nat) (bs : List Byte) (rd : Nat → Byte), fmtLanes f.fmt = some ls → pred ≤ 5 → off < 2 ^ 32 →
      0 < f.bw b → 0 < f.bh b → bs.length = f.bw b * f.bh b * fmtSize f.fmt →
      (∀ p, let rs := residueBytes ls p (f.bw b) (elements ls bs)
        ∀ k, Config.rangeDecode (Config.rangeCode (tokenise level rs rs.length 0) ++ List.replicate k 0) rs.length = tokenise level rs rs.length 0) →
      let coded := codeBlock level pred f.fmt (f.bw b) bs
      coded.1 ≠ [] → blockHeader rd b = mkBlockHeader coded.2.1 coded.2.2 (coded.1.length / 16) off → (∀ i < coded.1.length, rd (16 * off + i) = coded.1.getD i 0) →
      decodeBlock rd f b = some bs
end

