-- ==== Sys2Proof/Laws/Tables.lean ====
section
/-! SUPPORT. Sparse tables: what an entry reads as after each operation, and that each keeps the canonical form. -/
namespace Sys2Proof.Machine

variable {α : Type}

@[simp] theorem tfind_nil (n : Nat) : tfind ([] : Tbl α) n = none := rfl

theorem tfind_cons (k : Nat) (v : α) (t : Tbl α) (n : Nat) : tfind ((k, v) :: t) n = if n = k then some v else tfind t n := rfl

theorem tfind_tput (t : Tbl α) (n m : Nat) (x : α) : tfind (tput t n x) m = if m = n then some x else tfind t m := by
  induction t with
  | nil => rfl
  | cons e t ih =>
    obtain ⟨k, v⟩ := e
    unfold tput
    split
    · rfl
    · split
      · subst_vars
        simp only [tfind_cons]
        split <;> rfl
      · simp only [tfind_cons, ih]
        split
        · subst_vars
          rw [if_neg]
          omega
        · rfl

@[simp] theorem tfind_tput_self (t : Tbl α) (n : Nat) (x : α) : tfind (tput t n x) n = some x := by simp [tfind_tput]

theorem tfind_tdel (t : Tbl α) (n m : Nat) : tfind (tdel t n) m = if m = n then none else tfind t m := by
  induction t with
  | nil => simp [tdel]
  | cons e t ih =>
    obtain ⟨k, v⟩ := e
    unfold tdel at ih ⊢
    by_cases hk : k = n
    · subst hk
      simp only [List.filter, bne_self_eq_false, ih, tfind_cons]
      split <;> simp_all
    · simp only [List.filter, bne_iff_ne.mpr hk, tfind_cons, ih]
      split
      · subst_vars
        rw [if_neg hk]
      · rfl

/-- What an entry reads as after one entry has been set. -/
theorem tget_tset [DecidableEq α] (d : α) (t : Tbl α) (n m : Nat) (x : α) :
    tget d (tset d t n x) m = if m = n then x else tget d t m := by
  unfold tset tget
  split
  · subst_vars
    rw [tfind_tdel]
    split <;> rfl
  · rw [tfind_tput]
    split <;> rfl

@[simp] theorem tget_tput (d : α) (t : Tbl α) (n m : Nat) (x : α) : tget d (tput t n x) m = if m = n then x else tget d t m := by
  unfold tget
  rw [tfind_tput]
  split <;> rfl

@[simp] theorem tget_nil (d : α) (n : Nat) : tget d [] n = d := rfl

/-- A later entry of a rising table stands above its bound. -/
theorem risesFrom_mono {t : Tbl α} {a b : Nat} (h : risesFrom b t) (hab : a ≤ b) : risesFrom a t := by
  cases t with
  | nil => rfl
  | cons e t => simp_all [risesFrom]; omega

theorem risesFrom_tput {t : Tbl α} {lo : Nat} (n : Nat) (x : α) (h : risesFrom lo t) (hn : lo ≤ n) : risesFrom lo (tput t n x) := by
  induction t generalizing lo with
  | nil => simp [tput, risesFrom, hn]
  | cons e t ih =>
    obtain ⟨k, v⟩ := e
    simp only [risesFrom, Bool.and_eq_true, decide_eq_true_eq] at h
    unfold tput
    split
    · simp only [risesFrom, Bool.and_eq_true, decide_eq_true_eq]
      exact ⟨hn, by omega, h.2⟩
    · split
      · subst_vars
        simp [risesFrom, h]
      · simp only [risesFrom, Bool.and_eq_true, decide_eq_true_eq]
        exact ⟨h.1, ih h.2 (by omega)⟩

theorem risesFrom_filter {t : Tbl α} {lo : Nat} (f : Nat × α → Bool) (h : risesFrom lo t) : risesFrom lo (t.filter f) := by
  induction t generalizing lo with
  | nil => rfl
  | cons e t ih =>
    obtain ⟨k, v⟩ := e
    simp only [risesFrom, Bool.and_eq_true, decide_eq_true_eq] at h
    simp only [List.filter]
    split
    · simp only [risesFrom, Bool.and_eq_true, decide_eq_true_eq]
      exact ⟨h.1, ih h.2⟩
    · exact risesFrom_mono (ih h.2) (by omega)

theorem mem_tput {t : Tbl α} {n : Nat} {x : α} {e : Nat × α} (h : e ∈ tput t n x) : e = (n, x) ∨ e ∈ t := by
  induction t with
  | nil => simpa [tput] using h
  | cons y t ih =>
    obtain ⟨k, v⟩ := y
    unfold tput at h
    split at h
    · simpa using h
    · split at h
      · simp only [List.mem_cons] at h ⊢
        rcases h with h | h
        · exact .inl h
        · exact .inr (.inr h)
      · simp only [List.mem_cons] at h ⊢
        rcases h with h | h
        · exact .inr (.inl h)
        · rcases ih h with h | h
          · exact .inl h
          · exact .inr (.inr h)

/-- A filter keeps the canonical form. -/
theorem twf_filter [DecidableEq α] {d : α} {t : Tbl α} (f : Nat × α → Bool) (h : twf d t) : twf d (t.filter f) := by
  simp only [twf, Bool.and_eq_true, List.all_eq_true] at h ⊢
  exact ⟨risesFrom_filter f h.1, fun e he => h.2 e (List.mem_filter.mp he).1⟩

/-- Setting an entry keeps the canonical form. -/
theorem twf_tset [DecidableEq α] {d : α} {t : Tbl α} (n : Nat) (x : α) (h : twf d t) : twf d (tset d t n x) := by
  unfold tset
  split
  · exact twf_filter _ h
  · rename_i hx
    simp only [twf, Bool.and_eq_true, List.all_eq_true] at h ⊢
    refine ⟨risesFrom_tput n x h.1 (Nat.zero_le _), fun e he => ?_⟩
    rcases mem_tput he with h1 | h1
    · subst h1
      simp [hx]
    · exact h.2 e h1

/-- Writing a run of entries keeps the canonical form. -/
theorem twf_twrites [DecidableEq α] {d : α} (xs : List α) {t : Tbl α} (a : Nat) (h : twf d t) : twf d (twrites d t a xs) := by
  induction xs generalizing t a with
  | nil => exact h
  | cons x xs ih => exact ih _ (twf_tset a x h)

/-- Setting entries one by one keeps the canonical form. -/
theorem twf_foldl_tset [DecidableEq α] {d : α} {β : Type} (xs : List β) (k : β → Nat) (v : β → α) {t : Tbl α} (h : twf d t) :
    twf d (xs.foldl (fun m x => tset d m (k x) (v x)) t) := by
  induction xs generalizing t with
  | nil => exact h
  | cons x xs ih => exact ih (twf_tset _ _ h)

/-- What an entry reads as after a run of entries has been written. -/
theorem tget_twrites [DecidableEq α] (d : α) (xs : List α) (t : Tbl α) (a n : Nat) :
    tget d (twrites d t a xs) n = if a ≤ n ∧ n < a + xs.length then xs.getD (n - a) d else tget d t n := by
  induction xs generalizing t a with
  | nil =>
    have h : ¬(a ≤ n ∧ n < a + ([] : List α).length) := fun h => Nat.not_lt.mpr h.1 h.2
    rw [if_neg h]
    rfl
  | cons x xs ih =>
    simp only [twrites, ih, tget_tset, List.length_cons]
    by_cases h1 : n = a
    · subst h1
      have h2 : ¬(n + 1 ≤ n ∧ n < n + 1 + xs.length) := by omega
      have h3 : n ≤ n ∧ n < n + (xs.length + 1) := by omega
      rw [if_neg h2, if_pos rfl, if_pos h3, Nat.sub_self]
      rfl
    · by_cases h2 : a + 1 ≤ n ∧ n < a + 1 + xs.length
      · rw [if_pos h2, if_pos (by omega)]
        have : n - a = (n - (a + 1)) + 1 := by omega
        rw [this]
        rfl
      · rw [if_neg h2, if_neg h1, if_neg (by omega)]

end Sys2Proof.Machine
end

