-- ==== Sys2Proof/Laws/Counting.lean ====
section
/-! SUPPORT. What counting an event can change: the collector, the number of free values taken, and registers of page 6. -/
namespace Sys2Proof.Machine

theorem CountOnly.refl (s : State) : CountOnly s s := ⟨rfl, fun _ _ _ _ => rfl⟩

theorem CountOnly.trans {s t u : State} (h1 : CountOnly s t) (h2 : CountOnly t u) : CountOnly s u := by
  refine ⟨?_, fun page off hp ho => (h2.2 page off hp ho).trans (h1.2 page off hp ho)⟩
  rw [← h1.1, ← h2.1]

theorem rget_rset (s : State) (page off page' off' : Nat) (v : W32) (ho : off < 0x1000) (ho' : off' < 0x1000) :
    rget (rset s page' off' v) page off = if page = page' ∧ off = off' then v else rget s page off := by
  unfold rget rset rkey
  by_cases h : page = page' ∧ off = off'
  · obtain ⟨rfl, rfl⟩ := h
    simp [tget_tset]
  · rw [if_neg h]
    have hk : page * 0x1000 + off ≠ page' * 0x1000 + off' := by omega
    show tget _ (tset _ s.regs _ _) _ = _
    unfold tset tget
    split
    · rw [tfind_tdel, if_neg hk]
    · rw [tfind_tput, if_neg hk]

theorem countOnly_rset6 (s : State) (off : Nat) (v : W32) (ho : off < 0x1000) : CountOnly s (rset s 6 off v) :=
  ⟨rfl, fun page off' hp ho' => by rw [rget_rset _ _ _ _ _ _ ho' ho, if_neg (fun h => hp h.1)]⟩

theorem countOnly_pmc (s : State) (x : Pmc) (n : Nat) : CountOnly s { s with pmc := x, free := n } := ⟨rfl, fun _ _ _ _ => rfl⟩

theorem countOnly_raiseIrq6 (s : State) (b : Nat) : CountOnly s (raiseIrq s 6 b) := by
  unfold raiseIrq
  have h : pageVector s 6 = none := rfl
  simp only [h]
  split <;> exact countOnly_rset6 s 0x10 _ (by decide)

theorem countOnly_pmcRefresh (s : State) : CountOnly s (pmcRefresh s) := ⟨rfl, fun _ _ _ _ => rfl⟩

theorem countOnly_pmcFreezeOn (s : State) (b : Nat) : CountOnly s (pmcFreezeOn s b) := by
  unfold pmcFreezeOn
  split
  · refine CountOnly.trans (countOnly_pmcRefresh s) (CountOnly.trans ?_ (countOnly_raiseIrq6 _ 1))
    exact CountOnly.trans (countOnly_rset6 _ 0x100 _ (by decide)) ⟨rfl, fun _ _ _ _ => rfl⟩
  · exact CountOnly.refl s

theorem countOnly_pmcOverflow (s : State) (k : Nat) : CountOnly s (pmcOverflow s k) := by
  unfold pmcOverflow
  refine CountOnly.trans ?_ (countOnly_pmcFreezeOn _ 29)
  exact CountOnly.trans (countOnly_pmc s _ s.free) (countOnly_raiseIrq6 _ 0)

theorem countOnly_setCtr (s : State) (k : Nat) (x : Counter) : CountOnly s (setCtr s k x) := ⟨rfl, fun _ _ _ _ => rfl⟩

theorem countOnly_pmcAdd (s : State) (k n : Nat) : CountOnly s (pmcAdd s k n) := by
  unfold pmcAdd
  dsimp only
  split
  · exact countOnly_setCtr _ _ _
  · split
    · split
      · exact CountOnly.trans (countOnly_setCtr _ _ _) (countOnly_setCtr _ _ _)
      · exact CountOnly.trans (CountOnly.trans (countOnly_setCtr _ _ _) (countOnly_setCtr _ _ _)) (countOnly_pmcOverflow _ _)
    · exact CountOnly.trans (countOnly_setCtr _ _ _) (countOnly_pmcOverflow _ _)

/-- An event changes nothing but the collector and its page. -/
theorem countOnly_pmcEvent (s : State) (kind inst evt n : Nat) : CountOnly s (pmcEvent s kind inst evt n) := by
  unfold pmcEvent
  split
  · exact CountOnly.refl s
  · rename_i h
    clear h
    generalize (List.range 64).filter (pmcCounts s kind inst evt) = ks
    induction ks generalizing s with
    | nil => exact CountOnly.refl s
    | cons k ks ih => exact CountOnly.trans (countOnly_pmcAdd _ _ _) (ih _)

theorem countOnly_pmcCore (s : State) (p evt n : Nat) : CountOnly s (pmcCore s p evt n) := by
  unfold pmcCore
  split
  · exact countOnly_pmcEvent _ _ _ _ _
  · exact CountOnly.refl s

end Sys2Proof.Machine
end

