-- ==== Sys2Proof/Laws/State.lean ====
section
/-! SUPPORT. The fields of State after each of its updates: an update changes its own field and no other. -/
namespace Sys2Proof.Machine

section
variable (s : State) (page off : Nat) (v : W32)
@[simp] theorem rset_pending : (rset s page off v).pending = s.pending := rfl
@[simp] theorem rset_free : (rset s page off v).free = s.free := rfl
@[simp] theorem rset_rdata : (rset s page off v).rdata = s.rdata := rfl
@[simp] theorem rset_now : (rset s page off v).now = s.now := rfl
@[simp] theorem rset_regs : (rset s page off v).regs = tset (resetOf page off) s.regs (rkey page off) v := rfl
@[simp] theorem rset_unvoted : (rset s page off v).unvoted = s.unvoted := rfl
@[simp] theorem rset_mbx : (rset s page off v).mbx = s.mbx := rfl
@[simp] theorem rset_mem : (rset s page off v).mem = s.mem := rfl
@[simp] theorem rset_poison : (rset s page off v).poison = s.poison := rfl
@[simp] theorem rset_trained : (rset s page off v).trained = s.trained := rfl
@[simp] theorem rset_keys : (rset s page off v).keys = s.keys := rfl
@[simp] theorem rset_parts : (rset s page off v).parts = s.parts := rfl
@[simp] theorem rset_map : (rset s page off v).map = s.map := rfl
@[simp] theorem rset_roles : (rset s page off v).roles = s.roles := rfl
@[simp] theorem rset_cores : (rset s page off v).cores = s.cores := rfl
@[simp] theorem rset_slices : (rset s page off v).slices = s.slices := rfl
@[simp] theorem rset_chans : (rset s page off v).chans = s.chans := rfl
@[simp] theorem rset_ctxTab : (rset s page off v).ctxTab = s.ctxTab := rfl
@[simp] theorem rset_ctxRead : (rset s page off v).ctxRead = s.ctxRead := rfl
@[simp] theorem rset_rangeCache : (rset s page off v).rangeCache = s.rangeCache := rfl
@[simp] theorem rset_invQueue : (rset s page off v).invQueue = s.invQueue := rfl
@[simp] theorem rset_invRun : (rset s page off v).invRun = s.invRun := rfl
@[simp] theorem rset_doneTag : (rset s page off v).doneTag = s.doneTag := rfl
@[simp] theorem rset_xltAddr : (rset s page off v).xltAddr = s.xltAddr := rfl
@[simp] theorem rset_xltEntry : (rset s page off v).xltEntry = s.xltEntry := rfl
@[simp] theorem rset_contexts : (rset s page off v).contexts = s.contexts := rfl
@[simp] theorem rset_grants : (rset s page off v).grants = s.grants := rfl
@[simp] theorem rset_queues : (rset s page off v).queues = s.queues := rfl
@[simp] theorem rset_jobs : (rset s page off v).jobs = s.jobs := rfl
@[simp] theorem rset_nextJob : (rset s page off v).nextJob = s.nextJob := rfl
@[simp] theorem rset_fences : (rset s page off v).fences = s.fences := rfl
@[simp] theorem rset_fenceGen : (rset s page off v).fenceGen = s.fenceGen := rfl
@[simp] theorem rset_arms : (rset s page off v).arms = s.arms := rfl
@[simp] theorem rset_semas : (rset s page off v).semas = s.semas := rfl
@[simp] theorem rset_vis : (rset s page off v).vis = s.vis := rfl
@[simp] theorem rset_numVfs : (rset s page off v).numVfs = s.numVfs := rfl
@[simp] theorem rset_graphs : (rset s page off v).graphs = s.graphs := rfl
@[simp] theorem rset_pools : (rset s page off v).pools = s.pools := rfl
@[simp] theorem rset_advice : (rset s page off v).advice = s.advice := rfl
@[simp] theorem rset_sources : (rset s page off v).sources = s.sources := rfl
@[simp] theorem rset_triggers : (rset s page off v).triggers = s.triggers := rfl
@[simp] theorem rset_fired : (rset s page off v).fired = s.fired := rfl
@[simp] theorem rset_checks : (rset s page off v).checks = s.checks := rfl
@[simp] theorem rset_doomed : (rset s page off v).doomed = s.doomed := rfl
@[simp] theorem rset_missSeq : (rset s page off v).missSeq = s.missSeq := rfl
@[simp] theorem rset_missAt : (rset s page off v).missAt = s.missAt := rfl
@[simp] theorem rset_vchans : (rset s page off v).vchans = s.vchans := rfl
@[simp] theorem rset_vioAddr : (rset s page off v).vioAddr = s.vioAddr := rfl
@[simp] theorem rset_ptp : (rset s page off v).ptp = s.ptp := rfl
@[simp] theorem rset_pipes : (rset s page off v).pipes = s.pipes := rfl
@[simp] theorem rset_cprs : (rset s page off v).cprs = s.cprs := rfl
@[simp] theorem rset_links : (rset s page off v).links = s.links := rfl
@[simp] theorem rset_members : (rset s page off v).members = s.members := rfl
@[simp] theorem rset_winOwner : (rset s page off v).winOwner = s.winOwner := rfl
@[simp] theorem rset_unreachable : (rset s page off v).unreachable = s.unreachable := rfl
@[simp] theorem rset_remotes : (rset s page off v).remotes = s.remotes := rfl
@[simp] theorem rset_nextTag : (rset s page off v).nextTag = s.nextTag := rfl
@[simp] theorem rset_domains : (rset s page off v).domains = s.domains := rfl
@[simp] theorem rset_power : (rset s page off v).power = s.power := rfl
@[simp] theorem rset_pairs : (rset s page off v).pairs = s.pairs := rfl
@[simp] theorem rset_rel : (rset s page off v).rel = s.rel := rfl
@[simp] theorem rset_boot : (rset s page off v).boot = s.boot := rfl
@[simp] theorem rset_pmc : (rset s page off v).pmc = s.pmc := rfl
@[simp] theorem rset_pins : (rset s page off v).pins = s.pins := rfl
@[simp] theorem rset_aerLog : (rset s page off v).aerLog = s.aerLog := rfl
@[simp] theorem rset_accOffset : (rset s page off v).accOffset = s.accOffset := rfl
@[simp] theorem rset_accData : (rset s page off v).accData = s.accData := rfl
end

section
variable (s : State) (p : Nat) (c : Core)
@[simp] theorem setCore_pending : (setCore s p c).pending = s.pending := rfl
@[simp] theorem setCore_free : (setCore s p c).free = s.free := rfl
@[simp] theorem setCore_rdata : (setCore s p c).rdata = s.rdata := rfl
@[simp] theorem setCore_now : (setCore s p c).now = s.now := rfl
@[simp] theorem setCore_regs : (setCore s p c).regs = s.regs := rfl
@[simp] theorem setCore_unvoted : (setCore s p c).unvoted = s.unvoted := rfl
@[simp] theorem setCore_mbx : (setCore s p c).mbx = s.mbx := rfl
@[simp] theorem setCore_mem : (setCore s p c).mem = s.mem := rfl
@[simp] theorem setCore_poison : (setCore s p c).poison = s.poison := rfl
@[simp] theorem setCore_trained : (setCore s p c).trained = s.trained := rfl
@[simp] theorem setCore_keys : (setCore s p c).keys = s.keys := rfl
@[simp] theorem setCore_parts : (setCore s p c).parts = s.parts := rfl
@[simp] theorem setCore_map : (setCore s p c).map = s.map := rfl
@[simp] theorem setCore_roles : (setCore s p c).roles = s.roles := rfl
@[simp] theorem setCore_cores : (setCore s p c).cores = tput s.cores p c := rfl
@[simp] theorem setCore_slices : (setCore s p c).slices = s.slices := rfl
@[simp] theorem setCore_chans : (setCore s p c).chans = s.chans := rfl
@[simp] theorem setCore_ctxTab : (setCore s p c).ctxTab = s.ctxTab := rfl
@[simp] theorem setCore_ctxRead : (setCore s p c).ctxRead = s.ctxRead := rfl
@[simp] theorem setCore_rangeCache : (setCore s p c).rangeCache = s.rangeCache := rfl
@[simp] theorem setCore_invQueue : (setCore s p c).invQueue = s.invQueue := rfl
@[simp] theorem setCore_invRun : (setCore s p c).invRun = s.invRun := rfl
@[simp] theorem setCore_doneTag : (setCore s p c).doneTag = s.doneTag := rfl
@[simp] theorem setCore_xltAddr : (setCore s p c).xltAddr = s.xltAddr := rfl
@[simp] theorem setCore_xltEntry : (setCore s p c).xltEntry = s.xltEntry := rfl
@[simp] theorem setCore_contexts : (setCore s p c).contexts = s.contexts := rfl
@[simp] theorem setCore_grants : (setCore s p c).grants = s.grants := rfl
@[simp] theorem setCore_queues : (setCore s p c).queues = s.queues := rfl
@[simp] theorem setCore_jobs : (setCore s p c).jobs = s.jobs := rfl
@[simp] theorem setCore_nextJob : (setCore s p c).nextJob = s.nextJob := rfl
@[simp] theorem setCore_fences : (setCore s p c).fences = s.fences := rfl
@[simp] theorem setCore_fenceGen : (setCore s p c).fenceGen = s.fenceGen := rfl
@[simp] theorem setCore_arms : (setCore s p c).arms = s.arms := rfl
@[simp] theorem setCore_semas : (setCore s p c).semas = s.semas := rfl
@[simp] theorem setCore_vis : (setCore s p c).vis = s.vis := rfl
@[simp] theorem setCore_numVfs : (setCore s p c).numVfs = s.numVfs := rfl
@[simp] theorem setCore_graphs : (setCore s p c).graphs = s.graphs := rfl
@[simp] theorem setCore_pools : (setCore s p c).pools = s.pools := rfl
@[simp] theorem setCore_advice : (setCore s p c).advice = s.advice := rfl
@[simp] theorem setCore_sources : (setCore s p c).sources = s.sources := rfl
@[simp] theorem setCore_triggers : (setCore s p c).triggers = s.triggers := rfl
@[simp] theorem setCore_fired : (setCore s p c).fired = s.fired := rfl
@[simp] theorem setCore_checks : (setCore s p c).checks = s.checks := rfl
@[simp] theorem setCore_doomed : (setCore s p c).doomed = s.doomed := rfl
@[simp] theorem setCore_missSeq : (setCore s p c).missSeq = s.missSeq := rfl
@[simp] theorem setCore_missAt : (setCore s p c).missAt = s.missAt := rfl
@[simp] theorem setCore_vchans : (setCore s p c).vchans = s.vchans := rfl
@[simp] theorem setCore_vioAddr : (setCore s p c).vioAddr = s.vioAddr := rfl
@[simp] theorem setCore_ptp : (setCore s p c).ptp = s.ptp := rfl
@[simp] theorem setCore_pipes : (setCore s p c).pipes = s.pipes := rfl
@[simp] theorem setCore_cprs : (setCore s p c).cprs = s.cprs := rfl
@[simp] theorem setCore_links : (setCore s p c).links = s.links := rfl
@[simp] theorem setCore_members : (setCore s p c).members = s.members := rfl
@[simp] theorem setCore_winOwner : (setCore s p c).winOwner = s.winOwner := rfl
@[simp] theorem setCore_unreachable : (setCore s p c).unreachable = s.unreachable := rfl
@[simp] theorem setCore_remotes : (setCore s p c).remotes = s.remotes := rfl
@[simp] theorem setCore_nextTag : (setCore s p c).nextTag = s.nextTag := rfl
@[simp] theorem setCore_domains : (setCore s p c).domains = s.domains := rfl
@[simp] theorem setCore_power : (setCore s p c).power = s.power := rfl
@[simp] theorem setCore_pairs : (setCore s p c).pairs = s.pairs := rfl
@[simp] theorem setCore_rel : (setCore s p c).rel = s.rel := rfl
@[simp] theorem setCore_boot : (setCore s p c).boot = s.boot := rfl
@[simp] theorem setCore_pmc : (setCore s p c).pmc = s.pmc := rfl
@[simp] theorem setCore_pins : (setCore s p c).pins = s.pins := rfl
@[simp] theorem setCore_aerLog : (setCore s p c).aerLog = s.aerLog := rfl
@[simp] theorem setCore_accOffset : (setCore s p c).accOffset = s.accOffset := rfl
@[simp] theorem setCore_accData : (setCore s p c).accData = s.accData := rfl
end

section
variable (s : State) (p : Nat) (f : Core → Core)
@[simp] theorem updCore_pending : (updCore s p f).pending = s.pending := rfl
@[simp] theorem updCore_free : (updCore s p f).free = s.free := rfl
@[simp] theorem updCore_rdata : (updCore s p f).rdata = s.rdata := rfl
@[simp] theorem updCore_now : (updCore s p f).now = s.now := rfl
@[simp] theorem updCore_regs : (updCore s p f).regs = s.regs := rfl
@[simp] theorem updCore_unvoted : (updCore s p f).unvoted = s.unvoted := rfl
@[simp] theorem updCore_mbx : (updCore s p f).mbx = s.mbx := rfl
@[simp] theorem updCore_mem : (updCore s p f).mem = s.mem := rfl
@[simp] theorem updCore_poison : (updCore s p f).poison = s.poison := rfl
@[simp] theorem updCore_trained : (updCore s p f).trained = s.trained := rfl
@[simp] theorem updCore_keys : (updCore s p f).keys = s.keys := rfl
@[simp] theorem updCore_parts : (updCore s p f).parts = s.parts := rfl
@[simp] theorem updCore_map : (updCore s p f).map = s.map := rfl
@[simp] theorem updCore_roles : (updCore s p f).roles = s.roles := rfl
@[simp] theorem updCore_cores : (updCore s p f).cores = tput s.cores p (f (coreOf s p)) := rfl
@[simp] theorem updCore_slices : (updCore s p f).slices = s.slices := rfl
@[simp] theorem updCore_chans : (updCore s p f).chans = s.chans := rfl
@[simp] theorem updCore_ctxTab : (updCore s p f).ctxTab = s.ctxTab := rfl
@[simp] theorem updCore_ctxRead : (updCore s p f).ctxRead = s.ctxRead := rfl
@[simp] theorem updCore_rangeCache : (updCore s p f).rangeCache = s.rangeCache := rfl
@[simp] theorem updCore_invQueue : (updCore s p f).invQueue = s.invQueue := rfl
@[simp] theorem updCore_invRun : (updCore s p f).invRun = s.invRun := rfl
@[simp] theorem updCore_doneTag : (updCore s p f).doneTag = s.doneTag := rfl
@[simp] theorem updCore_xltAddr : (updCore s p f).xltAddr = s.xltAddr := rfl
@[simp] theorem updCore_xltEntry : (updCore s p f).xltEntry = s.xltEntry := rfl
@[simp] theorem updCore_contexts : (updCore s p f).contexts = s.contexts := rfl
@[simp] theorem updCore_grants : (updCore s p f).grants = s.grants := rfl
@[simp] theorem updCore_queues : (updCore s p f).queues = s.queues := rfl
@[simp] theorem updCore_jobs : (updCore s p f).jobs = s.jobs := rfl
@[simp] theorem updCore_nextJob : (updCore s p f).nextJob = s.nextJob := rfl
@[simp] theorem updCore_fences : (updCore s p f).fences = s.fences := rfl
@[simp] theorem updCore_fenceGen : (updCore s p f).fenceGen = s.fenceGen := rfl
@[simp] theorem updCore_arms : (updCore s p f).arms = s.arms := rfl
@[simp] theorem updCore_semas : (updCore s p f).semas = s.semas := rfl
@[simp] theorem updCore_vis : (updCore s p f).vis = s.vis := rfl
@[simp] theorem updCore_numVfs : (updCore s p f).numVfs = s.numVfs := rfl
@[simp] theorem updCore_graphs : (updCore s p f).graphs = s.graphs := rfl
@[simp] theorem updCore_pools : (updCore s p f).pools = s.pools := rfl
@[simp] theorem updCore_advice : (updCore s p f).advice = s.advice := rfl
@[simp] theorem updCore_sources : (updCore s p f).sources = s.sources := rfl
@[simp] theorem updCore_triggers : (updCore s p f).triggers = s.triggers := rfl
@[simp] theorem updCore_fired : (updCore s p f).fired = s.fired := rfl
@[simp] theorem updCore_checks : (updCore s p f).checks = s.checks := rfl
@[simp] theorem updCore_doomed : (updCore s p f).doomed = s.doomed := rfl
@[simp] theorem updCore_missSeq : (updCore s p f).missSeq = s.missSeq := rfl
@[simp] theorem updCore_missAt : (updCore s p f).missAt = s.missAt := rfl
@[simp] theorem updCore_vchans : (updCore s p f).vchans = s.vchans := rfl
@[simp] theorem updCore_vioAddr : (updCore s p f).vioAddr = s.vioAddr := rfl
@[simp] theorem updCore_ptp : (updCore s p f).ptp = s.ptp := rfl
@[simp] theorem updCore_pipes : (updCore s p f).pipes = s.pipes := rfl
@[simp] theorem updCore_cprs : (updCore s p f).cprs = s.cprs := rfl
@[simp] theorem updCore_links : (updCore s p f).links = s.links := rfl
@[simp] theorem updCore_members : (updCore s p f).members = s.members := rfl
@[simp] theorem updCore_winOwner : (updCore s p f).winOwner = s.winOwner := rfl
@[simp] theorem updCore_unreachable : (updCore s p f).unreachable = s.unreachable := rfl
@[simp] theorem updCore_remotes : (updCore s p f).remotes = s.remotes := rfl
@[simp] theorem updCore_nextTag : (updCore s p f).nextTag = s.nextTag := rfl
@[simp] theorem updCore_domains : (updCore s p f).domains = s.domains := rfl
@[simp] theorem updCore_power : (updCore s p f).power = s.power := rfl
@[simp] theorem updCore_pairs : (updCore s p f).pairs = s.pairs := rfl
@[simp] theorem updCore_rel : (updCore s p f).rel = s.rel := rfl
@[simp] theorem updCore_boot : (updCore s p f).boot = s.boot := rfl
@[simp] theorem updCore_pmc : (updCore s p f).pmc = s.pmc := rfl
@[simp] theorem updCore_pins : (updCore s p f).pins = s.pins := rfl
@[simp] theorem updCore_aerLog : (updCore s p f).aerLog = s.aerLog := rfl
@[simp] theorem updCore_accOffset : (updCore s p f).accOffset = s.accOffset := rfl
@[simp] theorem updCore_accData : (updCore s p f).accData = s.accData := rfl
end

section
variable (s : State) (p g : Nat) (x : Group)
@[simp] theorem setGroup_pending : (setGroup s p g x).pending = s.pending := rfl
@[simp] theorem setGroup_free : (setGroup s p g x).free = s.free := rfl
@[simp] theorem setGroup_rdata : (setGroup s p g x).rdata = s.rdata := rfl
@[simp] theorem setGroup_now : (setGroup s p g x).now = s.now := rfl
@[simp] theorem setGroup_regs : (setGroup s p g x).regs = s.regs := rfl
@[simp] theorem setGroup_unvoted : (setGroup s p g x).unvoted = s.unvoted := rfl
@[simp] theorem setGroup_mbx : (setGroup s p g x).mbx = s.mbx := rfl
@[simp] theorem setGroup_mem : (setGroup s p g x).mem = s.mem := rfl
@[simp] theorem setGroup_poison : (setGroup s p g x).poison = s.poison := rfl
@[simp] theorem setGroup_trained : (setGroup s p g x).trained = s.trained := rfl
@[simp] theorem setGroup_keys : (setGroup s p g x).keys = s.keys := rfl
@[simp] theorem setGroup_parts : (setGroup s p g x).parts = s.parts := rfl
@[simp] theorem setGroup_map : (setGroup s p g x).map = s.map := rfl
@[simp] theorem setGroup_roles : (setGroup s p g x).roles = s.roles := rfl
@[simp] theorem setGroup_cores : (setGroup s p g x).cores = tput s.cores p { coreOf s p with groups := tput (coreOf s p).groups g x } := rfl
@[simp] theorem setGroup_slices : (setGroup s p g x).slices = s.slices := rfl
@[simp] theorem setGroup_chans : (setGroup s p g x).chans = s.chans := rfl
@[simp] theorem setGroup_ctxTab : (setGroup s p g x).ctxTab = s.ctxTab := rfl
@[simp] theorem setGroup_ctxRead : (setGroup s p g x).ctxRead = s.ctxRead := rfl
@[simp] theorem setGroup_rangeCache : (setGroup s p g x).rangeCache = s.rangeCache := rfl
@[simp] theorem setGroup_invQueue : (setGroup s p g x).invQueue = s.invQueue := rfl
@[simp] theorem setGroup_invRun : (setGroup s p g x).invRun = s.invRun := rfl
@[simp] theorem setGroup_doneTag : (setGroup s p g x).doneTag = s.doneTag := rfl
@[simp] theorem setGroup_xltAddr : (setGroup s p g x).xltAddr = s.xltAddr := rfl
@[simp] theorem setGroup_xltEntry : (setGroup s p g x).xltEntry = s.xltEntry := rfl
@[simp] theorem setGroup_contexts : (setGroup s p g x).contexts = s.contexts := rfl
@[simp] theorem setGroup_grants : (setGroup s p g x).grants = s.grants := rfl
@[simp] theorem setGroup_queues : (setGroup s p g x).queues = s.queues := rfl
@[simp] theorem setGroup_jobs : (setGroup s p g x).jobs = s.jobs := rfl
@[simp] theorem setGroup_nextJob : (setGroup s p g x).nextJob = s.nextJob := rfl
@[simp] theorem setGroup_fences : (setGroup s p g x).fences = s.fences := rfl
@[simp] theorem setGroup_fenceGen : (setGroup s p g x).fenceGen = s.fenceGen := rfl
@[simp] theorem setGroup_arms : (setGroup s p g x).arms = s.arms := rfl
@[simp] theorem setGroup_semas : (setGroup s p g x).semas = s.semas := rfl
@[simp] theorem setGroup_vis : (setGroup s p g x).vis = s.vis := rfl
@[simp] theorem setGroup_numVfs : (setGroup s p g x).numVfs = s.numVfs := rfl
@[simp] theorem setGroup_graphs : (setGroup s p g x).graphs = s.graphs := rfl
@[simp] theorem setGroup_pools : (setGroup s p g x).pools = s.pools := rfl
@[simp] theorem setGroup_advice : (setGroup s p g x).advice = s.advice := rfl
@[simp] theorem setGroup_sources : (setGroup s p g x).sources = s.sources := rfl
@[simp] theorem setGroup_triggers : (setGroup s p g x).triggers = s.triggers := rfl
@[simp] theorem setGroup_fired : (setGroup s p g x).fired = s.fired := rfl
@[simp] theorem setGroup_checks : (setGroup s p g x).checks = s.checks := rfl
@[simp] theorem setGroup_doomed : (setGroup s p g x).doomed = s.doomed := rfl
@[simp] theorem setGroup_missSeq : (setGroup s p g x).missSeq = s.missSeq := rfl
@[simp] theorem setGroup_missAt : (setGroup s p g x).missAt = s.missAt := rfl
@[simp] theorem setGroup_vchans : (setGroup s p g x).vchans = s.vchans := rfl
@[simp] theorem setGroup_vioAddr : (setGroup s p g x).vioAddr = s.vioAddr := rfl
@[simp] theorem setGroup_ptp : (setGroup s p g x).ptp = s.ptp := rfl
@[simp] theorem setGroup_pipes : (setGroup s p g x).pipes = s.pipes := rfl
@[simp] theorem setGroup_cprs : (setGroup s p g x).cprs = s.cprs := rfl
@[simp] theorem setGroup_links : (setGroup s p g x).links = s.links := rfl
@[simp] theorem setGroup_members : (setGroup s p g x).members = s.members := rfl
@[simp] theorem setGroup_winOwner : (setGroup s p g x).winOwner = s.winOwner := rfl
@[simp] theorem setGroup_unreachable : (setGroup s p g x).unreachable = s.unreachable := rfl
@[simp] theorem setGroup_remotes : (setGroup s p g x).remotes = s.remotes := rfl
@[simp] theorem setGroup_nextTag : (setGroup s p g x).nextTag = s.nextTag := rfl
@[simp] theorem setGroup_domains : (setGroup s p g x).domains = s.domains := rfl
@[simp] theorem setGroup_power : (setGroup s p g x).power = s.power := rfl
@[simp] theorem setGroup_pairs : (setGroup s p g x).pairs = s.pairs := rfl
@[simp] theorem setGroup_rel : (setGroup s p g x).rel = s.rel := rfl
@[simp] theorem setGroup_boot : (setGroup s p g x).boot = s.boot := rfl
@[simp] theorem setGroup_pmc : (setGroup s p g x).pmc = s.pmc := rfl
@[simp] theorem setGroup_pins : (setGroup s p g x).pins = s.pins := rfl
@[simp] theorem setGroup_aerLog : (setGroup s p g x).aerLog = s.aerLog := rfl
@[simp] theorem setGroup_accOffset : (setGroup s p g x).accOffset = s.accOffset := rfl
@[simp] theorem setGroup_accData : (setGroup s p g x).accData = s.accData := rfl
end

section
variable (s : State) (n : Nat) (f : Vinst → Vinst)
@[simp] theorem viUpd_pending : (viUpd s n f).pending = s.pending := rfl
@[simp] theorem viUpd_free : (viUpd s n f).free = s.free := rfl
@[simp] theorem viUpd_rdata : (viUpd s n f).rdata = s.rdata := rfl
@[simp] theorem viUpd_now : (viUpd s n f).now = s.now := rfl
@[simp] theorem viUpd_regs : (viUpd s n f).regs = s.regs := rfl
@[simp] theorem viUpd_unvoted : (viUpd s n f).unvoted = s.unvoted := rfl
@[simp] theorem viUpd_mbx : (viUpd s n f).mbx = s.mbx := rfl
@[simp] theorem viUpd_mem : (viUpd s n f).mem = s.mem := rfl
@[simp] theorem viUpd_poison : (viUpd s n f).poison = s.poison := rfl
@[simp] theorem viUpd_trained : (viUpd s n f).trained = s.trained := rfl
@[simp] theorem viUpd_keys : (viUpd s n f).keys = s.keys := rfl
@[simp] theorem viUpd_parts : (viUpd s n f).parts = s.parts := rfl
@[simp] theorem viUpd_map : (viUpd s n f).map = s.map := rfl
@[simp] theorem viUpd_roles : (viUpd s n f).roles = s.roles := rfl
@[simp] theorem viUpd_cores : (viUpd s n f).cores = s.cores := rfl
@[simp] theorem viUpd_slices : (viUpd s n f).slices = s.slices := rfl
@[simp] theorem viUpd_chans : (viUpd s n f).chans = s.chans := rfl
@[simp] theorem viUpd_ctxTab : (viUpd s n f).ctxTab = s.ctxTab := rfl
@[simp] theorem viUpd_ctxRead : (viUpd s n f).ctxRead = s.ctxRead := rfl
@[simp] theorem viUpd_rangeCache : (viUpd s n f).rangeCache = s.rangeCache := rfl
@[simp] theorem viUpd_invQueue : (viUpd s n f).invQueue = s.invQueue := rfl
@[simp] theorem viUpd_invRun : (viUpd s n f).invRun = s.invRun := rfl
@[simp] theorem viUpd_doneTag : (viUpd s n f).doneTag = s.doneTag := rfl
@[simp] theorem viUpd_xltAddr : (viUpd s n f).xltAddr = s.xltAddr := rfl
@[simp] theorem viUpd_xltEntry : (viUpd s n f).xltEntry = s.xltEntry := rfl
@[simp] theorem viUpd_contexts : (viUpd s n f).contexts = s.contexts := rfl
@[simp] theorem viUpd_grants : (viUpd s n f).grants = s.grants := rfl
@[simp] theorem viUpd_queues : (viUpd s n f).queues = s.queues := rfl
@[simp] theorem viUpd_jobs : (viUpd s n f).jobs = s.jobs := rfl
@[simp] theorem viUpd_nextJob : (viUpd s n f).nextJob = s.nextJob := rfl
@[simp] theorem viUpd_fences : (viUpd s n f).fences = s.fences := rfl
@[simp] theorem viUpd_fenceGen : (viUpd s n f).fenceGen = s.fenceGen := rfl
@[simp] theorem viUpd_arms : (viUpd s n f).arms = s.arms := rfl
@[simp] theorem viUpd_semas : (viUpd s n f).semas = s.semas := rfl
@[simp] theorem viUpd_vis : (viUpd s n f).vis = tput s.vis n (f (viOf s n)) := rfl
@[simp] theorem viUpd_numVfs : (viUpd s n f).numVfs = s.numVfs := rfl
@[simp] theorem viUpd_graphs : (viUpd s n f).graphs = s.graphs := rfl
@[simp] theorem viUpd_pools : (viUpd s n f).pools = s.pools := rfl
@[simp] theorem viUpd_advice : (viUpd s n f).advice = s.advice := rfl
@[simp] theorem viUpd_sources : (viUpd s n f).sources = s.sources := rfl
@[simp] theorem viUpd_triggers : (viUpd s n f).triggers = s.triggers := rfl
@[simp] theorem viUpd_fired : (viUpd s n f).fired = s.fired := rfl
@[simp] theorem viUpd_checks : (viUpd s n f).checks = s.checks := rfl
@[simp] theorem viUpd_doomed : (viUpd s n f).doomed = s.doomed := rfl
@[simp] theorem viUpd_missSeq : (viUpd s n f).missSeq = s.missSeq := rfl
@[simp] theorem viUpd_missAt : (viUpd s n f).missAt = s.missAt := rfl
@[simp] theorem viUpd_vchans : (viUpd s n f).vchans = s.vchans := rfl
@[simp] theorem viUpd_vioAddr : (viUpd s n f).vioAddr = s.vioAddr := rfl
@[simp] theorem viUpd_ptp : (viUpd s n f).ptp = s.ptp := rfl
@[simp] theorem viUpd_pipes : (viUpd s n f).pipes = s.pipes := rfl
@[simp] theorem viUpd_cprs : (viUpd s n f).cprs = s.cprs := rfl
@[simp] theorem viUpd_links : (viUpd s n f).links = s.links := rfl
@[simp] theorem viUpd_members : (viUpd s n f).members = s.members := rfl
@[simp] theorem viUpd_winOwner : (viUpd s n f).winOwner = s.winOwner := rfl
@[simp] theorem viUpd_unreachable : (viUpd s n f).unreachable = s.unreachable := rfl
@[simp] theorem viUpd_remotes : (viUpd s n f).remotes = s.remotes := rfl
@[simp] theorem viUpd_nextTag : (viUpd s n f).nextTag = s.nextTag := rfl
@[simp] theorem viUpd_domains : (viUpd s n f).domains = s.domains := rfl
@[simp] theorem viUpd_power : (viUpd s n f).power = s.power := rfl
@[simp] theorem viUpd_pairs : (viUpd s n f).pairs = s.pairs := rfl
@[simp] theorem viUpd_rel : (viUpd s n f).rel = s.rel := rfl
@[simp] theorem viUpd_boot : (viUpd s n f).boot = s.boot := rfl
@[simp] theorem viUpd_pmc : (viUpd s n f).pmc = s.pmc := rfl
@[simp] theorem viUpd_pins : (viUpd s n f).pins = s.pins := rfl
@[simp] theorem viUpd_aerLog : (viUpd s n f).aerLog = s.aerLog := rfl
@[simp] theorem viUpd_accOffset : (viUpd s n f).accOffset = s.accOffset := rfl
@[simp] theorem viUpd_accData : (viUpd s n f).accData = s.accData := rfl
end

section
variable (s : State) (a : Nat) (bs : List Byte)
@[simp] theorem memWrite_pending : (memWrite s a bs).pending = s.pending := rfl
@[simp] theorem memWrite_free : (memWrite s a bs).free = s.free := rfl
@[simp] theorem memWrite_rdata : (memWrite s a bs).rdata = s.rdata := rfl
@[simp] theorem memWrite_now : (memWrite s a bs).now = s.now := rfl
@[simp] theorem memWrite_regs : (memWrite s a bs).regs = s.regs := rfl
@[simp] theorem memWrite_unvoted : (memWrite s a bs).unvoted = s.unvoted := rfl
@[simp] theorem memWrite_mbx : (memWrite s a bs).mbx = s.mbx := rfl
@[simp] theorem memWrite_mem : (memWrite s a bs).mem = twrites 0 s.mem a bs := rfl
@[simp] theorem memWrite_poison : (memWrite s a bs).poison = s.poison := rfl
@[simp] theorem memWrite_trained : (memWrite s a bs).trained = s.trained := rfl
@[simp] theorem memWrite_keys : (memWrite s a bs).keys = s.keys := rfl
@[simp] theorem memWrite_parts : (memWrite s a bs).parts = s.parts := rfl
@[simp] theorem memWrite_map : (memWrite s a bs).map = s.map := rfl
@[simp] theorem memWrite_roles : (memWrite s a bs).roles = s.roles := rfl
@[simp] theorem memWrite_cores : (memWrite s a bs).cores = s.cores := rfl
@[simp] theorem memWrite_slices : (memWrite s a bs).slices = s.slices := rfl
@[simp] theorem memWrite_chans : (memWrite s a bs).chans = s.chans := rfl
@[simp] theorem memWrite_ctxTab : (memWrite s a bs).ctxTab = s.ctxTab := rfl
@[simp] theorem memWrite_ctxRead : (memWrite s a bs).ctxRead = s.ctxRead := rfl
@[simp] theorem memWrite_rangeCache : (memWrite s a bs).rangeCache = s.rangeCache := rfl
@[simp] theorem memWrite_invQueue : (memWrite s a bs).invQueue = s.invQueue := rfl
@[simp] theorem memWrite_invRun : (memWrite s a bs).invRun = s.invRun := rfl
@[simp] theorem memWrite_doneTag : (memWrite s a bs).doneTag = s.doneTag := rfl
@[simp] theorem memWrite_xltAddr : (memWrite s a bs).xltAddr = s.xltAddr := rfl
@[simp] theorem memWrite_xltEntry : (memWrite s a bs).xltEntry = s.xltEntry := rfl
@[simp] theorem memWrite_contexts : (memWrite s a bs).contexts = s.contexts := rfl
@[simp] theorem memWrite_grants : (memWrite s a bs).grants = s.grants := rfl
@[simp] theorem memWrite_queues : (memWrite s a bs).queues = s.queues := rfl
@[simp] theorem memWrite_jobs : (memWrite s a bs).jobs = s.jobs := rfl
@[simp] theorem memWrite_nextJob : (memWrite s a bs).nextJob = s.nextJob := rfl
@[simp] theorem memWrite_fences : (memWrite s a bs).fences = s.fences := rfl
@[simp] theorem memWrite_fenceGen : (memWrite s a bs).fenceGen = s.fenceGen := rfl
@[simp] theorem memWrite_arms : (memWrite s a bs).arms = s.arms := rfl
@[simp] theorem memWrite_semas : (memWrite s a bs).semas = s.semas := rfl
@[simp] theorem memWrite_vis : (memWrite s a bs).vis = s.vis := rfl
@[simp] theorem memWrite_numVfs : (memWrite s a bs).numVfs = s.numVfs := rfl
@[simp] theorem memWrite_graphs : (memWrite s a bs).graphs = s.graphs := rfl
@[simp] theorem memWrite_pools : (memWrite s a bs).pools = s.pools := rfl
@[simp] theorem memWrite_advice : (memWrite s a bs).advice = s.advice := rfl
@[simp] theorem memWrite_sources : (memWrite s a bs).sources = s.sources := rfl
@[simp] theorem memWrite_triggers : (memWrite s a bs).triggers = s.triggers := rfl
@[simp] theorem memWrite_fired : (memWrite s a bs).fired = s.fired := rfl
@[simp] theorem memWrite_checks : (memWrite s a bs).checks = s.checks := rfl
@[simp] theorem memWrite_doomed : (memWrite s a bs).doomed = s.doomed := rfl
@[simp] theorem memWrite_missSeq : (memWrite s a bs).missSeq = s.missSeq := rfl
@[simp] theorem memWrite_missAt : (memWrite s a bs).missAt = s.missAt := rfl
@[simp] theorem memWrite_vchans : (memWrite s a bs).vchans = s.vchans := rfl
@[simp] theorem memWrite_vioAddr : (memWrite s a bs).vioAddr = s.vioAddr := rfl
@[simp] theorem memWrite_ptp : (memWrite s a bs).ptp = s.ptp := rfl
@[simp] theorem memWrite_pipes : (memWrite s a bs).pipes = s.pipes := rfl
@[simp] theorem memWrite_cprs : (memWrite s a bs).cprs = s.cprs := rfl
@[simp] theorem memWrite_links : (memWrite s a bs).links = s.links := rfl
@[simp] theorem memWrite_members : (memWrite s a bs).members = s.members := rfl
@[simp] theorem memWrite_winOwner : (memWrite s a bs).winOwner = s.winOwner := rfl
@[simp] theorem memWrite_unreachable : (memWrite s a bs).unreachable = s.unreachable := rfl
@[simp] theorem memWrite_remotes : (memWrite s a bs).remotes = s.remotes := rfl
@[simp] theorem memWrite_nextTag : (memWrite s a bs).nextTag = s.nextTag := rfl
@[simp] theorem memWrite_domains : (memWrite s a bs).domains = s.domains := rfl
@[simp] theorem memWrite_power : (memWrite s a bs).power = s.power := rfl
@[simp] theorem memWrite_pairs : (memWrite s a bs).pairs = s.pairs := rfl
@[simp] theorem memWrite_rel : (memWrite s a bs).rel = s.rel := rfl
@[simp] theorem memWrite_boot : (memWrite s a bs).boot = s.boot := rfl
@[simp] theorem memWrite_pmc : (memWrite s a bs).pmc = s.pmc := rfl
@[simp] theorem memWrite_pins : (memWrite s a bs).pins = s.pins := rfl
@[simp] theorem memWrite_aerLog : (memWrite s a bs).aerLog = s.aerLog := rfl
@[simp] theorem memWrite_accOffset : (memWrite s a bs).accOffset = s.accOffset := rfl
@[simp] theorem memWrite_accData : (memWrite s a bs).accData = s.accData := rfl
end

section
variable (s : State) (n : Nat)
@[simp] theorem atLeast_pending : (atLeast s n).pending = s.pending := rfl
@[simp] theorem atLeast_free : (atLeast s n).free = s.free := rfl
@[simp] theorem atLeast_rdata : (atLeast s n).rdata = s.rdata := rfl
@[simp] theorem atLeast_now : (atLeast s n).now = max s.now n := rfl
@[simp] theorem atLeast_regs : (atLeast s n).regs = s.regs := rfl
@[simp] theorem atLeast_unvoted : (atLeast s n).unvoted = s.unvoted := rfl
@[simp] theorem atLeast_mbx : (atLeast s n).mbx = s.mbx := rfl
@[simp] theorem atLeast_mem : (atLeast s n).mem = s.mem := rfl
@[simp] theorem atLeast_poison : (atLeast s n).poison = s.poison := rfl
@[simp] theorem atLeast_trained : (atLeast s n).trained = s.trained := rfl
@[simp] theorem atLeast_keys : (atLeast s n).keys = s.keys := rfl
@[simp] theorem atLeast_parts : (atLeast s n).parts = s.parts := rfl
@[simp] theorem atLeast_map : (atLeast s n).map = s.map := rfl
@[simp] theorem atLeast_roles : (atLeast s n).roles = s.roles := rfl
@[simp] theorem atLeast_cores : (atLeast s n).cores = s.cores := rfl
@[simp] theorem atLeast_slices : (atLeast s n).slices = s.slices := rfl
@[simp] theorem atLeast_chans : (atLeast s n).chans = s.chans := rfl
@[simp] theorem atLeast_ctxTab : (atLeast s n).ctxTab = s.ctxTab := rfl
@[simp] theorem atLeast_ctxRead : (atLeast s n).ctxRead = s.ctxRead := rfl
@[simp] theorem atLeast_rangeCache : (atLeast s n).rangeCache = s.rangeCache := rfl
@[simp] theorem atLeast_invQueue : (atLeast s n).invQueue = s.invQueue := rfl
@[simp] theorem atLeast_invRun : (atLeast s n).invRun = s.invRun := rfl
@[simp] theorem atLeast_doneTag : (atLeast s n).doneTag = s.doneTag := rfl
@[simp] theorem atLeast_xltAddr : (atLeast s n).xltAddr = s.xltAddr := rfl
@[simp] theorem atLeast_xltEntry : (atLeast s n).xltEntry = s.xltEntry := rfl
@[simp] theorem atLeast_contexts : (atLeast s n).contexts = s.contexts := rfl
@[simp] theorem atLeast_grants : (atLeast s n).grants = s.grants := rfl
@[simp] theorem atLeast_queues : (atLeast s n).queues = s.queues := rfl
@[simp] theorem atLeast_jobs : (atLeast s n).jobs = s.jobs := rfl
@[simp] theorem atLeast_nextJob : (atLeast s n).nextJob = s.nextJob := rfl
@[simp] theorem atLeast_fences : (atLeast s n).fences = s.fences := rfl
@[simp] theorem atLeast_fenceGen : (atLeast s n).fenceGen = s.fenceGen := rfl
@[simp] theorem atLeast_arms : (atLeast s n).arms = s.arms := rfl
@[simp] theorem atLeast_semas : (atLeast s n).semas = s.semas := rfl
@[simp] theorem atLeast_vis : (atLeast s n).vis = s.vis := rfl
@[simp] theorem atLeast_numVfs : (atLeast s n).numVfs = s.numVfs := rfl
@[simp] theorem atLeast_graphs : (atLeast s n).graphs = s.graphs := rfl
@[simp] theorem atLeast_pools : (atLeast s n).pools = s.pools := rfl
@[simp] theorem atLeast_advice : (atLeast s n).advice = s.advice := rfl
@[simp] theorem atLeast_sources : (atLeast s n).sources = s.sources := rfl
@[simp] theorem atLeast_triggers : (atLeast s n).triggers = s.triggers := rfl
@[simp] theorem atLeast_fired : (atLeast s n).fired = s.fired := rfl
@[simp] theorem atLeast_checks : (atLeast s n).checks = s.checks := rfl
@[simp] theorem atLeast_doomed : (atLeast s n).doomed = s.doomed := rfl
@[simp] theorem atLeast_missSeq : (atLeast s n).missSeq = s.missSeq := rfl
@[simp] theorem atLeast_missAt : (atLeast s n).missAt = s.missAt := rfl
@[simp] theorem atLeast_vchans : (atLeast s n).vchans = s.vchans := rfl
@[simp] theorem atLeast_vioAddr : (atLeast s n).vioAddr = s.vioAddr := rfl
@[simp] theorem atLeast_ptp : (atLeast s n).ptp = s.ptp := rfl
@[simp] theorem atLeast_pipes : (atLeast s n).pipes = s.pipes := rfl
@[simp] theorem atLeast_cprs : (atLeast s n).cprs = s.cprs := rfl
@[simp] theorem atLeast_links : (atLeast s n).links = s.links := rfl
@[simp] theorem atLeast_members : (atLeast s n).members = s.members := rfl
@[simp] theorem atLeast_winOwner : (atLeast s n).winOwner = s.winOwner := rfl
@[simp] theorem atLeast_unreachable : (atLeast s n).unreachable = s.unreachable := rfl
@[simp] theorem atLeast_remotes : (atLeast s n).remotes = s.remotes := rfl
@[simp] theorem atLeast_nextTag : (atLeast s n).nextTag = s.nextTag := rfl
@[simp] theorem atLeast_domains : (atLeast s n).domains = s.domains := rfl
@[simp] theorem atLeast_power : (atLeast s n).power = s.power := rfl
@[simp] theorem atLeast_pairs : (atLeast s n).pairs = s.pairs := rfl
@[simp] theorem atLeast_rel : (atLeast s n).rel = s.rel := rfl
@[simp] theorem atLeast_boot : (atLeast s n).boot = s.boot := rfl
@[simp] theorem atLeast_pmc : (atLeast s n).pmc = s.pmc := rfl
@[simp] theorem atLeast_pins : (atLeast s n).pins = s.pins := rfl
@[simp] theorem atLeast_aerLog : (atLeast s n).aerLog = s.aerLog := rfl
@[simp] theorem atLeast_accOffset : (atLeast s n).accOffset = s.accOffset := rfl
@[simp] theorem atLeast_accData : (atLeast s n).accData = s.accData := rfl
end

section
variable (s : State) (d : Nat) (x : Domain)
@[simp] theorem setDom_pending : (setDom s d x).pending = s.pending := rfl
@[simp] theorem setDom_free : (setDom s d x).free = s.free := rfl
@[simp] theorem setDom_rdata : (setDom s d x).rdata = s.rdata := rfl
@[simp] theorem setDom_now : (setDom s d x).now = s.now := rfl
@[simp] theorem setDom_regs : (setDom s d x).regs = s.regs := rfl
@[simp] theorem setDom_unvoted : (setDom s d x).unvoted = s.unvoted := rfl
@[simp] theorem setDom_mbx : (setDom s d x).mbx = s.mbx := rfl
@[simp] theorem setDom_mem : (setDom s d x).mem = s.mem := rfl
@[simp] theorem setDom_poison : (setDom s d x).poison = s.poison := rfl
@[simp] theorem setDom_trained : (setDom s d x).trained = s.trained := rfl
@[simp] theorem setDom_keys : (setDom s d x).keys = s.keys := rfl
@[simp] theorem setDom_parts : (setDom s d x).parts = s.parts := rfl
@[simp] theorem setDom_map : (setDom s d x).map = s.map := rfl
@[simp] theorem setDom_roles : (setDom s d x).roles = s.roles := rfl
@[simp] theorem setDom_cores : (setDom s d x).cores = s.cores := rfl
@[simp] theorem setDom_slices : (setDom s d x).slices = s.slices := rfl
@[simp] theorem setDom_chans : (setDom s d x).chans = s.chans := rfl
@[simp] theorem setDom_ctxTab : (setDom s d x).ctxTab = s.ctxTab := rfl
@[simp] theorem setDom_ctxRead : (setDom s d x).ctxRead = s.ctxRead := rfl
@[simp] theorem setDom_rangeCache : (setDom s d x).rangeCache = s.rangeCache := rfl
@[simp] theorem setDom_invQueue : (setDom s d x).invQueue = s.invQueue := rfl
@[simp] theorem setDom_invRun : (setDom s d x).invRun = s.invRun := rfl
@[simp] theorem setDom_doneTag : (setDom s d x).doneTag = s.doneTag := rfl
@[simp] theorem setDom_xltAddr : (setDom s d x).xltAddr = s.xltAddr := rfl
@[simp] theorem setDom_xltEntry : (setDom s d x).xltEntry = s.xltEntry := rfl
@[simp] theorem setDom_contexts : (setDom s d x).contexts = s.contexts := rfl
@[simp] theorem setDom_grants : (setDom s d x).grants = s.grants := rfl
@[simp] theorem setDom_queues : (setDom s d x).queues = s.queues := rfl
@[simp] theorem setDom_jobs : (setDom s d x).jobs = s.jobs := rfl
@[simp] theorem setDom_nextJob : (setDom s d x).nextJob = s.nextJob := rfl
@[simp] theorem setDom_fences : (setDom s d x).fences = s.fences := rfl
@[simp] theorem setDom_fenceGen : (setDom s d x).fenceGen = s.fenceGen := rfl
@[simp] theorem setDom_arms : (setDom s d x).arms = s.arms := rfl
@[simp] theorem setDom_semas : (setDom s d x).semas = s.semas := rfl
@[simp] theorem setDom_vis : (setDom s d x).vis = s.vis := rfl
@[simp] theorem setDom_numVfs : (setDom s d x).numVfs = s.numVfs := rfl
@[simp] theorem setDom_graphs : (setDom s d x).graphs = s.graphs := rfl
@[simp] theorem setDom_pools : (setDom s d x).pools = s.pools := rfl
@[simp] theorem setDom_advice : (setDom s d x).advice = s.advice := rfl
@[simp] theorem setDom_sources : (setDom s d x).sources = s.sources := rfl
@[simp] theorem setDom_triggers : (setDom s d x).triggers = s.triggers := rfl
@[simp] theorem setDom_fired : (setDom s d x).fired = s.fired := rfl
@[simp] theorem setDom_checks : (setDom s d x).checks = s.checks := rfl
@[simp] theorem setDom_doomed : (setDom s d x).doomed = s.doomed := rfl
@[simp] theorem setDom_missSeq : (setDom s d x).missSeq = s.missSeq := rfl
@[simp] theorem setDom_missAt : (setDom s d x).missAt = s.missAt := rfl
@[simp] theorem setDom_vchans : (setDom s d x).vchans = s.vchans := rfl
@[simp] theorem setDom_vioAddr : (setDom s d x).vioAddr = s.vioAddr := rfl
@[simp] theorem setDom_ptp : (setDom s d x).ptp = s.ptp := rfl
@[simp] theorem setDom_pipes : (setDom s d x).pipes = s.pipes := rfl
@[simp] theorem setDom_cprs : (setDom s d x).cprs = s.cprs := rfl
@[simp] theorem setDom_links : (setDom s d x).links = s.links := rfl
@[simp] theorem setDom_members : (setDom s d x).members = s.members := rfl
@[simp] theorem setDom_winOwner : (setDom s d x).winOwner = s.winOwner := rfl
@[simp] theorem setDom_unreachable : (setDom s d x).unreachable = s.unreachable := rfl
@[simp] theorem setDom_remotes : (setDom s d x).remotes = s.remotes := rfl
@[simp] theorem setDom_nextTag : (setDom s d x).nextTag = s.nextTag := rfl
@[simp] theorem setDom_domains : (setDom s d x).domains = tput s.domains d x := rfl
@[simp] theorem setDom_power : (setDom s d x).power = s.power := rfl
@[simp] theorem setDom_pairs : (setDom s d x).pairs = s.pairs := rfl
@[simp] theorem setDom_rel : (setDom s d x).rel = s.rel := rfl
@[simp] theorem setDom_boot : (setDom s d x).boot = s.boot := rfl
@[simp] theorem setDom_pmc : (setDom s d x).pmc = s.pmc := rfl
@[simp] theorem setDom_pins : (setDom s d x).pins = s.pins := rfl
@[simp] theorem setDom_aerLog : (setDom s d x).aerLog = s.aerLog := rfl
@[simp] theorem setDom_accOffset : (setDom s d x).accOffset = s.accOffset := rfl
@[simp] theorem setDom_accData : (setDom s d x).accData = s.accData := rfl
end

section
variable (s : State) (n : Nat) (l : Link)
@[simp] theorem setLink_pending : (setLink s n l).pending = s.pending := rfl
@[simp] theorem setLink_free : (setLink s n l).free = s.free := rfl
@[simp] theorem setLink_rdata : (setLink s n l).rdata = s.rdata := rfl
@[simp] theorem setLink_now : (setLink s n l).now = s.now := rfl
@[simp] theorem setLink_regs : (setLink s n l).regs = s.regs := rfl
@[simp] theorem setLink_unvoted : (setLink s n l).unvoted = s.unvoted := rfl
@[simp] theorem setLink_mbx : (setLink s n l).mbx = s.mbx := rfl
@[simp] theorem setLink_mem : (setLink s n l).mem = s.mem := rfl
@[simp] theorem setLink_poison : (setLink s n l).poison = s.poison := rfl
@[simp] theorem setLink_trained : (setLink s n l).trained = s.trained := rfl
@[simp] theorem setLink_keys : (setLink s n l).keys = s.keys := rfl
@[simp] theorem setLink_parts : (setLink s n l).parts = s.parts := rfl
@[simp] theorem setLink_map : (setLink s n l).map = s.map := rfl
@[simp] theorem setLink_roles : (setLink s n l).roles = s.roles := rfl
@[simp] theorem setLink_cores : (setLink s n l).cores = s.cores := rfl
@[simp] theorem setLink_slices : (setLink s n l).slices = s.slices := rfl
@[simp] theorem setLink_chans : (setLink s n l).chans = s.chans := rfl
@[simp] theorem setLink_ctxTab : (setLink s n l).ctxTab = s.ctxTab := rfl
@[simp] theorem setLink_ctxRead : (setLink s n l).ctxRead = s.ctxRead := rfl
@[simp] theorem setLink_rangeCache : (setLink s n l).rangeCache = s.rangeCache := rfl
@[simp] theorem setLink_invQueue : (setLink s n l).invQueue = s.invQueue := rfl
@[simp] theorem setLink_invRun : (setLink s n l).invRun = s.invRun := rfl
@[simp] theorem setLink_doneTag : (setLink s n l).doneTag = s.doneTag := rfl
@[simp] theorem setLink_xltAddr : (setLink s n l).xltAddr = s.xltAddr := rfl
@[simp] theorem setLink_xltEntry : (setLink s n l).xltEntry = s.xltEntry := rfl
@[simp] theorem setLink_contexts : (setLink s n l).contexts = s.contexts := rfl
@[simp] theorem setLink_grants : (setLink s n l).grants = s.grants := rfl
@[simp] theorem setLink_queues : (setLink s n l).queues = s.queues := rfl
@[simp] theorem setLink_jobs : (setLink s n l).jobs = s.jobs := rfl
@[simp] theorem setLink_nextJob : (setLink s n l).nextJob = s.nextJob := rfl
@[simp] theorem setLink_fences : (setLink s n l).fences = s.fences := rfl
@[simp] theorem setLink_fenceGen : (setLink s n l).fenceGen = s.fenceGen := rfl
@[simp] theorem setLink_arms : (setLink s n l).arms = s.arms := rfl
@[simp] theorem setLink_semas : (setLink s n l).semas = s.semas := rfl
@[simp] theorem setLink_vis : (setLink s n l).vis = s.vis := rfl
@[simp] theorem setLink_numVfs : (setLink s n l).numVfs = s.numVfs := rfl
@[simp] theorem setLink_graphs : (setLink s n l).graphs = s.graphs := rfl
@[simp] theorem setLink_pools : (setLink s n l).pools = s.pools := rfl
@[simp] theorem setLink_advice : (setLink s n l).advice = s.advice := rfl
@[simp] theorem setLink_sources : (setLink s n l).sources = s.sources := rfl
@[simp] theorem setLink_triggers : (setLink s n l).triggers = s.triggers := rfl
@[simp] theorem setLink_fired : (setLink s n l).fired = s.fired := rfl
@[simp] theorem setLink_checks : (setLink s n l).checks = s.checks := rfl
@[simp] theorem setLink_doomed : (setLink s n l).doomed = s.doomed := rfl
@[simp] theorem setLink_missSeq : (setLink s n l).missSeq = s.missSeq := rfl
@[simp] theorem setLink_missAt : (setLink s n l).missAt = s.missAt := rfl
@[simp] theorem setLink_vchans : (setLink s n l).vchans = s.vchans := rfl
@[simp] theorem setLink_vioAddr : (setLink s n l).vioAddr = s.vioAddr := rfl
@[simp] theorem setLink_ptp : (setLink s n l).ptp = s.ptp := rfl
@[simp] theorem setLink_pipes : (setLink s n l).pipes = s.pipes := rfl
@[simp] theorem setLink_cprs : (setLink s n l).cprs = s.cprs := rfl
@[simp] theorem setLink_links : (setLink s n l).links = tput s.links n l := rfl
@[simp] theorem setLink_members : (setLink s n l).members = s.members := rfl
@[simp] theorem setLink_winOwner : (setLink s n l).winOwner = s.winOwner := rfl
@[simp] theorem setLink_unreachable : (setLink s n l).unreachable = s.unreachable := rfl
@[simp] theorem setLink_remotes : (setLink s n l).remotes = s.remotes := rfl
@[simp] theorem setLink_nextTag : (setLink s n l).nextTag = s.nextTag := rfl
@[simp] theorem setLink_domains : (setLink s n l).domains = s.domains := rfl
@[simp] theorem setLink_power : (setLink s n l).power = s.power := rfl
@[simp] theorem setLink_pairs : (setLink s n l).pairs = s.pairs := rfl
@[simp] theorem setLink_rel : (setLink s n l).rel = s.rel := rfl
@[simp] theorem setLink_boot : (setLink s n l).boot = s.boot := rfl
@[simp] theorem setLink_pmc : (setLink s n l).pmc = s.pmc := rfl
@[simp] theorem setLink_pins : (setLink s n l).pins = s.pins := rfl
@[simp] theorem setLink_aerLog : (setLink s n l).aerLog = s.aerLog := rfl
@[simp] theorem setLink_accOffset : (setLink s n l).accOffset = s.accOffset := rfl
@[simp] theorem setLink_accData : (setLink s n l).accData = s.accData := rfl
end

section
variable (s : State) (n : Nat) (x : Source)
@[simp] theorem setSource_pending : (setSource s n x).pending = s.pending := rfl
@[simp] theorem setSource_free : (setSource s n x).free = s.free := rfl
@[simp] theorem setSource_rdata : (setSource s n x).rdata = s.rdata := rfl
@[simp] theorem setSource_now : (setSource s n x).now = s.now := rfl
@[simp] theorem setSource_regs : (setSource s n x).regs = s.regs := rfl
@[simp] theorem setSource_unvoted : (setSource s n x).unvoted = s.unvoted := rfl
@[simp] theorem setSource_mbx : (setSource s n x).mbx = s.mbx := rfl
@[simp] theorem setSource_mem : (setSource s n x).mem = s.mem := rfl
@[simp] theorem setSource_poison : (setSource s n x).poison = s.poison := rfl
@[simp] theorem setSource_trained : (setSource s n x).trained = s.trained := rfl
@[simp] theorem setSource_keys : (setSource s n x).keys = s.keys := rfl
@[simp] theorem setSource_parts : (setSource s n x).parts = s.parts := rfl
@[simp] theorem setSource_map : (setSource s n x).map = s.map := rfl
@[simp] theorem setSource_roles : (setSource s n x).roles = s.roles := rfl
@[simp] theorem setSource_cores : (setSource s n x).cores = s.cores := rfl
@[simp] theorem setSource_slices : (setSource s n x).slices = s.slices := rfl
@[simp] theorem setSource_chans : (setSource s n x).chans = s.chans := rfl
@[simp] theorem setSource_ctxTab : (setSource s n x).ctxTab = s.ctxTab := rfl
@[simp] theorem setSource_ctxRead : (setSource s n x).ctxRead = s.ctxRead := rfl
@[simp] theorem setSource_rangeCache : (setSource s n x).rangeCache = s.rangeCache := rfl
@[simp] theorem setSource_invQueue : (setSource s n x).invQueue = s.invQueue := rfl
@[simp] theorem setSource_invRun : (setSource s n x).invRun = s.invRun := rfl
@[simp] theorem setSource_doneTag : (setSource s n x).doneTag = s.doneTag := rfl
@[simp] theorem setSource_xltAddr : (setSource s n x).xltAddr = s.xltAddr := rfl
@[simp] theorem setSource_xltEntry : (setSource s n x).xltEntry = s.xltEntry := rfl
@[simp] theorem setSource_contexts : (setSource s n x).contexts = s.contexts := rfl
@[simp] theorem setSource_grants : (setSource s n x).grants = s.grants := rfl
@[simp] theorem setSource_queues : (setSource s n x).queues = s.queues := rfl
@[simp] theorem setSource_jobs : (setSource s n x).jobs = s.jobs := rfl
@[simp] theorem setSource_nextJob : (setSource s n x).nextJob = s.nextJob := rfl
@[simp] theorem setSource_fences : (setSource s n x).fences = s.fences := rfl
@[simp] theorem setSource_fenceGen : (setSource s n x).fenceGen = s.fenceGen := rfl
@[simp] theorem setSource_arms : (setSource s n x).arms = s.arms := rfl
@[simp] theorem setSource_semas : (setSource s n x).semas = s.semas := rfl
@[simp] theorem setSource_vis : (setSource s n x).vis = s.vis := rfl
@[simp] theorem setSource_numVfs : (setSource s n x).numVfs = s.numVfs := rfl
@[simp] theorem setSource_graphs : (setSource s n x).graphs = s.graphs := rfl
@[simp] theorem setSource_pools : (setSource s n x).pools = s.pools := rfl
@[simp] theorem setSource_advice : (setSource s n x).advice = s.advice := rfl
@[simp] theorem setSource_sources : (setSource s n x).sources = tput s.sources n x := rfl
@[simp] theorem setSource_triggers : (setSource s n x).triggers = s.triggers := rfl
@[simp] theorem setSource_fired : (setSource s n x).fired = s.fired := rfl
@[simp] theorem setSource_checks : (setSource s n x).checks = s.checks := rfl
@[simp] theorem setSource_doomed : (setSource s n x).doomed = s.doomed := rfl
@[simp] theorem setSource_missSeq : (setSource s n x).missSeq = s.missSeq := rfl
@[simp] theorem setSource_missAt : (setSource s n x).missAt = s.missAt := rfl
@[simp] theorem setSource_vchans : (setSource s n x).vchans = s.vchans := rfl
@[simp] theorem setSource_vioAddr : (setSource s n x).vioAddr = s.vioAddr := rfl
@[simp] theorem setSource_ptp : (setSource s n x).ptp = s.ptp := rfl
@[simp] theorem setSource_pipes : (setSource s n x).pipes = s.pipes := rfl
@[simp] theorem setSource_cprs : (setSource s n x).cprs = s.cprs := rfl
@[simp] theorem setSource_links : (setSource s n x).links = s.links := rfl
@[simp] theorem setSource_members : (setSource s n x).members = s.members := rfl
@[simp] theorem setSource_winOwner : (setSource s n x).winOwner = s.winOwner := rfl
@[simp] theorem setSource_unreachable : (setSource s n x).unreachable = s.unreachable := rfl
@[simp] theorem setSource_remotes : (setSource s n x).remotes = s.remotes := rfl
@[simp] theorem setSource_nextTag : (setSource s n x).nextTag = s.nextTag := rfl
@[simp] theorem setSource_domains : (setSource s n x).domains = s.domains := rfl
@[simp] theorem setSource_power : (setSource s n x).power = s.power := rfl
@[simp] theorem setSource_pairs : (setSource s n x).pairs = s.pairs := rfl
@[simp] theorem setSource_rel : (setSource s n x).rel = s.rel := rfl
@[simp] theorem setSource_boot : (setSource s n x).boot = s.boot := rfl
@[simp] theorem setSource_pmc : (setSource s n x).pmc = s.pmc := rfl
@[simp] theorem setSource_pins : (setSource s n x).pins = s.pins := rfl
@[simp] theorem setSource_aerLog : (setSource s n x).aerLog = s.aerLog := rfl
@[simp] theorem setSource_accOffset : (setSource s n x).accOffset = s.accOffset := rfl
@[simp] theorem setSource_accData : (setSource s n x).accData = s.accData := rfl
end

section
variable (s : State) (n : Nat) (x : Trigger)
@[simp] theorem setTrig_pending : (setTrig s n x).pending = s.pending := rfl
@[simp] theorem setTrig_free : (setTrig s n x).free = s.free := rfl
@[simp] theorem setTrig_rdata : (setTrig s n x).rdata = s.rdata := rfl
@[simp] theorem setTrig_now : (setTrig s n x).now = s.now := rfl
@[simp] theorem setTrig_regs : (setTrig s n x).regs = s.regs := rfl
@[simp] theorem setTrig_unvoted : (setTrig s n x).unvoted = s.unvoted := rfl
@[simp] theorem setTrig_mbx : (setTrig s n x).mbx = s.mbx := rfl
@[simp] theorem setTrig_mem : (setTrig s n x).mem = s.mem := rfl
@[simp] theorem setTrig_poison : (setTrig s n x).poison = s.poison := rfl
@[simp] theorem setTrig_trained : (setTrig s n x).trained = s.trained := rfl
@[simp] theorem setTrig_keys : (setTrig s n x).keys = s.keys := rfl
@[simp] theorem setTrig_parts : (setTrig s n x).parts = s.parts := rfl
@[simp] theorem setTrig_map : (setTrig s n x).map = s.map := rfl
@[simp] theorem setTrig_roles : (setTrig s n x).roles = s.roles := rfl
@[simp] theorem setTrig_cores : (setTrig s n x).cores = s.cores := rfl
@[simp] theorem setTrig_slices : (setTrig s n x).slices = s.slices := rfl
@[simp] theorem setTrig_chans : (setTrig s n x).chans = s.chans := rfl
@[simp] theorem setTrig_ctxTab : (setTrig s n x).ctxTab = s.ctxTab := rfl
@[simp] theorem setTrig_ctxRead : (setTrig s n x).ctxRead = s.ctxRead := rfl
@[simp] theorem setTrig_rangeCache : (setTrig s n x).rangeCache = s.rangeCache := rfl
@[simp] theorem setTrig_invQueue : (setTrig s n x).invQueue = s.invQueue := rfl
@[simp] theorem setTrig_invRun : (setTrig s n x).invRun = s.invRun := rfl
@[simp] theorem setTrig_doneTag : (setTrig s n x).doneTag = s.doneTag := rfl
@[simp] theorem setTrig_xltAddr : (setTrig s n x).xltAddr = s.xltAddr := rfl
@[simp] theorem setTrig_xltEntry : (setTrig s n x).xltEntry = s.xltEntry := rfl
@[simp] theorem setTrig_contexts : (setTrig s n x).contexts = s.contexts := rfl
@[simp] theorem setTrig_grants : (setTrig s n x).grants = s.grants := rfl
@[simp] theorem setTrig_queues : (setTrig s n x).queues = s.queues := rfl
@[simp] theorem setTrig_jobs : (setTrig s n x).jobs = s.jobs := rfl
@[simp] theorem setTrig_nextJob : (setTrig s n x).nextJob = s.nextJob := rfl
@[simp] theorem setTrig_fences : (setTrig s n x).fences = s.fences := rfl
@[simp] theorem setTrig_fenceGen : (setTrig s n x).fenceGen = s.fenceGen := rfl
@[simp] theorem setTrig_arms : (setTrig s n x).arms = s.arms := rfl
@[simp] theorem setTrig_semas : (setTrig s n x).semas = s.semas := rfl
@[simp] theorem setTrig_vis : (setTrig s n x).vis = s.vis := rfl
@[simp] theorem setTrig_numVfs : (setTrig s n x).numVfs = s.numVfs := rfl
@[simp] theorem setTrig_graphs : (setTrig s n x).graphs = s.graphs := rfl
@[simp] theorem setTrig_pools : (setTrig s n x).pools = s.pools := rfl
@[simp] theorem setTrig_advice : (setTrig s n x).advice = s.advice := rfl
@[simp] theorem setTrig_sources : (setTrig s n x).sources = s.sources := rfl
@[simp] theorem setTrig_triggers : (setTrig s n x).triggers = tput s.triggers n x := rfl
@[simp] theorem setTrig_fired : (setTrig s n x).fired = s.fired := rfl
@[simp] theorem setTrig_checks : (setTrig s n x).checks = s.checks := rfl
@[simp] theorem setTrig_doomed : (setTrig s n x).doomed = s.doomed := rfl
@[simp] theorem setTrig_missSeq : (setTrig s n x).missSeq = s.missSeq := rfl
@[simp] theorem setTrig_missAt : (setTrig s n x).missAt = s.missAt := rfl
@[simp] theorem setTrig_vchans : (setTrig s n x).vchans = s.vchans := rfl
@[simp] theorem setTrig_vioAddr : (setTrig s n x).vioAddr = s.vioAddr := rfl
@[simp] theorem setTrig_ptp : (setTrig s n x).ptp = s.ptp := rfl
@[simp] theorem setTrig_pipes : (setTrig s n x).pipes = s.pipes := rfl
@[simp] theorem setTrig_cprs : (setTrig s n x).cprs = s.cprs := rfl
@[simp] theorem setTrig_links : (setTrig s n x).links = s.links := rfl
@[simp] theorem setTrig_members : (setTrig s n x).members = s.members := rfl
@[simp] theorem setTrig_winOwner : (setTrig s n x).winOwner = s.winOwner := rfl
@[simp] theorem setTrig_unreachable : (setTrig s n x).unreachable = s.unreachable := rfl
@[simp] theorem setTrig_remotes : (setTrig s n x).remotes = s.remotes := rfl
@[simp] theorem setTrig_nextTag : (setTrig s n x).nextTag = s.nextTag := rfl
@[simp] theorem setTrig_domains : (setTrig s n x).domains = s.domains := rfl
@[simp] theorem setTrig_power : (setTrig s n x).power = s.power := rfl
@[simp] theorem setTrig_pairs : (setTrig s n x).pairs = s.pairs := rfl
@[simp] theorem setTrig_rel : (setTrig s n x).rel = s.rel := rfl
@[simp] theorem setTrig_boot : (setTrig s n x).boot = s.boot := rfl
@[simp] theorem setTrig_pmc : (setTrig s n x).pmc = s.pmc := rfl
@[simp] theorem setTrig_pins : (setTrig s n x).pins = s.pins := rfl
@[simp] theorem setTrig_aerLog : (setTrig s n x).aerLog = s.aerLog := rfl
@[simp] theorem setTrig_accOffset : (setTrig s n x).accOffset = s.accOffset := rfl
@[simp] theorem setTrig_accData : (setTrig s n x).accData = s.accData := rfl
end

section
variable (s : State) (i : Nat) (x : Pair)
@[simp] theorem setPair_pending : (setPair s i x).pending = s.pending := rfl
@[simp] theorem setPair_free : (setPair s i x).free = s.free := rfl
@[simp] theorem setPair_rdata : (setPair s i x).rdata = s.rdata := rfl
@[simp] theorem setPair_now : (setPair s i x).now = s.now := rfl
@[simp] theorem setPair_regs : (setPair s i x).regs = s.regs := rfl
@[simp] theorem setPair_unvoted : (setPair s i x).unvoted = s.unvoted := rfl
@[simp] theorem setPair_mbx : (setPair s i x).mbx = s.mbx := rfl
@[simp] theorem setPair_mem : (setPair s i x).mem = s.mem := rfl
@[simp] theorem setPair_poison : (setPair s i x).poison = s.poison := rfl
@[simp] theorem setPair_trained : (setPair s i x).trained = s.trained := rfl
@[simp] theorem setPair_keys : (setPair s i x).keys = s.keys := rfl
@[simp] theorem setPair_parts : (setPair s i x).parts = s.parts := rfl
@[simp] theorem setPair_map : (setPair s i x).map = s.map := rfl
@[simp] theorem setPair_roles : (setPair s i x).roles = s.roles := rfl
@[simp] theorem setPair_cores : (setPair s i x).cores = s.cores := rfl
@[simp] theorem setPair_slices : (setPair s i x).slices = s.slices := rfl
@[simp] theorem setPair_chans : (setPair s i x).chans = s.chans := rfl
@[simp] theorem setPair_ctxTab : (setPair s i x).ctxTab = s.ctxTab := rfl
@[simp] theorem setPair_ctxRead : (setPair s i x).ctxRead = s.ctxRead := rfl
@[simp] theorem setPair_rangeCache : (setPair s i x).rangeCache = s.rangeCache := rfl
@[simp] theorem setPair_invQueue : (setPair s i x).invQueue = s.invQueue := rfl
@[simp] theorem setPair_invRun : (setPair s i x).invRun = s.invRun := rfl
@[simp] theorem setPair_doneTag : (setPair s i x).doneTag = s.doneTag := rfl
@[simp] theorem setPair_xltAddr : (setPair s i x).xltAddr = s.xltAddr := rfl
@[simp] theorem setPair_xltEntry : (setPair s i x).xltEntry = s.xltEntry := rfl
@[simp] theorem setPair_contexts : (setPair s i x).contexts = s.contexts := rfl
@[simp] theorem setPair_grants : (setPair s i x).grants = s.grants := rfl
@[simp] theorem setPair_queues : (setPair s i x).queues = s.queues := rfl
@[simp] theorem setPair_jobs : (setPair s i x).jobs = s.jobs := rfl
@[simp] theorem setPair_nextJob : (setPair s i x).nextJob = s.nextJob := rfl
@[simp] theorem setPair_fences : (setPair s i x).fences = s.fences := rfl
@[simp] theorem setPair_fenceGen : (setPair s i x).fenceGen = s.fenceGen := rfl
@[simp] theorem setPair_arms : (setPair s i x).arms = s.arms := rfl
@[simp] theorem setPair_semas : (setPair s i x).semas = s.semas := rfl
@[simp] theorem setPair_vis : (setPair s i x).vis = s.vis := rfl
@[simp] theorem setPair_numVfs : (setPair s i x).numVfs = s.numVfs := rfl
@[simp] theorem setPair_graphs : (setPair s i x).graphs = s.graphs := rfl
@[simp] theorem setPair_pools : (setPair s i x).pools = s.pools := rfl
@[simp] theorem setPair_advice : (setPair s i x).advice = s.advice := rfl
@[simp] theorem setPair_sources : (setPair s i x).sources = s.sources := rfl
@[simp] theorem setPair_triggers : (setPair s i x).triggers = s.triggers := rfl
@[simp] theorem setPair_fired : (setPair s i x).fired = s.fired := rfl
@[simp] theorem setPair_checks : (setPair s i x).checks = s.checks := rfl
@[simp] theorem setPair_doomed : (setPair s i x).doomed = s.doomed := rfl
@[simp] theorem setPair_missSeq : (setPair s i x).missSeq = s.missSeq := rfl
@[simp] theorem setPair_missAt : (setPair s i x).missAt = s.missAt := rfl
@[simp] theorem setPair_vchans : (setPair s i x).vchans = s.vchans := rfl
@[simp] theorem setPair_vioAddr : (setPair s i x).vioAddr = s.vioAddr := rfl
@[simp] theorem setPair_ptp : (setPair s i x).ptp = s.ptp := rfl
@[simp] theorem setPair_pipes : (setPair s i x).pipes = s.pipes := rfl
@[simp] theorem setPair_cprs : (setPair s i x).cprs = s.cprs := rfl
@[simp] theorem setPair_links : (setPair s i x).links = s.links := rfl
@[simp] theorem setPair_members : (setPair s i x).members = s.members := rfl
@[simp] theorem setPair_winOwner : (setPair s i x).winOwner = s.winOwner := rfl
@[simp] theorem setPair_unreachable : (setPair s i x).unreachable = s.unreachable := rfl
@[simp] theorem setPair_remotes : (setPair s i x).remotes = s.remotes := rfl
@[simp] theorem setPair_nextTag : (setPair s i x).nextTag = s.nextTag := rfl
@[simp] theorem setPair_domains : (setPair s i x).domains = s.domains := rfl
@[simp] theorem setPair_power : (setPair s i x).power = s.power := rfl
@[simp] theorem setPair_pairs : (setPair s i x).pairs = tput s.pairs i x := rfl
@[simp] theorem setPair_rel : (setPair s i x).rel = s.rel := rfl
@[simp] theorem setPair_boot : (setPair s i x).boot = s.boot := rfl
@[simp] theorem setPair_pmc : (setPair s i x).pmc = s.pmc := rfl
@[simp] theorem setPair_pins : (setPair s i x).pins = s.pins := rfl
@[simp] theorem setPair_aerLog : (setPair s i x).aerLog = s.aerLog := rfl
@[simp] theorem setPair_accOffset : (setPair s i x).accOffset = s.accOffset := rfl
@[simp] theorem setPair_accData : (setPair s i x).accData = s.accData := rfl
end

section
variable (s : State) (n : Nat) (x : Slice)
@[simp] theorem setSlice_pending : (setSlice s n x).pending = s.pending := rfl
@[simp] theorem setSlice_free : (setSlice s n x).free = s.free := rfl
@[simp] theorem setSlice_rdata : (setSlice s n x).rdata = s.rdata := rfl
@[simp] theorem setSlice_now : (setSlice s n x).now = s.now := rfl
@[simp] theorem setSlice_regs : (setSlice s n x).regs = s.regs := rfl
@[simp] theorem setSlice_unvoted : (setSlice s n x).unvoted = s.unvoted := rfl
@[simp] theorem setSlice_mbx : (setSlice s n x).mbx = s.mbx := rfl
@[simp] theorem setSlice_mem : (setSlice s n x).mem = s.mem := rfl
@[simp] theorem setSlice_poison : (setSlice s n x).poison = s.poison := rfl
@[simp] theorem setSlice_trained : (setSlice s n x).trained = s.trained := rfl
@[simp] theorem setSlice_keys : (setSlice s n x).keys = s.keys := rfl
@[simp] theorem setSlice_parts : (setSlice s n x).parts = s.parts := rfl
@[simp] theorem setSlice_map : (setSlice s n x).map = s.map := rfl
@[simp] theorem setSlice_roles : (setSlice s n x).roles = s.roles := rfl
@[simp] theorem setSlice_cores : (setSlice s n x).cores = s.cores := rfl
@[simp] theorem setSlice_slices : (setSlice s n x).slices = tput s.slices n x := rfl
@[simp] theorem setSlice_chans : (setSlice s n x).chans = s.chans := rfl
@[simp] theorem setSlice_ctxTab : (setSlice s n x).ctxTab = s.ctxTab := rfl
@[simp] theorem setSlice_ctxRead : (setSlice s n x).ctxRead = s.ctxRead := rfl
@[simp] theorem setSlice_rangeCache : (setSlice s n x).rangeCache = s.rangeCache := rfl
@[simp] theorem setSlice_invQueue : (setSlice s n x).invQueue = s.invQueue := rfl
@[simp] theorem setSlice_invRun : (setSlice s n x).invRun = s.invRun := rfl
@[simp] theorem setSlice_doneTag : (setSlice s n x).doneTag = s.doneTag := rfl
@[simp] theorem setSlice_xltAddr : (setSlice s n x).xltAddr = s.xltAddr := rfl
@[simp] theorem setSlice_xltEntry : (setSlice s n x).xltEntry = s.xltEntry := rfl
@[simp] theorem setSlice_contexts : (setSlice s n x).contexts = s.contexts := rfl
@[simp] theorem setSlice_grants : (setSlice s n x).grants = s.grants := rfl
@[simp] theorem setSlice_queues : (setSlice s n x).queues = s.queues := rfl
@[simp] theorem setSlice_jobs : (setSlice s n x).jobs = s.jobs := rfl
@[simp] theorem setSlice_nextJob : (setSlice s n x).nextJob = s.nextJob := rfl
@[simp] theorem setSlice_fences : (setSlice s n x).fences = s.fences := rfl
@[simp] theorem setSlice_fenceGen : (setSlice s n x).fenceGen = s.fenceGen := rfl
@[simp] theorem setSlice_arms : (setSlice s n x).arms = s.arms := rfl
@[simp] theorem setSlice_semas : (setSlice s n x).semas = s.semas := rfl
@[simp] theorem setSlice_vis : (setSlice s n x).vis = s.vis := rfl
@[simp] theorem setSlice_numVfs : (setSlice s n x).numVfs = s.numVfs := rfl
@[simp] theorem setSlice_graphs : (setSlice s n x).graphs = s.graphs := rfl
@[simp] theorem setSlice_pools : (setSlice s n x).pools = s.pools := rfl
@[simp] theorem setSlice_advice : (setSlice s n x).advice = s.advice := rfl
@[simp] theorem setSlice_sources : (setSlice s n x).sources = s.sources := rfl
@[simp] theorem setSlice_triggers : (setSlice s n x).triggers = s.triggers := rfl
@[simp] theorem setSlice_fired : (setSlice s n x).fired = s.fired := rfl
@[simp] theorem setSlice_checks : (setSlice s n x).checks = s.checks := rfl
@[simp] theorem setSlice_doomed : (setSlice s n x).doomed = s.doomed := rfl
@[simp] theorem setSlice_missSeq : (setSlice s n x).missSeq = s.missSeq := rfl
@[simp] theorem setSlice_missAt : (setSlice s n x).missAt = s.missAt := rfl
@[simp] theorem setSlice_vchans : (setSlice s n x).vchans = s.vchans := rfl
@[simp] theorem setSlice_vioAddr : (setSlice s n x).vioAddr = s.vioAddr := rfl
@[simp] theorem setSlice_ptp : (setSlice s n x).ptp = s.ptp := rfl
@[simp] theorem setSlice_pipes : (setSlice s n x).pipes = s.pipes := rfl
@[simp] theorem setSlice_cprs : (setSlice s n x).cprs = s.cprs := rfl
@[simp] theorem setSlice_links : (setSlice s n x).links = s.links := rfl
@[simp] theorem setSlice_members : (setSlice s n x).members = s.members := rfl
@[simp] theorem setSlice_winOwner : (setSlice s n x).winOwner = s.winOwner := rfl
@[simp] theorem setSlice_unreachable : (setSlice s n x).unreachable = s.unreachable := rfl
@[simp] theorem setSlice_remotes : (setSlice s n x).remotes = s.remotes := rfl
@[simp] theorem setSlice_nextTag : (setSlice s n x).nextTag = s.nextTag := rfl
@[simp] theorem setSlice_domains : (setSlice s n x).domains = s.domains := rfl
@[simp] theorem setSlice_power : (setSlice s n x).power = s.power := rfl
@[simp] theorem setSlice_pairs : (setSlice s n x).pairs = s.pairs := rfl
@[simp] theorem setSlice_rel : (setSlice s n x).rel = s.rel := rfl
@[simp] theorem setSlice_boot : (setSlice s n x).boot = s.boot := rfl
@[simp] theorem setSlice_pmc : (setSlice s n x).pmc = s.pmc := rfl
@[simp] theorem setSlice_pins : (setSlice s n x).pins = s.pins := rfl
@[simp] theorem setSlice_aerLog : (setSlice s n x).aerLog = s.aerLog := rfl
@[simp] theorem setSlice_accOffset : (setSlice s n x).accOffset = s.accOffset := rfl
@[simp] theorem setSlice_accData : (setSlice s n x).accData = s.accData := rfl
end

section
variable (s : State) (n : Nat) (x : Channel)
@[simp] theorem setChan_pending : (setChan s n x).pending = s.pending := rfl
@[simp] theorem setChan_free : (setChan s n x).free = s.free := rfl
@[simp] theorem setChan_rdata : (setChan s n x).rdata = s.rdata := rfl
@[simp] theorem setChan_now : (setChan s n x).now = s.now := rfl
@[simp] theorem setChan_regs : (setChan s n x).regs = s.regs := rfl
@[simp] theorem setChan_unvoted : (setChan s n x).unvoted = s.unvoted := rfl
@[simp] theorem setChan_mbx : (setChan s n x).mbx = s.mbx := rfl
@[simp] theorem setChan_mem : (setChan s n x).mem = s.mem := rfl
@[simp] theorem setChan_poison : (setChan s n x).poison = s.poison := rfl
@[simp] theorem setChan_trained : (setChan s n x).trained = s.trained := rfl
@[simp] theorem setChan_keys : (setChan s n x).keys = s.keys := rfl
@[simp] theorem setChan_parts : (setChan s n x).parts = s.parts := rfl
@[simp] theorem setChan_map : (setChan s n x).map = s.map := rfl
@[simp] theorem setChan_roles : (setChan s n x).roles = s.roles := rfl
@[simp] theorem setChan_cores : (setChan s n x).cores = s.cores := rfl
@[simp] theorem setChan_slices : (setChan s n x).slices = s.slices := rfl
@[simp] theorem setChan_chans : (setChan s n x).chans = tput s.chans n x := rfl
@[simp] theorem setChan_ctxTab : (setChan s n x).ctxTab = s.ctxTab := rfl
@[simp] theorem setChan_ctxRead : (setChan s n x).ctxRead = s.ctxRead := rfl
@[simp] theorem setChan_rangeCache : (setChan s n x).rangeCache = s.rangeCache := rfl
@[simp] theorem setChan_invQueue : (setChan s n x).invQueue = s.invQueue := rfl
@[simp] theorem setChan_invRun : (setChan s n x).invRun = s.invRun := rfl
@[simp] theorem setChan_doneTag : (setChan s n x).doneTag = s.doneTag := rfl
@[simp] theorem setChan_xltAddr : (setChan s n x).xltAddr = s.xltAddr := rfl
@[simp] theorem setChan_xltEntry : (setChan s n x).xltEntry = s.xltEntry := rfl
@[simp] theorem setChan_contexts : (setChan s n x).contexts = s.contexts := rfl
@[simp] theorem setChan_grants : (setChan s n x).grants = s.grants := rfl
@[simp] theorem setChan_queues : (setChan s n x).queues = s.queues := rfl
@[simp] theorem setChan_jobs : (setChan s n x).jobs = s.jobs := rfl
@[simp] theorem setChan_nextJob : (setChan s n x).nextJob = s.nextJob := rfl
@[simp] theorem setChan_fences : (setChan s n x).fences = s.fences := rfl
@[simp] theorem setChan_fenceGen : (setChan s n x).fenceGen = s.fenceGen := rfl
@[simp] theorem setChan_arms : (setChan s n x).arms = s.arms := rfl
@[simp] theorem setChan_semas : (setChan s n x).semas = s.semas := rfl
@[simp] theorem setChan_vis : (setChan s n x).vis = s.vis := rfl
@[simp] theorem setChan_numVfs : (setChan s n x).numVfs = s.numVfs := rfl
@[simp] theorem setChan_graphs : (setChan s n x).graphs = s.graphs := rfl
@[simp] theorem setChan_pools : (setChan s n x).pools = s.pools := rfl
@[simp] theorem setChan_advice : (setChan s n x).advice = s.advice := rfl
@[simp] theorem setChan_sources : (setChan s n x).sources = s.sources := rfl
@[simp] theorem setChan_triggers : (setChan s n x).triggers = s.triggers := rfl
@[simp] theorem setChan_fired : (setChan s n x).fired = s.fired := rfl
@[simp] theorem setChan_checks : (setChan s n x).checks = s.checks := rfl
@[simp] theorem setChan_doomed : (setChan s n x).doomed = s.doomed := rfl
@[simp] theorem setChan_missSeq : (setChan s n x).missSeq = s.missSeq := rfl
@[simp] theorem setChan_missAt : (setChan s n x).missAt = s.missAt := rfl
@[simp] theorem setChan_vchans : (setChan s n x).vchans = s.vchans := rfl
@[simp] theorem setChan_vioAddr : (setChan s n x).vioAddr = s.vioAddr := rfl
@[simp] theorem setChan_ptp : (setChan s n x).ptp = s.ptp := rfl
@[simp] theorem setChan_pipes : (setChan s n x).pipes = s.pipes := rfl
@[simp] theorem setChan_cprs : (setChan s n x).cprs = s.cprs := rfl
@[simp] theorem setChan_links : (setChan s n x).links = s.links := rfl
@[simp] theorem setChan_members : (setChan s n x).members = s.members := rfl
@[simp] theorem setChan_winOwner : (setChan s n x).winOwner = s.winOwner := rfl
@[simp] theorem setChan_unreachable : (setChan s n x).unreachable = s.unreachable := rfl
@[simp] theorem setChan_remotes : (setChan s n x).remotes = s.remotes := rfl
@[simp] theorem setChan_nextTag : (setChan s n x).nextTag = s.nextTag := rfl
@[simp] theorem setChan_domains : (setChan s n x).domains = s.domains := rfl
@[simp] theorem setChan_power : (setChan s n x).power = s.power := rfl
@[simp] theorem setChan_pairs : (setChan s n x).pairs = s.pairs := rfl
@[simp] theorem setChan_rel : (setChan s n x).rel = s.rel := rfl
@[simp] theorem setChan_boot : (setChan s n x).boot = s.boot := rfl
@[simp] theorem setChan_pmc : (setChan s n x).pmc = s.pmc := rfl
@[simp] theorem setChan_pins : (setChan s n x).pins = s.pins := rfl
@[simp] theorem setChan_aerLog : (setChan s n x).aerLog = s.aerLog := rfl
@[simp] theorem setChan_accOffset : (setChan s n x).accOffset = s.accOffset := rfl
@[simp] theorem setChan_accData : (setChan s n x).accData = s.accData := rfl
end

section
variable (s : State) (k : Nat) (x : Counter)
@[simp] theorem setCtr_pending : (setCtr s k x).pending = s.pending := rfl
@[simp] theorem setCtr_free : (setCtr s k x).free = s.free := rfl
@[simp] theorem setCtr_rdata : (setCtr s k x).rdata = s.rdata := rfl
@[simp] theorem setCtr_now : (setCtr s k x).now = s.now := rfl
@[simp] theorem setCtr_regs : (setCtr s k x).regs = s.regs := rfl
@[simp] theorem setCtr_unvoted : (setCtr s k x).unvoted = s.unvoted := rfl
@[simp] theorem setCtr_mbx : (setCtr s k x).mbx = s.mbx := rfl
@[simp] theorem setCtr_mem : (setCtr s k x).mem = s.mem := rfl
@[simp] theorem setCtr_poison : (setCtr s k x).poison = s.poison := rfl
@[simp] theorem setCtr_trained : (setCtr s k x).trained = s.trained := rfl
@[simp] theorem setCtr_keys : (setCtr s k x).keys = s.keys := rfl
@[simp] theorem setCtr_parts : (setCtr s k x).parts = s.parts := rfl
@[simp] theorem setCtr_map : (setCtr s k x).map = s.map := rfl
@[simp] theorem setCtr_roles : (setCtr s k x).roles = s.roles := rfl
@[simp] theorem setCtr_cores : (setCtr s k x).cores = s.cores := rfl
@[simp] theorem setCtr_slices : (setCtr s k x).slices = s.slices := rfl
@[simp] theorem setCtr_chans : (setCtr s k x).chans = s.chans := rfl
@[simp] theorem setCtr_ctxTab : (setCtr s k x).ctxTab = s.ctxTab := rfl
@[simp] theorem setCtr_ctxRead : (setCtr s k x).ctxRead = s.ctxRead := rfl
@[simp] theorem setCtr_rangeCache : (setCtr s k x).rangeCache = s.rangeCache := rfl
@[simp] theorem setCtr_invQueue : (setCtr s k x).invQueue = s.invQueue := rfl
@[simp] theorem setCtr_invRun : (setCtr s k x).invRun = s.invRun := rfl
@[simp] theorem setCtr_doneTag : (setCtr s k x).doneTag = s.doneTag := rfl
@[simp] theorem setCtr_xltAddr : (setCtr s k x).xltAddr = s.xltAddr := rfl
@[simp] theorem setCtr_xltEntry : (setCtr s k x).xltEntry = s.xltEntry := rfl
@[simp] theorem setCtr_contexts : (setCtr s k x).contexts = s.contexts := rfl
@[simp] theorem setCtr_grants : (setCtr s k x).grants = s.grants := rfl
@[simp] theorem setCtr_queues : (setCtr s k x).queues = s.queues := rfl
@[simp] theorem setCtr_jobs : (setCtr s k x).jobs = s.jobs := rfl
@[simp] theorem setCtr_nextJob : (setCtr s k x).nextJob = s.nextJob := rfl
@[simp] theorem setCtr_fences : (setCtr s k x).fences = s.fences := rfl
@[simp] theorem setCtr_fenceGen : (setCtr s k x).fenceGen = s.fenceGen := rfl
@[simp] theorem setCtr_arms : (setCtr s k x).arms = s.arms := rfl
@[simp] theorem setCtr_semas : (setCtr s k x).semas = s.semas := rfl
@[simp] theorem setCtr_vis : (setCtr s k x).vis = s.vis := rfl
@[simp] theorem setCtr_numVfs : (setCtr s k x).numVfs = s.numVfs := rfl
@[simp] theorem setCtr_graphs : (setCtr s k x).graphs = s.graphs := rfl
@[simp] theorem setCtr_pools : (setCtr s k x).pools = s.pools := rfl
@[simp] theorem setCtr_advice : (setCtr s k x).advice = s.advice := rfl
@[simp] theorem setCtr_sources : (setCtr s k x).sources = s.sources := rfl
@[simp] theorem setCtr_triggers : (setCtr s k x).triggers = s.triggers := rfl
@[simp] theorem setCtr_fired : (setCtr s k x).fired = s.fired := rfl
@[simp] theorem setCtr_checks : (setCtr s k x).checks = s.checks := rfl
@[simp] theorem setCtr_doomed : (setCtr s k x).doomed = s.doomed := rfl
@[simp] theorem setCtr_missSeq : (setCtr s k x).missSeq = s.missSeq := rfl
@[simp] theorem setCtr_missAt : (setCtr s k x).missAt = s.missAt := rfl
@[simp] theorem setCtr_vchans : (setCtr s k x).vchans = s.vchans := rfl
@[simp] theorem setCtr_vioAddr : (setCtr s k x).vioAddr = s.vioAddr := rfl
@[simp] theorem setCtr_ptp : (setCtr s k x).ptp = s.ptp := rfl
@[simp] theorem setCtr_pipes : (setCtr s k x).pipes = s.pipes := rfl
@[simp] theorem setCtr_cprs : (setCtr s k x).cprs = s.cprs := rfl
@[simp] theorem setCtr_links : (setCtr s k x).links = s.links := rfl
@[simp] theorem setCtr_members : (setCtr s k x).members = s.members := rfl
@[simp] theorem setCtr_winOwner : (setCtr s k x).winOwner = s.winOwner := rfl
@[simp] theorem setCtr_unreachable : (setCtr s k x).unreachable = s.unreachable := rfl
@[simp] theorem setCtr_remotes : (setCtr s k x).remotes = s.remotes := rfl
@[simp] theorem setCtr_nextTag : (setCtr s k x).nextTag = s.nextTag := rfl
@[simp] theorem setCtr_domains : (setCtr s k x).domains = s.domains := rfl
@[simp] theorem setCtr_power : (setCtr s k x).power = s.power := rfl
@[simp] theorem setCtr_pairs : (setCtr s k x).pairs = s.pairs := rfl
@[simp] theorem setCtr_rel : (setCtr s k x).rel = s.rel := rfl
@[simp] theorem setCtr_boot : (setCtr s k x).boot = s.boot := rfl
@[simp] theorem setCtr_pmc : (setCtr s k x).pmc = { s.pmc with counters := tput s.pmc.counters k x } := rfl
@[simp] theorem setCtr_pins : (setCtr s k x).pins = s.pins := rfl
@[simp] theorem setCtr_aerLog : (setCtr s k x).aerLog = s.aerLog := rfl
@[simp] theorem setCtr_accOffset : (setCtr s k x).accOffset = s.accOffset := rfl
@[simp] theorem setCtr_accData : (setCtr s k x).accData = s.accData := rfl
end

section
variable (s : State) (page ch : Nat) (c : VChan)
@[simp] theorem setVChan_pending : (setVChan s page ch c).pending = s.pending := rfl
@[simp] theorem setVChan_free : (setVChan s page ch c).free = s.free := rfl
@[simp] theorem setVChan_rdata : (setVChan s page ch c).rdata = s.rdata := rfl
@[simp] theorem setVChan_now : (setVChan s page ch c).now = s.now := rfl
@[simp] theorem setVChan_regs : (setVChan s page ch c).regs = s.regs := rfl
@[simp] theorem setVChan_unvoted : (setVChan s page ch c).unvoted = s.unvoted := rfl
@[simp] theorem setVChan_mbx : (setVChan s page ch c).mbx = s.mbx := rfl
@[simp] theorem setVChan_mem : (setVChan s page ch c).mem = s.mem := rfl
@[simp] theorem setVChan_poison : (setVChan s page ch c).poison = s.poison := rfl
@[simp] theorem setVChan_trained : (setVChan s page ch c).trained = s.trained := rfl
@[simp] theorem setVChan_keys : (setVChan s page ch c).keys = s.keys := rfl
@[simp] theorem setVChan_parts : (setVChan s page ch c).parts = s.parts := rfl
@[simp] theorem setVChan_map : (setVChan s page ch c).map = s.map := rfl
@[simp] theorem setVChan_roles : (setVChan s page ch c).roles = s.roles := rfl
@[simp] theorem setVChan_cores : (setVChan s page ch c).cores = s.cores := rfl
@[simp] theorem setVChan_slices : (setVChan s page ch c).slices = s.slices := rfl
@[simp] theorem setVChan_chans : (setVChan s page ch c).chans = s.chans := rfl
@[simp] theorem setVChan_ctxTab : (setVChan s page ch c).ctxTab = s.ctxTab := rfl
@[simp] theorem setVChan_ctxRead : (setVChan s page ch c).ctxRead = s.ctxRead := rfl
@[simp] theorem setVChan_rangeCache : (setVChan s page ch c).rangeCache = s.rangeCache := rfl
@[simp] theorem setVChan_invQueue : (setVChan s page ch c).invQueue = s.invQueue := rfl
@[simp] theorem setVChan_invRun : (setVChan s page ch c).invRun = s.invRun := rfl
@[simp] theorem setVChan_doneTag : (setVChan s page ch c).doneTag = s.doneTag := rfl
@[simp] theorem setVChan_xltAddr : (setVChan s page ch c).xltAddr = s.xltAddr := rfl
@[simp] theorem setVChan_xltEntry : (setVChan s page ch c).xltEntry = s.xltEntry := rfl
@[simp] theorem setVChan_contexts : (setVChan s page ch c).contexts = s.contexts := rfl
@[simp] theorem setVChan_grants : (setVChan s page ch c).grants = s.grants := rfl
@[simp] theorem setVChan_queues : (setVChan s page ch c).queues = s.queues := rfl
@[simp] theorem setVChan_jobs : (setVChan s page ch c).jobs = s.jobs := rfl
@[simp] theorem setVChan_nextJob : (setVChan s page ch c).nextJob = s.nextJob := rfl
@[simp] theorem setVChan_fences : (setVChan s page ch c).fences = s.fences := rfl
@[simp] theorem setVChan_fenceGen : (setVChan s page ch c).fenceGen = s.fenceGen := rfl
@[simp] theorem setVChan_arms : (setVChan s page ch c).arms = s.arms := rfl
@[simp] theorem setVChan_semas : (setVChan s page ch c).semas = s.semas := rfl
@[simp] theorem setVChan_vis : (setVChan s page ch c).vis = s.vis := rfl
@[simp] theorem setVChan_numVfs : (setVChan s page ch c).numVfs = s.numVfs := rfl
@[simp] theorem setVChan_graphs : (setVChan s page ch c).graphs = s.graphs := rfl
@[simp] theorem setVChan_pools : (setVChan s page ch c).pools = s.pools := rfl
@[simp] theorem setVChan_advice : (setVChan s page ch c).advice = s.advice := rfl
@[simp] theorem setVChan_sources : (setVChan s page ch c).sources = s.sources := rfl
@[simp] theorem setVChan_triggers : (setVChan s page ch c).triggers = s.triggers := rfl
@[simp] theorem setVChan_fired : (setVChan s page ch c).fired = s.fired := rfl
@[simp] theorem setVChan_checks : (setVChan s page ch c).checks = s.checks := rfl
@[simp] theorem setVChan_doomed : (setVChan s page ch c).doomed = s.doomed := rfl
@[simp] theorem setVChan_missSeq : (setVChan s page ch c).missSeq = s.missSeq := rfl
@[simp] theorem setVChan_missAt : (setVChan s page ch c).missAt = s.missAt := rfl
@[simp] theorem setVChan_vchans : (setVChan s page ch c).vchans = tput s.vchans (chKey page ch) c := rfl
@[simp] theorem setVChan_vioAddr : (setVChan s page ch c).vioAddr = s.vioAddr := rfl
@[simp] theorem setVChan_ptp : (setVChan s page ch c).ptp = s.ptp := rfl
@[simp] theorem setVChan_pipes : (setVChan s page ch c).pipes = s.pipes := rfl
@[simp] theorem setVChan_cprs : (setVChan s page ch c).cprs = s.cprs := rfl
@[simp] theorem setVChan_links : (setVChan s page ch c).links = s.links := rfl
@[simp] theorem setVChan_members : (setVChan s page ch c).members = s.members := rfl
@[simp] theorem setVChan_winOwner : (setVChan s page ch c).winOwner = s.winOwner := rfl
@[simp] theorem setVChan_unreachable : (setVChan s page ch c).unreachable = s.unreachable := rfl
@[simp] theorem setVChan_remotes : (setVChan s page ch c).remotes = s.remotes := rfl
@[simp] theorem setVChan_nextTag : (setVChan s page ch c).nextTag = s.nextTag := rfl
@[simp] theorem setVChan_domains : (setVChan s page ch c).domains = s.domains := rfl
@[simp] theorem setVChan_power : (setVChan s page ch c).power = s.power := rfl
@[simp] theorem setVChan_pairs : (setVChan s page ch c).pairs = s.pairs := rfl
@[simp] theorem setVChan_rel : (setVChan s page ch c).rel = s.rel := rfl
@[simp] theorem setVChan_boot : (setVChan s page ch c).boot = s.boot := rfl
@[simp] theorem setVChan_pmc : (setVChan s page ch c).pmc = s.pmc := rfl
@[simp] theorem setVChan_pins : (setVChan s page ch c).pins = s.pins := rfl
@[simp] theorem setVChan_aerLog : (setVChan s page ch c).aerLog = s.aerLog := rfl
@[simp] theorem setVChan_accOffset : (setVChan s page ch c).accOffset = s.accOffset := rfl
@[simp] theorem setVChan_accData : (setVChan s page ch c).accData = s.accData := rfl
end

section
variable (s : State) (n : Nat) (x : Pipe)
@[simp] theorem setPipe_pending : (setPipe s n x).pending = s.pending := rfl
@[simp] theorem setPipe_free : (setPipe s n x).free = s.free := rfl
@[simp] theorem setPipe_rdata : (setPipe s n x).rdata = s.rdata := rfl
@[simp] theorem setPipe_now : (setPipe s n x).now = s.now := rfl
@[simp] theorem setPipe_regs : (setPipe s n x).regs = s.regs := rfl
@[simp] theorem setPipe_unvoted : (setPipe s n x).unvoted = s.unvoted := rfl
@[simp] theorem setPipe_mbx : (setPipe s n x).mbx = s.mbx := rfl
@[simp] theorem setPipe_mem : (setPipe s n x).mem = s.mem := rfl
@[simp] theorem setPipe_poison : (setPipe s n x).poison = s.poison := rfl
@[simp] theorem setPipe_trained : (setPipe s n x).trained = s.trained := rfl
@[simp] theorem setPipe_keys : (setPipe s n x).keys = s.keys := rfl
@[simp] theorem setPipe_parts : (setPipe s n x).parts = s.parts := rfl
@[simp] theorem setPipe_map : (setPipe s n x).map = s.map := rfl
@[simp] theorem setPipe_roles : (setPipe s n x).roles = s.roles := rfl
@[simp] theorem setPipe_cores : (setPipe s n x).cores = s.cores := rfl
@[simp] theorem setPipe_slices : (setPipe s n x).slices = s.slices := rfl
@[simp] theorem setPipe_chans : (setPipe s n x).chans = s.chans := rfl
@[simp] theorem setPipe_ctxTab : (setPipe s n x).ctxTab = s.ctxTab := rfl
@[simp] theorem setPipe_ctxRead : (setPipe s n x).ctxRead = s.ctxRead := rfl
@[simp] theorem setPipe_rangeCache : (setPipe s n x).rangeCache = s.rangeCache := rfl
@[simp] theorem setPipe_invQueue : (setPipe s n x).invQueue = s.invQueue := rfl
@[simp] theorem setPipe_invRun : (setPipe s n x).invRun = s.invRun := rfl
@[simp] theorem setPipe_doneTag : (setPipe s n x).doneTag = s.doneTag := rfl
@[simp] theorem setPipe_xltAddr : (setPipe s n x).xltAddr = s.xltAddr := rfl
@[simp] theorem setPipe_xltEntry : (setPipe s n x).xltEntry = s.xltEntry := rfl
@[simp] theorem setPipe_contexts : (setPipe s n x).contexts = s.contexts := rfl
@[simp] theorem setPipe_grants : (setPipe s n x).grants = s.grants := rfl
@[simp] theorem setPipe_queues : (setPipe s n x).queues = s.queues := rfl
@[simp] theorem setPipe_jobs : (setPipe s n x).jobs = s.jobs := rfl
@[simp] theorem setPipe_nextJob : (setPipe s n x).nextJob = s.nextJob := rfl
@[simp] theorem setPipe_fences : (setPipe s n x).fences = s.fences := rfl
@[simp] theorem setPipe_fenceGen : (setPipe s n x).fenceGen = s.fenceGen := rfl
@[simp] theorem setPipe_arms : (setPipe s n x).arms = s.arms := rfl
@[simp] theorem setPipe_semas : (setPipe s n x).semas = s.semas := rfl
@[simp] theorem setPipe_vis : (setPipe s n x).vis = s.vis := rfl
@[simp] theorem setPipe_numVfs : (setPipe s n x).numVfs = s.numVfs := rfl
@[simp] theorem setPipe_graphs : (setPipe s n x).graphs = s.graphs := rfl
@[simp] theorem setPipe_pools : (setPipe s n x).pools = s.pools := rfl
@[simp] theorem setPipe_advice : (setPipe s n x).advice = s.advice := rfl
@[simp] theorem setPipe_sources : (setPipe s n x).sources = s.sources := rfl
@[simp] theorem setPipe_triggers : (setPipe s n x).triggers = s.triggers := rfl
@[simp] theorem setPipe_fired : (setPipe s n x).fired = s.fired := rfl
@[simp] theorem setPipe_checks : (setPipe s n x).checks = s.checks := rfl
@[simp] theorem setPipe_doomed : (setPipe s n x).doomed = s.doomed := rfl
@[simp] theorem setPipe_missSeq : (setPipe s n x).missSeq = s.missSeq := rfl
@[simp] theorem setPipe_missAt : (setPipe s n x).missAt = s.missAt := rfl
@[simp] theorem setPipe_vchans : (setPipe s n x).vchans = s.vchans := rfl
@[simp] theorem setPipe_vioAddr : (setPipe s n x).vioAddr = s.vioAddr := rfl
@[simp] theorem setPipe_ptp : (setPipe s n x).ptp = s.ptp := rfl
@[simp] theorem setPipe_pipes : (setPipe s n x).pipes = tput s.pipes n x := rfl
@[simp] theorem setPipe_cprs : (setPipe s n x).cprs = s.cprs := rfl
@[simp] theorem setPipe_links : (setPipe s n x).links = s.links := rfl
@[simp] theorem setPipe_members : (setPipe s n x).members = s.members := rfl
@[simp] theorem setPipe_winOwner : (setPipe s n x).winOwner = s.winOwner := rfl
@[simp] theorem setPipe_unreachable : (setPipe s n x).unreachable = s.unreachable := rfl
@[simp] theorem setPipe_remotes : (setPipe s n x).remotes = s.remotes := rfl
@[simp] theorem setPipe_nextTag : (setPipe s n x).nextTag = s.nextTag := rfl
@[simp] theorem setPipe_domains : (setPipe s n x).domains = s.domains := rfl
@[simp] theorem setPipe_power : (setPipe s n x).power = s.power := rfl
@[simp] theorem setPipe_pairs : (setPipe s n x).pairs = s.pairs := rfl
@[simp] theorem setPipe_rel : (setPipe s n x).rel = s.rel := rfl
@[simp] theorem setPipe_boot : (setPipe s n x).boot = s.boot := rfl
@[simp] theorem setPipe_pmc : (setPipe s n x).pmc = s.pmc := rfl
@[simp] theorem setPipe_pins : (setPipe s n x).pins = s.pins := rfl
@[simp] theorem setPipe_aerLog : (setPipe s n x).aerLog = s.aerLog := rfl
@[simp] theorem setPipe_accOffset : (setPipe s n x).accOffset = s.accOffset := rfl
@[simp] theorem setPipe_accData : (setPipe s n x).accData = s.accData := rfl
end

section
variable (s : State) (e : Nat) (c : Cpr)
@[simp] theorem setCpr_pending : (setCpr s e c).pending = s.pending := rfl
@[simp] theorem setCpr_free : (setCpr s e c).free = s.free := rfl
@[simp] theorem setCpr_rdata : (setCpr s e c).rdata = s.rdata := rfl
@[simp] theorem setCpr_now : (setCpr s e c).now = s.now := rfl
@[simp] theorem setCpr_regs : (setCpr s e c).regs = s.regs := rfl
@[simp] theorem setCpr_unvoted : (setCpr s e c).unvoted = s.unvoted := rfl
@[simp] theorem setCpr_mbx : (setCpr s e c).mbx = s.mbx := rfl
@[simp] theorem setCpr_mem : (setCpr s e c).mem = s.mem := rfl
@[simp] theorem setCpr_poison : (setCpr s e c).poison = s.poison := rfl
@[simp] theorem setCpr_trained : (setCpr s e c).trained = s.trained := rfl
@[simp] theorem setCpr_keys : (setCpr s e c).keys = s.keys := rfl
@[simp] theorem setCpr_parts : (setCpr s e c).parts = s.parts := rfl
@[simp] theorem setCpr_map : (setCpr s e c).map = s.map := rfl
@[simp] theorem setCpr_roles : (setCpr s e c).roles = s.roles := rfl
@[simp] theorem setCpr_cores : (setCpr s e c).cores = s.cores := rfl
@[simp] theorem setCpr_slices : (setCpr s e c).slices = s.slices := rfl
@[simp] theorem setCpr_chans : (setCpr s e c).chans = s.chans := rfl
@[simp] theorem setCpr_ctxTab : (setCpr s e c).ctxTab = s.ctxTab := rfl
@[simp] theorem setCpr_ctxRead : (setCpr s e c).ctxRead = s.ctxRead := rfl
@[simp] theorem setCpr_rangeCache : (setCpr s e c).rangeCache = s.rangeCache := rfl
@[simp] theorem setCpr_invQueue : (setCpr s e c).invQueue = s.invQueue := rfl
@[simp] theorem setCpr_invRun : (setCpr s e c).invRun = s.invRun := rfl
@[simp] theorem setCpr_doneTag : (setCpr s e c).doneTag = s.doneTag := rfl
@[simp] theorem setCpr_xltAddr : (setCpr s e c).xltAddr = s.xltAddr := rfl
@[simp] theorem setCpr_xltEntry : (setCpr s e c).xltEntry = s.xltEntry := rfl
@[simp] theorem setCpr_contexts : (setCpr s e c).contexts = s.contexts := rfl
@[simp] theorem setCpr_grants : (setCpr s e c).grants = s.grants := rfl
@[simp] theorem setCpr_queues : (setCpr s e c).queues = s.queues := rfl
@[simp] theorem setCpr_jobs : (setCpr s e c).jobs = s.jobs := rfl
@[simp] theorem setCpr_nextJob : (setCpr s e c).nextJob = s.nextJob := rfl
@[simp] theorem setCpr_fences : (setCpr s e c).fences = s.fences := rfl
@[simp] theorem setCpr_fenceGen : (setCpr s e c).fenceGen = s.fenceGen := rfl
@[simp] theorem setCpr_arms : (setCpr s e c).arms = s.arms := rfl
@[simp] theorem setCpr_semas : (setCpr s e c).semas = s.semas := rfl
@[simp] theorem setCpr_vis : (setCpr s e c).vis = s.vis := rfl
@[simp] theorem setCpr_numVfs : (setCpr s e c).numVfs = s.numVfs := rfl
@[simp] theorem setCpr_graphs : (setCpr s e c).graphs = s.graphs := rfl
@[simp] theorem setCpr_pools : (setCpr s e c).pools = s.pools := rfl
@[simp] theorem setCpr_advice : (setCpr s e c).advice = s.advice := rfl
@[simp] theorem setCpr_sources : (setCpr s e c).sources = s.sources := rfl
@[simp] theorem setCpr_triggers : (setCpr s e c).triggers = s.triggers := rfl
@[simp] theorem setCpr_fired : (setCpr s e c).fired = s.fired := rfl
@[simp] theorem setCpr_checks : (setCpr s e c).checks = s.checks := rfl
@[simp] theorem setCpr_doomed : (setCpr s e c).doomed = s.doomed := rfl
@[simp] theorem setCpr_missSeq : (setCpr s e c).missSeq = s.missSeq := rfl
@[simp] theorem setCpr_missAt : (setCpr s e c).missAt = s.missAt := rfl
@[simp] theorem setCpr_vchans : (setCpr s e c).vchans = s.vchans := rfl
@[simp] theorem setCpr_vioAddr : (setCpr s e c).vioAddr = s.vioAddr := rfl
@[simp] theorem setCpr_ptp : (setCpr s e c).ptp = s.ptp := rfl
@[simp] theorem setCpr_pipes : (setCpr s e c).pipes = s.pipes := rfl
@[simp] theorem setCpr_cprs : (setCpr s e c).cprs = tput s.cprs e c := rfl
@[simp] theorem setCpr_links : (setCpr s e c).links = s.links := rfl
@[simp] theorem setCpr_members : (setCpr s e c).members = s.members := rfl
@[simp] theorem setCpr_winOwner : (setCpr s e c).winOwner = s.winOwner := rfl
@[simp] theorem setCpr_unreachable : (setCpr s e c).unreachable = s.unreachable := rfl
@[simp] theorem setCpr_remotes : (setCpr s e c).remotes = s.remotes := rfl
@[simp] theorem setCpr_nextTag : (setCpr s e c).nextTag = s.nextTag := rfl
@[simp] theorem setCpr_domains : (setCpr s e c).domains = s.domains := rfl
@[simp] theorem setCpr_power : (setCpr s e c).power = s.power := rfl
@[simp] theorem setCpr_pairs : (setCpr s e c).pairs = s.pairs := rfl
@[simp] theorem setCpr_rel : (setCpr s e c).rel = s.rel := rfl
@[simp] theorem setCpr_boot : (setCpr s e c).boot = s.boot := rfl
@[simp] theorem setCpr_pmc : (setCpr s e c).pmc = s.pmc := rfl
@[simp] theorem setCpr_pins : (setCpr s e c).pins = s.pins := rfl
@[simp] theorem setCpr_aerLog : (setCpr s e c).aerLog = s.aerLog := rfl
@[simp] theorem setCpr_accOffset : (setCpr s e c).accOffset = s.accOffset := rfl
@[simp] theorem setCpr_accData : (setCpr s e c).accData = s.accData := rfl
end

end Sys2Proof.Machine
end

