-- ==== Sys2Proof/Laws/Memory.lean ====
section
/-! SUPPORT. Memory: what each writer of it leaves, that each keeps its canonical form, and the shared operations that leave it alone. -/
namespace Sys2Proof.Machine

/-! ### The writers of memory -/

theorem memByte_memWrite (s : State) (a n : Nat) (bs : List Byte) :
    memByte (memWrite s a bs) n = if a ≤ n ∧ n < a + bs.length then bs.getD (n - a) 0 else memByte s n :=
  tget_twrites 0 bs s.mem a n

theorem wf_memWrite {s : State} (a : Nat) (bs : List Byte) (h : Memory.wf s.mem = true) : Memory.wf (memWrite s a bs).mem = true :=
  twf_twrites bs a h

theorem wf_storeBytes {s : State} (xs : List (Nat × Byte)) (h : Memory.wf s.mem = true) : Memory.wf (storeBytes s xs).mem = true :=
  twf_foldl_tset xs (fun x => x.1) (fun x => x.2) h

theorem wf_storeAt {s : State} (a : Nat) (bs : List Byte) (h : Memory.wf s.mem = true) : Memory.wf (storeAt s a bs).mem = true :=
  wf_storeBytes _ h

theorem wf_filter {m : Tbl Byte} (f : Nat × Byte → Bool) (h : Memory.wf m = true) : Memory.wf (m.filter f) = true := twf_filter f h

theorem wf_deviceReset {s : State} (cause : Nat) (h : Memory.wf s.mem = true) : Memory.wf (deviceReset s cause).mem = true :=
  twf_filter _ h

theorem wf_reset : Memory.wf State.reset.mem = true := rfl

/-- A list of stores, each byte at its own address: what a byte reads as afterwards is the last store to it. -/
theorem tget_foldl_tset {α : Type} [DecidableEq α] (d : α) (xs : List (Nat × α)) (t : Tbl α) (n : Nat) (h : ∀ x ∈ xs, x.1 ≠ n) :
    tget d (xs.foldl (fun m x => tset d m x.1 x.2) t) n = tget d t n := by
  induction xs generalizing t with
  | nil => rfl
  | cons x xs ih =>
    rw [List.foldl_cons, ih _ (fun y hy => h y (List.mem_cons_of_mem x hy)), tget_tset, if_neg]
    exact fun hn => h x List.mem_cons_self hn.symm

/-- A store leaves every byte that it does not name. -/
theorem memByte_storeBytes (s : State) (xs : List (Nat × Byte)) (n : Nat) (h : ∀ x ∈ xs, x.1 ≠ n) :
    memByte (storeBytes s xs) n = memByte s n := tget_foldl_tset 0 xs s.mem n h

/-! ### Operations that leave memory alone -/

@[simp] theorem rput_mem (s : State) (page off hi lo v : Nat) : (rput s page off hi lo v).mem = s.mem := rfl
@[simp] theorem rbump_mem (s : State) (page off hi lo n : Nat) : (rbump s page off hi lo n).mem = s.mem := rfl
@[simp] theorem rcount_mem (s : State) (page off n : Nat) : (rcount s page off n).mem = s.mem := rfl
@[simp] theorem rwrap_mem (s : State) (page off n : Nat) : (rwrap s page off n).mem = s.mem := rfl
@[simp] theorem errCount_mem (s : State) (page : Nat) : (errCount s page).mem = s.mem := rfl

@[simp] theorem sendVector_mem (s : State) (fn v : Nat) : (sendVector s fn v).mem = s.mem := by
  unfold sendVector
  split <;> rfl

@[simp] theorem raiseIrq_mem (s : State) (page b : Nat) : (raiseIrq s page b).mem = s.mem := by
  unfold raiseIrq
  simp only
  split
  · split <;> simp
  · rfl

@[simp] theorem capture_mem (s : State) (page off mb fields : Nat) : (capture s page off mb fields).mem = s.mem := by
  unfold capture
  split <;> rfl

@[simp] theorem journalHbm_mem (s : State) (r : Record) : (journalHbm s r).mem = s.mem := by
  unfold journalHbm
  split <;> rfl

@[simp] theorem journalHs_mem (s : State) (r : Record) : (journalHs s r).mem = s.mem := rfl

@[simp] theorem journalAs_mem (s : State) (page kind severity : Nat) (info : List Byte) :
    (journalAs s page kind severity info).mem = s.mem := by
  unfold journalAs
  simp only
  split
  · simp
  · split
    · split <;> simp
    · simp

@[simp] theorem journalState_mem (s : State) (info : List Byte) : (journalState s info).mem = s.mem := by
  unfold journalState
  simp

@[simp] theorem journal_mem (s : State) (page event : Nat) (info : List Byte) : (journal s page event info).mem = s.mem := by
  unfold journal
  simp

@[simp] theorem updJob_mem (s : State) (j : Nat) (f : Job → Job) : (updJob s j f).mem = s.mem := by
  unfold updJob
  split <;> rfl

theorem CountOnly.mem {s t : State} (h : CountOnly s t) : t.mem = s.mem := by
  have h1 := congrArg State.mem h.1
  exact h1

@[simp] theorem pmcEvent_mem (s : State) (kind inst evt n : Nat) : (pmcEvent s kind inst evt n).mem = s.mem :=
  (countOnly_pmcEvent s kind inst evt n).mem

@[simp] theorem pmcCore_mem (s : State) (p evt n : Nat) : (pmcCore s p evt n).mem = s.mem := (countOnly_pmcCore s p evt n).mem

end Sys2Proof.Machine
end

