-- ==== Sys2Proof/Laws/Commands.lean ====
section
/-! SUPPORT. What the shared shells of the commands answer: an event's condition, a unit, a Hub command and a register access. -/
namespace Sys2Proof.Machine

theorem performs_next {t : State} {P : State → Prop} (h : P t) : Performs (.next t) P := ⟨t, rfl, h⟩

theorem Performs.mono {o : Out} {P Q : State → Prop} (h : Performs o P) (hpq : ∀ t, P t → Q t) : Performs o Q :=
  let ⟨t, ho, hp⟩ := h
  ⟨t, ho, hpq t hp⟩

@[simp] theorem performs_next_iff {t : State} {P : State → Prop} : Performs (.next t) P ↔ P t := by
  constructor
  · rintro ⟨u, hu, hp⟩
    cases hu
    exact hp
  · exact performs_next

@[simp] theorem onUnit_true (r : Out) : onUnit true r = r := rfl
@[simp] theorem onUnit_false (r : Out) : onUnit false r = .fault .absentUnit := rfl
@[simp] theorem whenever_true (s t : State) : whenever true s t = .next t := rfl
@[simp] theorem whenever_false (s t : State) : whenever false s t = .next s := rfl

/-- An event is always performed, with its effect or, where its condition does not hold, with none. -/
theorem whenever_next (c : Bool) (s t : State) : whenever c s t = .next (if c then t else s) := by
  cases c <;> rfl

/-! ### Fields and records of units -/

@[simp] theorem coreOf_setCore (s : State) (p q : Nat) (c : Core) : coreOf (setCore s p c) q = if q = p then c else coreOf s q := by
  unfold coreOf
  simp

@[simp] theorem groupOf_setGroup (s : State) (p g q k : Nat) (x : Group) :
    groupOf (setGroup s p g x) q k = if q = p ∧ k = g then some x else groupOf s q k := by
  unfold groupOf setGroup updCore
  rw [coreOf_setCore]
  by_cases h : q = p
  · subst h
    simp [tfind_tput]
  · simp [h]

@[simp] theorem viOf_viUpd (s : State) (n m : Nat) (f : Vinst → Vinst) : viOf (viUpd s n f) m = if m = n then f (viOf s n) else viOf s m := by
  unfold viOf
  simp only [viUpd_vis, tget_tput]
  split
  · subst_vars
    rfl
  · rfl

@[simp] theorem linkOf_setLink (s : State) (n m : Nat) (l : Link) : linkOf (setLink s n l) m = if m = n then l else linkOf s m := by
  unfold linkOf
  simp

@[simp] theorem domOf_setDom (s : State) (n m : Nat) (x : Domain) : domOf (setDom s n x) m = if m = n then x else domOf s m := by
  unfold domOf
  simp

@[simp] theorem sourceOf_setSource (s : State) (n m : Nat) (x : Source) : sourceOf (setSource s n x) m = if m = n then x else sourceOf s m := by
  unfold sourceOf
  simp

@[simp] theorem trigOf_setTrig (s : State) (n m : Nat) (x : Trigger) : trigOf (setTrig s n x) m = if m = n then x else trigOf s m := by
  unfold trigOf
  simp

@[simp] theorem pipeOf_setPipe (s : State) (n m : Nat) (x : Pipe) : pipeOf (setPipe s n x) m = if m = n then x else pipeOf s m := by
  unfold pipeOf
  simp

@[simp] theorem cprOf_setCpr (s : State) (n m : Nat) (x : Cpr) : cprOf (setCpr s n x) m = if m = n then x else cprOf s m := by
  unfold cprOf
  simp

/-! ### Hub commands -/

/-- The front command of a function's queue that Fragan may perform is answered as its body says. -/
theorem hubRun_front {s : State} {vi op : Nat} {pf : Bool} {masks : List Nat} {w : List W64} {rest : List (List W64)}
    (body : State → Nat → List W64 → HubAns) (hop : hubOps.contains op = true) (h : HubFront s vi op pf masks w rest) :
    hubRun op pf masks body vi s =
      match body (viUpd s vi fun x => { x with cmds := rest }) vi w with
      | .refuse st => .next (pushReply (viUpd s vi fun x => { x with cmds := rest }) vi (cmdReq w) st [])
      | .refuseIn s1 st => .next (pushReply s1 vi (cmdReq w) st [])
      | .done s1 rs => .next (pushReply s1 vi (cmdReq w) 0 rs)
      | .later s1 => .next s1 := by
  obtain ⟨hvi, hc, hb, hd, hr, ho, hm, hp, hf⟩ := h
  have h16 : ¬ 16 ≤ (viOf s vi).replies.length := by omega
  have hmin : (s.boot.minimal && op != 0x30 && op != 0x33) = false := by
    cases hmm : s.boot.minimal
    · rfl
    · rcases hm hmm with rfl | rfl <;> rfl
  have hpf : (pf && vi != 0) = false := by
    cases pf
    · rfl
    · rw [hp rfl]
      rfl
  unfold hubRun
  simp only [hvi, decide_true, onUnit_true, hc, ho, hb, hd, h16, decide_false, Bool.or_self, hmin, hop, hpf, hf, Bool.false_eq_true, if_false,
    Bool.not_true, ne_eq, not_true_eq_false]
  all_goals
    generalize body (viUpd s vi fun x => { x with cmds := rest }) vi w = a
    cases a <;> rfl

/-! ### Register accesses -/

theorem accessWrite_full {s : State} {path : Path} {page off pg : Nat} {whole : Bool} (v : W32)
    (h : reach s path page off whole true = .full pg) : accessWrite path page off whole v s = regWrite s pg off v := by
  unfold accessWrite
  rw [h]

/-- The row of a register with no field that software writes ignores what is written. -/
theorem regWrite_readOnly {s : State} {page off : Nat} {v : W32} {r : Reg} (hr : regRow page off = some r) (hw : writable r = false) :
    regWrite s page off v = s := by
  unfold regWrite
  simp [hr, hw]

theorem regWrite_unlisted {s : State} {page off : Nat} {v : W32} (hr : regRow page off = none) : regWrite s page off v = s := by
  unfold regWrite
  simp [hr]

end Sys2Proof.Machine
end

