-- ==== Sys2Proof/Laws/Group.lean ====
section
/-! SUPPORT. The registers of a thread group: what each reads as after each write, and what a write for each lane leaves. -/
namespace Sys2Proof.Machine

theorem lanesOf_mem {m : Mask} {l : Nat} : l ∈ lanesOf m ↔ l < 32 ∧ m.getLsbD l = true := by
  simp [lanesOf, lanes32, List.mem_filter, List.mem_range]

theorem lanes32_nodup : lanes32.Nodup := List.nodup_range

theorem lanesOf_nodup (m : Mask) : (lanesOf m).Nodup := List.Pairwise.filter _ lanes32_nodup

/-! ### Scalar, predicate and vector registers, flags and program counters -/

theorem sGet_sSet (g : Group) (r d : Nat) (v : W64) : sGet (sSet g d v) r = if r = d ∧ r ≠ 0 then v else sGet g r := by
  unfold sGet sSet
  by_cases hr : r = 0
  · simp [hr]
  · by_cases hd : d = 0
    · have : r ≠ d := fun h => hr (h.trans hd)
      simp [hr, hd]
    · simp only [hr, hd, if_false, tget_tset]
      by_cases h : r = d
      · simp [h, hd]
      · simp [h]

theorem pGet_pSet (g : Group) (r d : Nat) (v : Mask) : pGet (pSet g d v) r = if r = d ∧ r ≠ 0 then v else pGet g r := by
  unfold pGet pSet
  by_cases hr : r = 0
  · simp [hr]
  · by_cases hd : d = 0
    · have : r ≠ d := fun h => hr (h.trans hd)
      simp [hr, hd]
    · simp only [hr, hd, if_false, tget_tset]
      by_cases h : r = d
      · simp [h, hd]
      · simp [h]

theorem vGet_vSet (g : Group) (r d l t : Nat) (v : W64) (hl : l < 32) (ht : t < 32) :
    vGet (vSet g d t v) r l = if r = d ∧ l = t then v else vGet g r l := by
  unfold vGet vSet
  simp only [tget_tset]
  by_cases h : r = d ∧ l = t
  · rw [if_pos h, if_pos (by rw [h.1, h.2])]
  · rw [if_neg h, if_neg (by omega)]

theorem flagsGet_flagsOr (g : Group) (l t : Nat) (f : Flags) :
    flagsGet (flagsOr g t f) l = if l = t then flagsGet g l ||| f else flagsGet g l := by
  unfold flagsOr
  split
  · subst_vars
    split <;> simp
  · unfold flagsGet
    simp only [tget_tset]
    split
    · subst_vars
      rfl
    · rfl

theorem flagsGet_flagsClear (g : Group) (l t : Nat) (f : Flags) :
    flagsGet (flagsClear g t f) l = if l = t then flagsGet g l &&& ~~~ f else flagsGet g l := by
  unfold flagsClear flagsGet
  simp only [tget_tset]
  split
  · subst_vars
    rfl
  · rfl

theorem pcGet_pcSet (g : Group) (l t : Nat) (v : W64) : pcGet (pcSet g t v) l = if l = t then v else pcGet g l := by
  unfold pcGet pcSet
  simp only [tget_tset]

@[simp] theorem sSet_v (g : Group) (d : Nat) (v : W64) : (sSet g d v).v = g.v := by unfold sSet; split <;> rfl
@[simp] theorem sSet_p (g : Group) (d : Nat) (v : W64) : (sSet g d v).p = g.p := by unfold sSet; split <;> rfl
@[simp] theorem sSet_flags (g : Group) (d : Nat) (v : W64) : (sSet g d v).flags = g.flags := by unfold sSet; split <;> rfl
@[simp] theorem sSet_frm (g : Group) (d : Nat) (v : W64) : (sSet g d v).frm = g.frm := by unfold sSet; split <;> rfl
@[simp] theorem sSet_pc (g : Group) (d : Nat) (v : W64) : (sSet g d v).pc = g.pc := by unfold sSet; split <;> rfl
@[simp] theorem sSet_cb (g : Group) (d : Nat) (v : W64) : (sSet g d v).cb = g.cb := by unfold sSet; split <;> rfl
@[simp] theorem sSet_cvg (g : Group) (d : Nat) (v : W64) : (sSet g d v).cvg = g.cvg := by unfold sSet; split <;> rfl
@[simp] theorem sSet_exited (g : Group) (d : Nat) (v : W64) : (sSet g d v).exited = g.exited := by unfold sSet; split <;> rfl
@[simp] theorem pSet_s (g : Group) (d : Nat) (v : Mask) : (pSet g d v).s = g.s := by unfold pSet; split <;> rfl
@[simp] theorem pSet_v (g : Group) (d : Nat) (v : Mask) : (pSet g d v).v = g.v := by unfold pSet; split <;> rfl
@[simp] theorem pSet_flags (g : Group) (d : Nat) (v : Mask) : (pSet g d v).flags = g.flags := by unfold pSet; split <;> rfl
@[simp] theorem pSet_frm (g : Group) (d : Nat) (v : Mask) : (pSet g d v).frm = g.frm := by unfold pSet; split <;> rfl
@[simp] theorem pSet_pc (g : Group) (d : Nat) (v : Mask) : (pSet g d v).pc = g.pc := by unfold pSet; split <;> rfl
@[simp] theorem pSet_cb (g : Group) (d : Nat) (v : Mask) : (pSet g d v).cb = g.cb := by unfold pSet; split <;> rfl
@[simp] theorem pSet_cvg (g : Group) (d : Nat) (v : Mask) : (pSet g d v).cvg = g.cvg := by unfold pSet; split <;> rfl
@[simp] theorem pSet_exited (g : Group) (d : Nat) (v : Mask) : (pSet g d v).exited = g.exited := by unfold pSet; split <;> rfl
@[simp] theorem flagsOr_s (g : Group) (t : Nat) (f : Flags) : (flagsOr g t f).s = g.s := by unfold flagsOr; split <;> rfl
@[simp] theorem flagsOr_v (g : Group) (t : Nat) (f : Flags) : (flagsOr g t f).v = g.v := by unfold flagsOr; split <;> rfl
@[simp] theorem flagsOr_p (g : Group) (t : Nat) (f : Flags) : (flagsOr g t f).p = g.p := by unfold flagsOr; split <;> rfl
@[simp] theorem flagsOr_frm (g : Group) (t : Nat) (f : Flags) : (flagsOr g t f).frm = g.frm := by unfold flagsOr; split <;> rfl
@[simp] theorem flagsOr_pc (g : Group) (t : Nat) (f : Flags) : (flagsOr g t f).pc = g.pc := by unfold flagsOr; split <;> rfl
@[simp] theorem flagsOr_cb (g : Group) (t : Nat) (f : Flags) : (flagsOr g t f).cb = g.cb := by unfold flagsOr; split <;> rfl
@[simp] theorem flagsOr_cvg (g : Group) (t : Nat) (f : Flags) : (flagsOr g t f).cvg = g.cvg := by unfold flagsOr; split <;> rfl
@[simp] theorem flagsOr_exited (g : Group) (t : Nat) (f : Flags) : (flagsOr g t f).exited = g.exited := by
  unfold flagsOr; split <;> rfl

/-- The lanes of `m` take program counter `v`; every other lane keeps its own. -/
theorem pcGet_pcSetIn (g : Group) (m : Mask) (v : W64) (l : Nat) (hl : l < 32) :
    pcGet (pcSetIn g m v) l = if m.getLsbD l then v else pcGet g l := by
  have h : ∀ (ls : List Nat) (g : Group), pcGet (ls.foldl (fun g t => pcSet g t v) g) l = if l ∈ ls then v else pcGet g l := by
    intro ls
    induction ls with
    | nil => intro g; rfl
    | cons x xs ih =>
      intro g
      rw [List.foldl_cons, ih, pcGet_pcSet]
      by_cases h1 : l ∈ xs
      · simp [h1]
      · by_cases h2 : l = x
        · simp [h2]
        · simp [h1, h2]
  unfold pcSetIn
  rw [h]
  by_cases hm : m.getLsbD l
  · rw [if_pos (lanesOf_mem.mpr ⟨hl, hm⟩), if_pos hm]
  · rw [if_neg (fun hc => hm (lanesOf_mem.mp hc).2), if_neg hm]

/-- Moving program counters changes nothing else of a group. -/
theorem pcSetIn_eq (g : Group) (m : Mask) (v : W64) : pcSetIn g m v = { g with pc := (pcSetIn g m v).pc } := by
  have h : ∀ (ls : List Nat) (g : Group), ls.foldl (fun g t => pcSet g t v) g
      = { g with pc := (ls.foldl (fun g t => pcSet g t v) g).pc } := by
    intro ls
    induction ls with
    | nil => intro g; rfl
    | cons x xs ih => intro g; rw [List.foldl_cons, ih]; rfl
  exact h _ _

/-- What a write for each lane of a list leaves at one lane, when each write of lane `t` sets a value `val t` there and no other lane's. -/
theorem foldl_lane {γ : Type} (get : Group → Nat → γ) (f : Group → Nat → Group) (val : Nat → γ → γ)
    (h : ∀ g t l, t < 32 → l < 32 → get (f g t) l = if l = t then val t (get g l) else get g l) (ls : List Nat) (hn : ls.Nodup)
    (hb : ∀ t ∈ ls, t < 32) (g : Group) (l : Nat) (hl : l < 32) :
    get (ls.foldl f g) l = if l ∈ ls then val l (get g l) else get g l := by
  induction ls generalizing g with
  | nil => rfl
  | cons x xs ih =>
    obtain ⟨hx, hn'⟩ := List.nodup_cons.mp hn
    rw [List.foldl_cons, ih hn' (fun t ht => hb t (List.mem_cons_of_mem _ ht)), h g x l (hb x (List.mem_cons_self)) hl]
    by_cases h1 : l = x
    · subst h1
      simp [hx]
    · by_cases h2 : l ∈ xs
      · simp [h1, h2]
      · simp [h1, h2]

/-- A field that no lane's write changes stays. -/
theorem foldl_same {γ : Type} (get : Group → γ) (f : Group → Nat → Group) (h : ∀ g t, get (f g t) = get g) (ls : List Nat) (g : Group) :
    get (ls.foldl f g) = get g := by
  induction ls generalizing g with
  | nil => rfl
  | cons x xs ih => rw [List.foldl_cons, ih, h]

end Sys2Proof.Machine
end

