-- ==== Sys2Proof/Laws/Issue.lean ====
section
/-! SUPPORT. What one issue of an instruction does: the shell that every core instruction shares. -/
namespace Sys2Proof.Machine

theorem prepare_go {s : State} {p g : Nat} {w : InsnWord} {i : Iss} (h : prepare s p g w = .go i) :
    i.p = p ∧ i.g = g ∧ i.w = w ∧ groupOf s p g = some i.gr ∧ i.part = partMask i.gr w i.set := by
  unfold prepare at h
  split at h
  · cases h
  · rename_i gr hg
    split at h
    · split at h
      · cases h
      · dsimp only at h
        split at h
        · split at h
          · split at h <;> cases h
          · cases h
        · cases h
        · split at h
          · cases h
            exact ⟨rfl, rfl, rfl, hg, rfl⟩
          · cases h
    · cases h

/-- An issued instruction's outcome is that of its effect. -/
theorem issue_issued {s : State} {p g : Nat} {w : InsnWord} {legal : Group → InsnWord → Bool} {i : Iss}
    (h : Issued s p g w legal i) (cls : Nat) (body : Iss → State → Eff) :
    issue p g w cls legal body s = .next (finish s i cls (body i s)) := by
  obtain ⟨hp, hg, hprep, hl, hf⟩ := h
  unfold issue issueAt onUnit
  simp [hp, hg, hprep, hl, hf]

theorem after_s (i : Iss) (cls : Nat) (g : Group) : (afterIssue i cls (advance i g)).s = g.s := by
  show (advance i g).s = _; unfold advance; rw [pcSetIn_eq]
theorem after_v (i : Iss) (cls : Nat) (g : Group) : (afterIssue i cls (advance i g)).v = g.v := by
  show (advance i g).v = _; unfold advance; rw [pcSetIn_eq]
theorem after_p (i : Iss) (cls : Nat) (g : Group) : (afterIssue i cls (advance i g)).p = g.p := by
  show (advance i g).p = _; unfold advance; rw [pcSetIn_eq]
theorem after_flags (i : Iss) (cls : Nat) (g : Group) : (afterIssue i cls (advance i g)).flags = g.flags := by
  show (advance i g).flags = _; unfold advance; rw [pcSetIn_eq]
theorem after_frm (i : Iss) (cls : Nat) (g : Group) : (afterIssue i cls (advance i g)).frm = g.frm := by
  show (advance i g).frm = _; unfold advance; rw [pcSetIn_eq]
theorem after_cb (i : Iss) (cls : Nat) (g : Group) : (afterIssue i cls (advance i g)).cb = g.cb := by
  show (advance i g).cb = _; unfold advance; rw [pcSetIn_eq]
theorem after_cvg (i : Iss) (cls : Nat) (g : Group) : (afterIssue i cls (advance i g)).cvg = g.cvg := by
  show (advance i g).cvg = _; unfold advance; rw [pcSetIn_eq]
theorem after_exited (i : Iss) (cls : Nat) (g : Group) : (afterIssue i cls (advance i g)).exited = g.exited := by
  show (advance i g).exited = _; unfold advance; rw [pcSetIn_eq]

/-- The group's record after an instruction that only writes registers. -/
theorem moved_reg {s : State} {i : Iss} (cls : Nat) {g : Group} (hpc : g.pc = i.gr.pc) (hcb : g.cb = i.gr.cb) (hcvg : g.cvg = i.gr.cvg)
    (hex : g.exited = i.gr.exited) : Moved s (finish s i cls (.reg g)) i (afterIssue i cls (advance i g)) := by
  refine ⟨countOnly_pmcCore _ _ _ _, fun l hl => ?_, (after_cb i cls g).trans hcb, (after_cvg i cls g).trans hcvg,
    (after_exited i cls g).trans hex⟩
  show pcGet (advance i g) l = _
  unfold advance
  rw [pcGet_pcSetIn _ _ _ _ hl]
  unfold pcGet
  rw [hpc]

theorem sGet_congr {x y : Group} (h : x.s = y.s) (r : Nat) : sGet x r = sGet y r := by unfold sGet; rw [h]
theorem pGet_congr {x y : Group} (h : x.p = y.p) (r : Nat) : pGet x r = pGet y r := by unfold pGet; rw [h]
theorem vGet_congr {x y : Group} (h : x.v = y.v) (r l : Nat) : vGet x r l = vGet y r l := by unfold vGet; rw [h]
theorem flagsGet_congr {x y : Group} (h : x.flags = y.flags) (l : Nat) : flagsGet x l = flagsGet y l := by unfold flagsGet; rw [h]

/-- A result written once into a scalar register. -/
theorem writesScalar_once {s : State} {p g : Nat} {w : InsnWord} {legal : Group → InsnWord → Bool} {i : Iss}
    (h : Issued s p g w legal i) (cls : Nat) (d : Nat) (v : W64) (f : Iss → Group) (hf : f i = sSet i.gr d v) :
    WritesScalar (issue p g w cls legal (once f) s) s i d v := by
  refine ⟨_, issue_issued h cls _, ?_⟩
  by_cases hpart : i.part = 0
  · rw [once, if_pos hpart]
    refine ⟨_, moved_reg cls rfl rfl rfl rfl, after_v i cls _, after_p i cls _, after_flags i cls _, after_frm i cls _, fun r => ?_⟩
    rw [if_neg (fun hc => hc.2.2 hpart)]
    exact sGet_congr (after_s i cls _) r
  · rw [once, if_neg hpart, hf]
    refine ⟨_, moved_reg cls (sSet_pc _ _ _) (sSet_cb _ _ _) (sSet_cvg _ _ _) (sSet_exited _ _ _), (after_v i cls _).trans (sSet_v _ _ _),
      (after_p i cls _).trans (sSet_p _ _ _), (after_flags i cls _).trans (sSet_flags _ _ _), (after_frm i cls _).trans (sSet_frm _ _ _),
      fun r => ?_⟩
    rw [sGet_congr (y := sSet i.gr d v) (after_s i cls _) r, sGet_sSet]
    by_cases hr : r = d ∧ r ≠ 0
    · rw [if_pos hr, if_pos ⟨hr.1, hr.2, hpart⟩]
    · rw [if_neg hr, if_neg (fun hc => hr ⟨hc.1, hc.2.1⟩)]

/-- A result for each participating lane, written by `val` and `fl`. -/
theorem writesVector_perLane {s : State} {p g : Nat} {w : InsnWord} {legal : Group → InsnWord → Bool} {i : Iss}
    (h : Issued s p g w legal i) (cls : Nat) (d : Nat) (val : Nat → W64) (fl : Nat → Flags) (f : Iss → Group → Nat → Group)
    (hf : ∀ x t, f i x t = flagsOr (vSet x d t (val t)) t (fl t)) :
    WritesVector (issue p g w cls legal (perLane f) s) s i d val fl := by
  refine ⟨_, issue_issued h cls _, ?_⟩
  have hfun : f i = fun x t => flagsOr (vSet x d t (val t)) t (fl t) := funext fun x => funext fun t => hf x t
  have hnd := lanesOf_nodup i.part
  have hb : ∀ t ∈ lanesOf i.part, t < 32 := fun t ht => (lanesOf_mem.mp ht).1
  unfold perLane
  have key : ∀ {γ : Type} (get : Group → γ), (∀ x t, get (f i x t) = get x) → get ((lanesOf i.part).foldl (fun g t => f i g t) i.gr) = get i.gr :=
    fun get hg => foldl_same get _ hg _ _
  refine ⟨_, moved_reg cls ?_ ?_ ?_ ?_, (after_s i cls _).trans ?_, (after_p i cls _).trans ?_, (after_frm i cls _).trans ?_, ?_, ?_⟩
  · exact key Group.pc (fun x t => by rw [hf]; exact flagsOr_pc _ _ _)
  · exact key Group.cb (fun x t => by rw [hf]; exact flagsOr_cb _ _ _)
  · exact key Group.cvg (fun x t => by rw [hf]; exact flagsOr_cvg _ _ _)
  · exact key Group.exited (fun x t => by rw [hf]; exact flagsOr_exited _ _ _)
  · exact key Group.s (fun x t => by rw [hf]; exact flagsOr_s _ _ _)
  · exact key Group.p (fun x t => by rw [hf]; exact flagsOr_p _ _ _)
  · exact key Group.frm (fun x t => by rw [hf]; exact flagsOr_frm _ _ _)
  · intro r l hl
    rw [vGet_congr (after_v i cls _) r l, hfun]
    by_cases hr : r = d
    · subst hr
      rw [foldl_lane (fun x l => vGet x r l) _ (fun t _ => val t) ?_ _ hnd hb _ l hl]
      · by_cases hm : i.part.getLsbD l
        · rw [if_pos (lanesOf_mem.mpr ⟨hl, hm⟩), if_pos ⟨rfl, hm⟩]
        · rw [if_neg (fun hc => hm (lanesOf_mem.mp hc).2), if_neg (fun hc => hm hc.2)]
      · intro x t l ht hl
        show vGet (flagsOr _ t _) r l = _
        rw [vGet_congr (flagsOr_v _ _ _), vGet_vSet _ _ _ _ _ _ hl ht]
        simp
    · rw [if_neg (fun hc => hr hc.1)]
      have : ∀ (ls : List Nat) (x : Group), (∀ t ∈ ls, t < 32) →
          vGet (ls.foldl (fun x t => flagsOr (vSet x d t (val t)) t (fl t)) x) r l = vGet x r l := by
        intro ls
        induction ls with
        | nil => intro x _; rfl
        | cons t ts ih =>
          intro x hb
          rw [List.foldl_cons, ih _ (fun t ht => hb t (List.mem_cons_of_mem _ ht)), vGet_congr (flagsOr_v _ _ _),
            vGet_vSet _ _ _ _ _ _ hl (hb t (List.mem_cons_self)), if_neg (fun hc => hr hc.1)]
      exact this _ _ hb
  · intro l hl
    rw [flagsGet_congr (after_flags i cls _) l, hfun]
    rw [foldl_lane flagsGet _ (fun t y => y ||| fl t) ?_ _ hnd hb _ l hl]
    · by_cases hm : i.part.getLsbD l
      · rw [if_pos (lanesOf_mem.mpr ⟨hl, hm⟩), if_pos hm]
      · rw [if_neg (fun hc => hm (lanesOf_mem.mp hc).2), if_neg hm]
    · intro x t l ht hl
      rw [flagsGet_flagsOr]
      by_cases h2 : l = t
      · subst h2
        simp only [if_pos]
        rfl
      · rw [if_neg h2, if_neg h2]
        rfl

/-- An elementwise result. -/
theorem writesElements_elementwise {s : State} {p g : Nat} {w : InsnWord} {legal : Group → InsnWord → Bool} {i : Iss}
    (h : Issued s p g w legal i) (cls : Nat) (f : Iss → Nat → Nat → Nat × Flags) :
    WritesElements (issue p g w cls legal (elementwise f) s) s i (f i) := by
  unfold WritesElements elementwise
  refine writesVector_perLane h cls _ _ _ _ (fun x t => ?_)
  unfold laneWrite laneValue laneFlags
  rw [List.map_map]
  rfl

/-- A predicate written for each participating lane. -/
theorem writesPredicate_set {s : State} {p g : Nat} {w : InsnWord} {legal : Group → InsnWord → Bool} {i : Iss}
    (h : Issued s p g w legal i) (cls : Nat) (d : Nat) (v : Mask) (body : Iss → State → Eff)
    (hb : body i s = .reg (pSetIn i.gr d i.part v)) : WritesPredicate (issue p g w cls legal body s) s i d v := by
  refine ⟨_, issue_issued h cls _, ?_⟩
  rw [hb]
  refine ⟨_, moved_reg cls (pSet_pc _ _ _) (pSet_cb _ _ _) (pSet_cvg _ _ _) (pSet_exited _ _ _), (after_v i cls _).trans (pSet_v _ _ _),
    (after_s i cls _).trans (pSet_s _ _ _), (after_flags i cls _).trans (pSet_flags _ _ _), (after_frm i cls _).trans (pSet_frm _ _ _),
    fun r => ?_⟩
  rw [pGet_congr (after_p i cls _) r]
  unfold pSetIn
  rw [pGet_pSet]
  by_cases hr : r = d ∧ r ≠ 0
  · rw [if_pos hr, if_pos hr, hr.1]
  · rw [if_neg hr, if_neg hr]

end Sys2Proof.Machine
end

