-- ==== Sys2Proof/Tests/Slice0.lean ====
section
/-! SUPPORT. Tests: what WellFormed refuses, results that the spec's tables and examples give, and for each statement a state and operands
that meet its hypotheses (`witness_…`). -/
namespace Sys2Proof.Tests
set_option Elab.async false
open Sys2Proof Sys2Proof.Machine

/-! ### A core with one group -/

/-- A group of 32 threads at 0x1000 with s2 = 0x10, s3 = 7 and each lane's v2 its own address in the local store. -/
def grp : Group :=
  { job := 0, index := 0, age := 7, vregs := 8, s := [(2, 0x10), (3, 7)]
    v := (List.range 31).map fun t => (65 + t, BitVec.ofNat 64 (8 * (t + 1))), pc := (List.range 32).map fun t => (t, 0x1000) }

/-- A KERNEL job that may use the whole local store. -/
def job : Job :=
  { queue := 0, ctx := 0, seq := 1, words := [0x0100000000000001, 0, 0, 0, 0, 0, 1, 0x100000], phase := .running, cores := [0]
    groups := 1, liveGroups := 2, nextGroup := 1 }

/-- Core 0 with the group in slot 0, its code line held, and pages 0 and 1 of its address space translated. -/
def core (g : Group) : Core :=
  { groups := [(0, g)], order := [0], jobs := [0], icache := [(1, 32)]
    tlb1 := [{ tag := 1, vpn := 0, pages := 1, ppn := 8, attr := 0xFF, level := 0 }, { tag := 1, vpn := 1, pages := 1, ppn := 5, attr := 0xFF, level := 0 }] }

/-- The device with that core, the job and its context. -/
def dev (c : Core) : State :=
  { State.reset with jobs := [(0, job)], contexts := [(0, { vi := 0, part := 0, tag := 1 })], cores := [(0, c)] }

/-- The device with the group, and what an instruction word is about to do there. -/
def at0 (g : Group) : State := dev (core g)
def go (s : State) (w : InsnWord) : Iss :=
  match prepare s 0 0 w with
  | .go i => i
  | _ => { p := 0, g := 0, gr := grp, job := 0, tag := 0, set := 0, pc := 0, part := 0, w }
def runs (s : State) (w : InsnWord) (legal : Group → InsnWord → Bool) : Bool :=
  match prepare s 0 0 w with
  | .go i => legal i.gr w && decide (w.flaw ≠ .register)
  | _ => false

theorem issued {s : State} {w : InsnWord} {legal : Group → InsnWord → Bool} (h : runs s w legal = true) :
    Issued s 0 0 w legal (go s w) := by
  unfold runs at h
  unfold go
  cases hp : prepare s 0 0 w with
  | idle => simp [hp] at h
  | stop t => simp [hp] at h
  | go i =>
    simp only [hp, Bool.and_eq_true, decide_eq_true_eq] at h
    exact ⟨by decide, by decide, hp, h.1, h.2⟩

/-- The group's record after an instruction, and a scalar register, a lane's vector register and the flags of it. -/
def after (o : Out) : Group :=
  match o with
  | .next t => (groupOf t 0 0).getD grp
  | _ => grp
def sAfter (i : Instr) (r : Nat) : W64 := sGet (after (exec i (at0 grp))) r

def rrr (d a b c : BitVec 7) (md : BitVec 24) : InsnWord := { d, a, b, c, md }

/-! ### Core instructions -/

theorem witness_ScalarInstructions :
    Issued (at0 grp) 0 0 (rrr 1 2 3 0 0) sbinLegal (go (at0 grp) (rrr 1 2 3 0 0))
    ∧ Issued (at0 grp) 0 0 (rrr 1 2 0 0 0) sunLegal (go (at0 grp) (rrr 1 2 0 0 0))
    ∧ Issued (at0 grp) 0 0 (rrr 1 0 0 0 5) smoviLegal (go (at0 grp) (rrr 1 0 0 0 5))
    ∧ Issued (at0 grp) 0 0 (rrr 1 2 0 0 5) scatiLegal (go (at0 grp) (rrr 1 2 0 0 5))
    ∧ Issued (at0 grp) 0 0 (rrr 1 0 0 0 0) sballotLegal (go (at0 grp) (rrr 1 0 0 0 0))
    ∧ Issued (at0 grp) 0 0 (rrr 1 2 3 0 0x20000) vextLegal (go (at0 grp) (rrr 1 2 3 0 0x20000))
    ∧ (∀ k : Fin 7, Issued (at0 grp) 0 0 (rrr 1 0 0 0 (BitVec.ofNat 24 k)) srdLegal (go (at0 grp) (rrr 1 0 0 0 (BitVec.ofNat 24 k))))
    ∧ logicalOf (at0 grp) 0 = some 0
    ∧ Issued (at0 grp) 0 0 (rrr 0 0 0 0 7) sfrmLegal (go (at0 grp) (rrr 0 0 0 0 7))
    ∧ (∀ k : Fin 6, Issued (at0 grp) 0 0 (rrr 1 2 3 0 (BitVec.ofNat 24 (k * 0x100000))) scmpLegal (go (at0 grp) (rrr 1 2 3 0 (BitVec.ofNat 24 (k * 0x100000)))))
    ∧ Issued (at0 grp) 0 0 (rrr 1 2 3 0 0) pbinLegal (go (at0 grp) (rrr 1 2 3 0 0))
    ∧ Issued (at0 grp) 0 0 (rrr 1 2 0 0 0) pnotLegal (go (at0 grp) (rrr 1 2 0 0 0))
    ∧ Issued (at0 grp) 0 0 (rrr 1 2 0 0 0) pmovsLegal (go (at0 grp) (rrr 1 2 0 0 0)) := by
  refine ⟨issued ?_, issued ?_, issued ?_, issued ?_, issued ?_, issued ?_, fun k => issued ?_, ?_, issued ?_, fun k => issued ?_, issued ?_, issued ?_, issued ?_⟩
  case refine_7 => revert k; decide +kernel
  case refine_10 => revert k; decide +kernel
  all_goals decide +kernel

/-- INT32 words of VADD, VAND, VMULH, VMIN, VABS, VSEL and VMOV; the six codes of VCMP, with element 1 and with any element as destination; the
seven of VFCMP; VSHFL, VFLG and VFLGC. -/
theorem witness_VectorOperations :
    Issued (at0 grp) 0 0 (rrr 1 2 3 0 0x120000) (vbinLegal true) (go (at0 grp) (rrr 1 2 3 0 0x120000))
    ∧ Issued (at0 grp) 0 0 (rrr 1 2 3 0 0xA0000) (vbinLegal false) (go (at0 grp) (rrr 1 2 3 0 0xA0000))
    ∧ Issued (at0 grp) 0 0 (rrr 1 2 3 0 0x51000) (vsubLegal false) (go (at0 grp) (rrr 1 2 3 0 0x51000))
    ∧ Issued (at0 grp) 0 0 (rrr 1 2 3 0 0x21000) (vsubLegal true) (go (at0 grp) (rrr 1 2 3 0 0x21000))
    ∧ Issued (at0 grp) 0 0 (rrr 1 2 0 0 0x120000) vabsLegal (go (at0 grp) (rrr 1 2 0 0 0x120000))
    ∧ Issued (at0 grp) 0 0 (rrr 1 2 3 4 0x20000) vselLegal (go (at0 grp) (rrr 1 2 3 4 0x20000))
    ∧ Issued (at0 grp) 0 0 (rrr 1 0 3 0 0xA0000) vmovLegal (go (at0 grp) (rrr 1 0 3 0 0xA0000))
    ∧ (∀ k : Fin 6, Issued (at0 grp) 0 0 (rrr 1 2 3 0 (BitVec.ofNat 24 (0x20000 + k * 0x1000))) vcmpLegal (go (at0 grp) (rrr 1 2 3 0 (BitVec.ofNat 24 (0x20000 + k * 0x1000)))))
    ∧ (∀ k : Fin 3, Issued (at0 grp) 0 0 (rrr 1 2 3 0 (BitVec.ofNat 24 (0x20080 + [1, 8, 9][k] * 0x100))) vcmpLegal (go (at0 grp) (rrr 1 2 3 0 (BitVec.ofNat 24 (0x20080 + [1, 8, 9][k] * 0x100)))))
    ∧ (∀ k : Fin 7, Issued (at0 grp) 0 0 (rrr 1 2 3 0 (BitVec.ofNat 24 (k * 0x1000))) vfcmpLegal (go (at0 grp) (rrr 1 2 3 0 (BitVec.ofNat 24 (k * 0x1000)))))
    ∧ Issued (at0 grp) 0 0 (rrr 1 2 3 0 0x20000) vshflLegal (go (at0 grp) (rrr 1 2 3 0 0x20000))
    ∧ Issued (at0 grp) 0 0 (rrr 1 0 0 0 0x20000) vflgLegal (go (at0 grp) (rrr 1 0 0 0 0x20000))
    ∧ Issued (at0 grp) 0 0 (rrr 0 0 0 0 0x3F) vflgcLegal (go (at0 grp) (rrr 0 0 0 0 0x3F)) := by
  refine ⟨issued ?_, issued ?_, issued ?_, issued ?_, issued ?_, issued ?_, issued ?_, fun k => issued ?_, fun k => issued ?_, fun k => issued ?_, issued ?_,
    issued ?_, issued ?_⟩
  case refine_8 => revert k; decide +kernel
  case refine_9 => revert k; decide +kernel
  case refine_10 => revert k; decide +kernel
  all_goals decide +kernel

theorem witness_FloatArithmetic :
    rmOf grp.frm (mRM (rrr 1 2 3 0 0x200000)) = some .even
    ∧ Issued (at0 grp) 0 0 (rrr 1 2 3 0 0x200000) (vf2Legal true) (go (at0 grp) (rrr 1 2 3 0 0x200000))
    ∧ Issued (at0 grp) 0 0 (rrr 1 2 3 4 0xA10000) vf3Legal (go (at0 grp) (rrr 1 2 3 4 0xA10000))
    ∧ Issued (at0 grp) 0 0 (rrr 1 2 0 0 0) (vf1Legal true false) (go (at0 grp) (rrr 1 2 0 0 0))
    ∧ Issued (at0 grp) 0 0 (rrr 1 2 0 0 0x1000) (vf1Legal true true) (go (at0 grp) (rrr 1 2 0 0 0x1000))
    ∧ Issued (at0 grp) 0 0 (rrr 1 2 3 0 0) (vf2Legal false) (go (at0 grp) (rrr 1 2 3 0 0))
    ∧ Issued (at0 grp) 0 0 (rrr 1 2 0 0 0) (vf1Legal false false) (go (at0 grp) (rrr 1 2 0 0 0)) := by
  refine ⟨?_, issued ?_, issued ?_, issued ?_, issued ?_, issued ?_, issued ?_⟩ <;> decide +kernel

/-- 1, 2 and 3 in binary32, and a weight below theirs. -/
theorem witness_FiniteResultsRoundOnce :
    decodeF binary32 0x3F800000 = .fin false 0x800000 (-23) ∧ decodeF binary32 0x40000000 = .fin false 0x800000 (-22)
    ∧ decodeF binary32 0x40400000 = .fin false 0xC00000 (-22) ∧ (-46 : Int) ≤ -23 ∧ (-46 : Int) ≤ -23 + -22 := by decide +kernel

theorem witness_FiniteEncodingsRoundTrip :
    decodeF sf8b 0x7B = .fin false 7 13 ∧ 0x7B < 2 ^ sf8b.width ∧ decodeF binary16 0x8001 = .fin true 1 (-24) := by decide +kernel

theorem witness_SpecialAndConversions :
    Issued (at0 grp) 0 0 (rrr 1 2 0 0 0x10000) spLegal (go (at0 grp) (rrr 1 2 0 0 0x10000))
    ∧ Issued (at0 grp) 0 0 (rrr 1 2 0 0 0x201200) vcvtLegal (go (at0 grp) (rrr 1 2 0 0 0x201200))
    ∧ cTypeOf (mSRC (rrr 1 2 0 0 0x201200)) = some (.float binary32) ∧ cTypeOf (mDST (rrr 1 2 0 0 0x201200)) = some (.float binary16)
    ∧ Issued (at0 grp) 0 0 (rrr 1 2 0 0 0x10000) vpk4Legal (go (at0 grp) (rrr 1 2 0 0 0x10000))
    ∧ Issued (at0 grp) 0 0 (rrr 1 2 0 0 0x1000) vupk4Legal (go (at0 grp) (rrr 1 2 0 0 0x1000)) := by
  refine ⟨issued ?_, issued ?_, ?_, ?_, issued ?_, issued ?_⟩ <;> decide +kernel

/-- A group whose lanes 0-3 have stopped at CVG.WAIT cb1, which names lanes 0-7, while the rest go on at 0x1000. -/
def splitGrp : Group :=
  { grp with cb := [(1, 0xFF)], cvg := [(1, 0x0F)], pc := (List.range 32).map fun t => (t, if t < 4 then 0x1008 else 0x1000) }

theorem witness_ThreadControl :
    Issued (at0 grp) 0 0 (rrr 0 0 0 0 0) bareLegal (go (at0 grp) (rrr 0 0 0 0 0))
    ∧ Issued (at0 grp) 0 0 (rrr 0 0 0 0 4) braLegal (go (at0 grp) (rrr 0 0 0 0 4))
    ∧ (Issued (at0 grp) 0 0 (rrr 0 2 0 0 0) brrLegal (go (at0 grp) (rrr 0 2 0 0 0)) ∧ (sGet (go (at0 grp) (rrr 0 2 0 0 0)).gr 2).toNat % 8 = 0)
    ∧ (Issued (at0 grp) 0 0 (rrr 0 3 0 0 0) brrLegal (go (at0 grp) (rrr 0 3 0 0 0)) ∧ (go (at0 grp) (rrr 0 3 0 0 0)).part ≠ 0
        ∧ (sGet (go (at0 grp) (rrr 0 3 0 0 0)).gr 3).toNat % 8 ≠ 0)
    ∧ Issued (at0 grp) 0 0 (rrr 1 0 0 0 0xFFFFFF) callLegal (go (at0 grp) (rrr 1 0 0 0 0xFFFFFF))
    ∧ (Issued (at0 splitGrp) 0 0 (rrr 1 0 0 0 0) cvgSetLegal (go (at0 splitGrp) (rrr 1 0 0 0 0)) ∧ cvgGet (go (at0 splitGrp) (rrr 1 0 0 0 0)).gr 1 ≠ 0)
    ∧ (let i := go (at0 splitGrp) (rrr 0 1 0 0 0)
       Issued (at0 splitGrp) 0 0 (rrr 0 1 0 0 0) cvgWaitLegal i ∧ cvgGet i.gr 1 ||| (i.set &&& cbGet i.gr 1) ≠ 0
       ∧ cbGet i.gr 1 &&& ~~~ (cvgGet i.gr 1 ||| (i.set &&& cbGet i.gr 1)) = 0)
    ∧ (let i := go (at0 grp) (rrr 0 1 0 0 0)
       Issued (at0 grp) 0 0 (rrr 0 1 0 0 0) cvgWaitLegal i ∧ cvgGet i.gr 1 ||| (i.set &&& cbGet i.gr 1) = 0)
    ∧ (let i := go (at0 splitGrp) (rrr 0 0 0 0 0)
       Issued (at0 splitGrp) 0 0 (rrr 0 0 0 0 0) bareLegal i ∧ alive i.gr &&& ~~~ i.part ≠ 0 ∧ (∀ m < 4, m ≠ 1 → cvgGet i.gr m = 0)
       ∧ cvgGet i.gr 1 ≠ 0 ∧ cbGet i.gr 1 &&& ~~~ i.part &&& ~~~ cvgGet i.gr 1 = 0)
    ∧ (let i := go (at0 grp) (rrr 0 0 0 0 0)
       alive i.gr &&& ~~~ i.part = 0 ∧ i.gr.semas = [] ∧ (∀ n < 4, cvgGet i.gr n = 0) ∧ jobOf (at0 grp) i.job = some job ∧ 1 < job.liveGroups) := by
  refine ⟨issued ?_, issued ?_, ⟨issued ?_, ?_⟩, ⟨issued ?_, ?_, ?_⟩, issued ?_, ⟨issued ?_, ?_⟩, ⟨issued ?_, ?_⟩, ⟨issued ?_, ?_⟩, ⟨issued ?_, ?_⟩, ?_⟩ <;> decide +kernel

/-- What an exception finds: the group, its running job, its LIVE context without a service graph, and no record held. -/
theorem witness_Exceptions :
    prepare (at0 grp) 0 0 { pred := 1 } = .go (go (at0 grp) { pred := 1 }) ∧ groupOf (at0 grp) 0 0 = some grp ∧ jobOf (at0 grp) grp.job = some job
    ∧ job.phase = .running ∧ ctxOf (at0 grp) job.ctx = some { vi := 0, part := 0, tag := 1 } ∧ stageOf (at0 grp) job.ctx = none
    ∧ infoHeld (at0 grp) (pgCore 0) 0x110 = false
    ∧ bareLegal grp (rrr 1 0 0 0 0) = false ∧ prepare (at0 grp) 0 0 (rrr 1 0 0 0 0) = .go (go (at0 grp) (rrr 1 0 0 0 0))
    ∧ prepare (at0 grp) 0 0 { flaw := .register } = .go (go (at0 grp) { flaw := .register }) ∧ (go (at0 grp) { flaw := .register }).part ≠ 0
    ∧ (Issued (at0 grp) 0 0 { neg := true } bareLegal (go (at0 grp) { neg := true }) ∧ (go (at0 grp) { neg := true }).part = 0)
    ∧ (let s := rset (at0 grp) (pgCore 0) 0x110 0x80000000
       Issued s 0 0 {} bareLegal (go s {}) ∧ (go s {}).part ≠ 0 ∧ infoHeld s (pgCore 0) 0x110 = true) := by
  refine ⟨rfl, rfl, rfl, rfl, rfl, rfl, ?_, ?_, rfl, rfl, ?_, ⟨issued ?_, ?_⟩, issued ?_, ?_, ?_⟩ <;> decide +kernel

theorem witness_ConvergenceFieldCheck :
    prepare (at0 grp) 0 0 { d := 1, pred := 1 } = .go (go (at0 grp) { d := 1, pred := 1 }) ∧ ({ d := 1, pred := 1 } : InsnWord).pred ≠ 0 := ⟨rfl, by decide⟩
/-! ### Memory, streams and synchronisation -/

/-- Words of a load and a store of SIZE 4, on the local store and on device memory. -/
def onLs : InsnWord := rrr 1 2 0 0 0x90000
def onDev : InsnWord := rrr 1 2 0 0 0x80000
def putLs : InsnWord := rrr 0 2 0 3 0x90000
def putDev : InsnWord := rrr 0 2 0 3 0x80000

/-- The core with NC_BYPASS, and with the two lines that the group's lanes address in the near cache. -/
def bypassing : State := dev { core grp with cfg := 0x10000 }
def holding : State := dev { core grp with near := [(0, { valid := true, tag := 2, bytes := [] }), (8, { valid := true, tag := 2, bytes := [] })] }

theorem witness_AccessChecks :
    (6 : W64).toNat % mSIZE (go (at0 grp) onLs).w ≠ 0
    ∧ (jobOf (at0 grp) (go (at0 grp) onLs).job = some job ∧ mSPACE (go (at0 grp) onLs).w = true ∧ inRanges (jobRanges job) (0x400000 : W64).toNat 4 = false
        ∧ inRanges (jobRanges job) (0x3FFFC : W64).toNat 4 = true)
    ∧ (mSPACE (go (at0 grp) onDev).w = false ∧ (0x1000000000000 : W64).toNat % mSIZE (go (at0 grp) onDev).w = 0)
    ∧ (let e : TlbEntry := { tag := 1, vpn := 0, pages := 1, ppn := 8, attr := 0xFF, level := 0 }
       tlbFind (coreOf (at0 grp) 0) 1 0xFFC = some e ∧ grants e.attr .r = true ∧ (e.ppn + (0xFFC / 4096 - e.vpn)) * 4096 + 0xFFC % 4096 < 0x100000000000)
    ∧ (let e : TlbEntry := { tag := 1, vpn := 0, pages := 1, ppn := 8, attr := 0x0B, level := 0 }
       tlbFind (coreOf (dev { core grp with tlb1 := [e] }) 0) 1 0xFFC = some e ∧ grants e.attr .w = false) := by decide +kernel

theorem witness_LoadsAndStores :
    (let i := go (at0 grp) onLs
     Issued (at0 grp) 0 0 onLs vldLegal i ∧ Passes i (at0 grp) false .r (fun l => .ls (8 * l)) ∧ mSPACE onLs = true ∧ mdrnPending (at0 grp) 0 0 = false
     ∧ ∀ l ∈ lanesOf i.part, lsMulti (coreOf (at0 grp) 0) (8 * l) = false)
    ∧ (let i := go (at0 grp) onLs
       Issued (at0 grp) 0 0 onLs sldLegal i ∧ Passes i (at0 grp) true .r (fun _ => .ls 0x10) ∧ lsMulti (coreOf (at0 grp) 0) 0x10 = false)
    ∧ (let i := go bypassing onDev
       Issued bypassing 0 0 onDev vldLegal i ∧ Passes i bypassing false .r (fun l => .hbm (0x8000 + 8 * l) true) ∧ ncBypass bypassing 0 = true
       ∧ (∀ l ∈ lanesOf i.part, poisoned bypassing (0x8000 + 8 * l) = false)
       ∧ Issued bypassing 0 0 onDev sldLegal i ∧ Passes i bypassing true .r (fun _ => .hbm 0x8010 true))
    ∧ (let i := go holding onDev
       Issued holding 0 0 onDev vldLegal i ∧ Passes i holding false .r (fun l => .hbm (0x8000 + 8 * l) true) ∧ ncBypass holding 0 = false ∧ onDev.flaw = .clean
       ∧ (∀ l ∈ lanesOf i.part, heldByCore (coreOf holding 0) (0x8000 + 8 * l) (mSIZE onDev) = true)
       ∧ Issued holding 0 0 onDev sldLegal i ∧ Passes i holding true .r (fun _ => .hbm 0x8010 true))
    ∧ (let i := go (at0 grp) putLs
       Issued (at0 grp) 0 0 putLs vstLegal i ∧ Passes i (at0 grp) false .w (fun l => .ls (8 * l)) ∧ mSCOPE putLs < 2 ∧ openEntries (coreOf (at0 grp) 0) = []
       ∧ Issued (at0 grp) 0 0 putLs sstLegal i ∧ Passes i (at0 grp) true .w (fun _ => .ls 0x10))
    ∧ (let i := go (at0 grp) putDev
       Issued (at0 grp) 0 0 putDev vstLegal i ∧ Passes i (at0 grp) false .w (fun l => .hbm (0x8000 + 8 * l) true) ∧ openEntries (coreOf (at0 grp) 0) = []
       ∧ Issued (at0 grp) 0 0 putDev sstLegal i ∧ Passes i (at0 grp) true .w (fun _ => .hbm 0x8010 true)) := by
  refine ⟨⟨issued ?_, ?_, ?_⟩, ⟨issued ?_, ?_, ?_⟩, ⟨issued ?_, ?_, ?_, ?_, issued ?_, ?_⟩, ⟨issued ?_, ?_, ?_, ?_, ?_, issued ?_, ?_⟩,
    ⟨issued ?_, ?_, ?_, ?_, issued ?_, ?_⟩, ⟨issued ?_, ?_, ?_, issued ?_, ?_⟩⟩ <;> first | decide +kernel | (unfold Passes; decide +kernel)

theorem witness_StoredBytesAreRead :
    0x807C % 128 + [1, 2, 3, (4 : Byte)].length ≤ 128 ∧ ncBypass bypassing 0 = true ∧ ncBypass (at0 grp) 0 = false
    ∧ (openEntries (coreOf (at0 grp) 0)).length < 16 := by decide +kernel

/-- A device whose merging buffer holds one entry. -/
def merging : State := dev { core grp with merge := [{ serial := 4, line := 0x9000, bytes := [(0, 1)], mask := [0] }] }

theorem witness_AtomicsAndFences :
    ((4 : Nat) = 4 ∧ 0xFFFFFFFF < 2 ^ (8 * 4)) ∧ groupOf (at0 grp) 0 0 = some grp ∧ mSIZE (rrr 1 2 0 3 0x99000) = 4
    ∧ (let w := rrr 1 2 0 3 0x99000
       let i := go (at0 grp) w
       Issued (at0 grp) 0 0 w vatomLegal i ∧ Passes i (at0 grp) false .rw (fun l => .ls (8 * l)) ∧ (decide (2 ≤ mSCOPE w) && (mORD w == 2 || mORD w == 3)) = false
       ∧ ∀ l ∈ lanesOf i.part, lsMulti (coreOf (at0 grp) 0) (8 * l) = false)
    ∧ (let w := rrr 1 2 0 3 0xF80000
       let i := go (at0 grp) w
       Issued (at0 grp) 0 0 w vatomLegal i ∧ Passes i (at0 grp) false .rw (fun l => .hbm (0x8000 + 8 * l) true) ∧ NothingPending (at0 grp) 0 0 true
       ∧ (∀ l ∈ lanesOf i.part, poisoned (at0 grp) (0x8000 + 8 * l) = false ∧ ∀ e ∈ openEntries (coreOf (at0 grp) 0), e.line ≠ lineOf (0x8000 + 8 * l)))
    ∧ (let i := go (at0 grp) { md := 0xF00000 }
       Issued (at0 grp) 0 0 { md := 0xF00000 } fenceLegal i ∧ i.part ≠ 0 ∧ NothingPending (at0 grp) 0 0 true)
    ∧ (let i := go merging { md := 0x800000 }
       Issued merging 0 0 { md := 0x800000 } fenceLegal i ∧ i.part ≠ 0 ∧ 2 ≤ mSCOPE { md := 0x800000 } ∧ mORD { md := 0x800000 } ≠ 1
       ∧ i.gr.released = false ∧ (coreOf merging 0).merge ≠ []) := by
  refine ⟨by decide, rfl, by decide, ⟨issued ?_, ?_, ?_⟩, ⟨issued ?_, ?_, ?_, ?_⟩, ⟨issued ?_, ?_, ?_⟩, ⟨issued ?_, ?_⟩⟩ <;>
    first | decide +kernel | (unfold Passes; decide +kernel) | (unfold NothingPending; decide +kernel)


/-- The group with other values in s2 and s3. -/
def sg (x y : W64) : Group := { grp with s := [(2, x), (3, y)] }

/-- A descriptor of one row of 16 bytes from 0x8000 to 0x800 of the local store (R203), held at 0x400; and 16 transfers that fill a queue. -/
def descBytes : Tbl Byte := [(0x404, 1), (0x409, 0x80), (0x40E, 0x10), (0x411, 8), (0x416, 1), (0x418, 1), (0x41A, 1), (0x430, 0x10)]
def descWords : List W64 := readDesc { ls := descBytes } 0x400
def transfer (n : Nat) : Transfer := { seq := BitVec.ofNat 32 n, desc := descWords, job := 0, tag := 1 }
def streaming : State := dev { core (sg 0x400 0) with ls := descBytes }
def fullQueue : State := dev { core (sg 0x400 0) with ls := descBytes, eng := [(0, { queue := (List.range 16).map transfer, next := 16 })] }

/-- A group that waits with ticket `x`; engine 0 has transfer 5 at hand, has ended 4, and transfer 3 with cause 4. -/
def ticketed (x : W64) : State :=
  dev { core (sg x 0) with
    eng := [(0, { queue := [transfer 5], next := 6, last := 4, any := true, ended := [{ seq := 3, job := 0, cause := 4, addr := 0x8000 }] })] }

/-- Cadence source 47 at frame 9, line 4, or at sample 9, and the group that waits for `x`. -/
def sourced (kind state : Nat) (pos x : W64) : State :=
  { at0 (sg 47 x) with sources := [(47, { cfg := BitVec.ofNat 32 (kind * 2 ^ 29), pos, state })] }

theorem witness_StreamAndCadence :
    (let i := go streaming (rrr 1 2 0 0 0)
     Issued streaming 0 0 (rrr 1 2 0 0 0) strqLegal i ∧ i.part ≠ 0 ∧ jobOf streaming i.job = some job ∧ mdrnPending streaming 0 0 = false
     ∧ inRanges (jobRanges job) 0x400 64 = true ∧ (∀ k < 4, lsMulti (coreOf streaming 0) (0x400 + 16 * k) = false)
     ∧ descLegal (readDesc (coreOf streaming 0) 0x400) = true ∧ descOut (jobRanges job) (readDesc (coreOf streaming 0) 0x400) = none
     ∧ (engOf (coreOf streaming 0) 0).queue.length < 16 ∧ pkType job.words ≠ 2 ∧ (engOf (coreOf streaming 0) 0).failed = [])
    ∧ (let i := go fullQueue (rrr 1 2 0 0 0)
       Issued fullQueue 0 0 (rrr 1 2 0 0 0) strqLegal i ∧ 16 ≤ (engOf (coreOf fullQueue 0) 0).queue.length)
    ∧ Issued streaming 0 0 (rrr 1 0 0 0 0x300000) strsLegal (go streaming (rrr 1 0 0 0 0x300000))
    ∧ (∀ x ∈ [0x8000000000000000, 5, 4, 3, 0x80000006],
        let i := go (ticketed (BitVec.ofNat 64 x)) (rrr 1 2 0 0 7)
        Issued (ticketed (BitVec.ofNat 64 x)) 0 0 (rrr 1 2 0 0 7) strwLegal i ∧ i.part ≠ 0 ∧ i.set = alive i.gr)
    ∧ (let y := engOf (coreOf (ticketed 5) 0) 0
       2 ^ 31 ≤ (y.next - 1 - (0x80000005 : W32)).toNat ∧ (y.next - 1 - (5 : W32)).toNat < 2 ^ 31 ∧ (∃ t ∈ y.queue, t.seq = 5) ∧ y.any = true
       ∧ (∀ t ∈ y.queue, t.seq ≠ 4) ∧ (∀ f ∈ y.ended, f.seq ≠ 4) ∧ ∀ t ∈ y.queue, t.seq ≠ 3)
    ∧ (let s := sourced 1 1 (mkPos 9 4) (mkPos 9 5)
       let i := go s (rrr 1 2 3 0 7)
       Issued s 0 0 (rrr 1 2 3 0 7) cwaitLegal i ∧ i.part ≠ 0 ∧ i.set = alive i.gr ∧ cwaitStatus s 47 (mkPos 9 5) = none
       ∧ cwaitStatus s 47 (mkPos 9 4) = some 0)
    ∧ (srcKind (sourceOf (sourced 2 0 (mkPos 9 4) 0) 47) = 2 ∧ srcKind (sourceOf (sourced 2 0 (mkPos 9 4) 0) 46) = 0
       ∧ srcKind (sourceOf (sourced 5 0 9 0) 47) = 5 ∧ aheadBy 48 (posFrame (mkPos 9 4)) (posFrame (mkPos 8 4)) = true ∧ aheadBy 64 10 9 = true) := by
  refine ⟨⟨issued ?_, ?_, ?_⟩, ⟨issued ?_, ?_⟩, issued ?_, ?_, ?_, ⟨issued ?_, ?_⟩, ?_⟩
  case refine_7 => intro x hx; exact ⟨issued (by revert x; decide +kernel), by revert x; decide +kernel⟩
  all_goals decide +kernel

/-- A group that arrives at barrier 3 with the count of s2, where `slots` have arrived already; groups 0 and 1 are in their slots. -/
def barred (count : W64) (bars : Tbl Barrier) : State :=
  dev { core grp with groups := [(0, sg count 0), (1, { grp with block := .barrier 3 })], order := [0, 1], bars }

/-- Semaphore 0xFF of the context, and a group that names it. -/
def semad (x : Sema) (held : List Nat) : State := { at0 { sg 0xFF 0 with semas := held } with semas := [(0xFF, x)] }
def sema0 : Sema := { ctx := 0, short := true, shortNow := false, abandoned := true }

theorem witness_GroupSynchronisation :
    (∀ x ∈ [(0, []), (49, []), (48, []), (1, []), (2, [(3, { count := 3, job := 0, slots := [1] })]), (3, [(3, { count := 3, job := 0, slots := [1] })]),
        ((2 : W64), [(3, ({ count := 2, job := 0, slots := [1] } : Barrier))])],
      let s := barred x.1 x.2
      let i := go s (rrr 0 2 0 0 0x30000)
      Issued s 0 0 (rrr 0 2 0 0 0x30000) barLegal i ∧ i.part ≠ 0 ∧ i.set = alive i.gr ∧ mdrnPending s 0 0 = false)
    ∧ (logicalOf (semad sema0 []) 0 = some 0
       ∧ (let s := semad sema0 []
          let i := go s (rrr 1 2 0 0 9)
          Issued s 0 0 (rrr 1 2 0 0 9) semaLegal i ∧ i.part ≠ 0 ∧ i.set = alive i.gr ∧ semaFor s i.job 0xFF = some sema0 ∧ sema0.holder = none)
       ∧ semaFor (semad sema0 []) 0 0xFE = none
       ∧ (let x : Sema := { sema0 with holder := some (1, 0) }
          let s := semad x []
          let i := go s (rrr 1 2 0 0 9)
          Issued s 0 0 (rrr 1 2 0 0 9) semaLegal i ∧ semaFor s i.job 0xFF = some x ∧ (1, 0) ≠ (0, 0) ∧ holderJob s 0xFF = none)
       ∧ (let x : Sema := { sema0 with holder := some (0, 0) }
          let s := semad x [0xFF]
          let i := go s (rrr 0 2 0 0 0)
          Issued s 0 0 (rrr 0 2 0 0 0) semrLegal i ∧ semaFor s i.job 0xFF = some x ∧ 0xFF ∈ i.gr.semas ∧ (coreOf s 0).merge = [] ∧ x.waiters = [])
       ∧ Issued (semad sema0 []) 0 0 (rrr 0 2 0 0 0) semrLegal (go (semad sema0 []) (rrr 0 2 0 0 0))) := by
  refine ⟨?_, ?_, ⟨issued ?_, ?_⟩, ?_, ⟨issued ?_, ?_⟩, ⟨issued ?_, ?_⟩, issued ?_⟩
  case refine_1 => intro x hx; exact ⟨issued (by revert x; decide +kernel), by revert x; decide +kernel⟩
  all_goals decide +kernel

/-- Fence slot 0xFFFF with state `st` and value 5, of the group's context or of another. -/
def fenced (own : Nat) (st : BitVec 2) (v : W64) : State := { at0 (sg 0xFFFF v) with fences := [(0xFFFF, { owner := own, value := 5, state := st })] }

theorem witness_FenceInstructions :
    tfind (fenced 0 0 5).fences 0xFFFF = some { owner := 0, value := 5 } ∧ tfind (fenced 0 0 5).fences 1 = none
    ∧ (let i := go (fenced 0 0 6) (rrr 1 2 3 0 0xC00000)
       Issued (fenced 0 0 6) 0 0 (rrr 1 2 3 0 0xC00000) fsigLegal i ∧ i.part ≠ 0 ∧ granted (fenced 0 0 6) 0xFFFF (jobCtx (fenced 0 0 6) i.job) = true
       ∧ NothingPending (fenced 0 0 6) 0 0 true ∧ i.gr.block = .none)
    ∧ (let i := go (fenced 1 0 6) (rrr 1 2 3 0 0xC00000)
       Issued (fenced 1 0 6) 0 0 (rrr 1 2 3 0 0xC00000) fsigLegal i ∧ granted (fenced 1 0 6) 0xFFFF (jobCtx (fenced 1 0 6) i.job) = false)
    ∧ (∀ x ∈ [(0, 5), (0, 6), (1, 6), (2, 0), (3, 0)],
        let s := fenced 0 (BitVec.ofNat 2 x.1) (BitVec.ofNat 64 x.2)
        let i := go s (rrr 1 2 3 0 0x800005)
        Issued s 0 0 (rrr 1 2 3 0 0x800005) fwaitLegal i ∧ i.part ≠ 0 ∧ i.set = alive i.gr ∧ granted s 0xFFFF (jobCtx s i.job) = true)
    ∧ slotStatus (fenced 0 0 6) 0xFFFF 6 = none ∧ slotStatus (fenced 0 0 6) 0xFFFF 5 = some 0
    ∧ granted (fenced 1 0 6) 0xFFFF (jobCtx (fenced 1 0 6) 0) = false := by
  refine ⟨by decide, by decide, ⟨issued ?_, ?_, ?_, ?_, ?_⟩, ⟨issued ?_, ?_⟩, ?_, ?_, ?_, ?_⟩
  case refine_8 => intro x hx; exact ⟨issued (by revert x; decide +kernel), by revert x; decide +kernel⟩
  all_goals first | decide +kernel | (unfold NothingPending; decide +kernel)

/-- A group that waits in `b` with 5 µs to go. -/
def waitingIn (b : Block) : State := at0 { grp with block := b, deadline := some 5000 }

theorem witness_WaitsEnd :
    (∀ b ∈ [Block.strw 3 7 1, .sema 0xFF 1, .cwait 47 9 1, .fwait 0xFFFF 9 1],
      groupOf (waitingIn b) 0 0 = some { grp with block := b, deadline := some 5000 } ∧ (0 : Nat) < 36)
    ∧ tfind (semad { sema0 with holder := some (0, 0), shortNow := true } [0xFF]).semas 0xFF = some { sema0 with holder := some (0, 0), shortNow := true } := by
  decide +kernel

/-! ### Matrix array, groups and caches -/

/-- The group with operand words in s2 (A), s3 (B) and s4 (C): bases 0x40 and 0x80, row pitch 64, and M = N = K = 1 unless `cw` says
otherwise (Tables 06-5 and 06-6). -/
def mg (bw cw : W64) : Group := { grp with s := [(2, 0x10000040), (3, bw), (4, cw)] }
def shape1 : W64 := 0x4081

theorem witness_MatrixIssue :
    (let s := at0 (mg 0x10000080 shape1)
     retired s 0 = false ∧ queuedMat (coreOf s 0) < 4
     ∧ (∀ x ∈ [(MatOp.mldb, rrr 0 0 3 4 0, mldbLegal), (.mma, rrr 1 2 3 4 0, mmaLegal), (.mmv, rrr 1 2 3 4 0, mmvLegal), (.mew, rrr 1 0 3 4 0x200000, mewLegal),
          (.mdrn, rrr 0 1 3 4 0x200000, mdrnLegal)],
        let i := go s x.2.1
        Issued s 0 0 x.2.1 x.2.2 i ∧ i.part ≠ 0 ∧ jobOf s i.job = some job
        ∧ matFault (jobRanges job) x.1 x.2.1 (sGet i.gr x.2.1.a.toNat) (sGet i.gr x.2.1.b.toNat) (sGet i.gr x.2.1.c.toNat) = none))
    ∧ (shM 0x4080 = 0 ∧ 64 < shM 0x40C1 ∧ 8 < shM 0x4089 ∧ shN 0x4001 = 0 ∧ 64 < shN 0x60C1 ∧ 4096 < shK 0x4004081)
    ∧ (owBase 0x10000081 % 64 ≠ 0 ∧ owStride 0x10400080 % 64 ≠ 0 ∧ matFault (jobRanges job) .mma (rrr 1 2 3 4 0) 0x10000040 0x10000081 shape1 ≠ some (1, 0))
    ∧ (let s := at0 grp
       let i := go s (rrr 1 2 0 0 1)
       Issued s 0 0 (rrr 1 2 0 0 1) mflgLegal i ∧ ∀ e ∈ (coreOf s 0).mat, (2 : BitVec 7).toNat ∉ matAccs e) := by
  refine ⟨⟨?_, ?_, fun x hx => ⟨issued ?_, ?_⟩⟩, ?_, ?_, issued ?_, ?_⟩
  case refine_3 => simp only [List.mem_cons, List.not_mem_nil, or_false] at hx; rcases hx with rfl | rfl | rfl | rfl | rfl <;> decide +kernel
  case refine_4 => simp only [List.mem_cons, List.not_mem_nil, or_false] at hx; rcases hx with rfl | rfl | rfl | rfl | rfl <;> decide +kernel
  all_goals decide +kernel

/-- An INT8 MMA of one product onto accumulator 1, and the same one step further on each time. -/
def entry : MatEntry := { op := .mma, w := rrr 1 2 3 4 0, aw := 0x10000040, bw := 0x10000080, cw := shape1, frm := 1, slot := 0, job := 0, pc := 0x1000, mask := 1 }
def started : MatEntry := { entry with phase := .started, a := [[2]], b := [[3]] }
def checked : MatEntry := { entry with phase := .checked, committed := true, result := [(0, 6)], out := [(0x400, 6)] }
def withMat (e : MatEntry) : State := dev { core grp with ls := [(0x40, 2), (0x80, 3)], mat := [e] }

theorem witness_MatrixExecution :
    (let c := coreOf (withMat entry) 0
     c.mat[0]? = some entry ∧ canStart c 0 = true ∧ retired (withMat entry) 0 = false ∧ firstBad c (readExtents entry) = none
     ∧ matFmt (mAFMT entry.w) = some (.int { w := 8, signed := true }) ∧ 0 < shM entry.cw ∧ 0 < shK entry.cw ∧ 0 < shN entry.cw ∧ mBSRC entry.w = 0)
    ∧ ((coreOf (withMat started) 0).mat[0]? = some started ∧ started.phase = .started ∧ started.committed = false
       ∧ (∀ x ∈ (coreOf (withMat started) 0).mat.take 0, x.phase = .checked) ∧ retired (withMat started) 0 = false ∧ shN started.cw ≤ 64)
    ∧ ((coreOf (withMat checked) 0).mat[0]? = some checked ∧ checked.phase = .checked ∧ checked.committed = true
       ∧ (∀ x ∈ (coreOf (withMat checked) 0).mat.take 0, ∀ a ∈ matAccs x, a ∉ matAccs checked)
       ∧ (checked.result.map (·.1)).Nodup ∧ (checked.out.map (·.1)).Nodup) := by decide +kernel

/-- A block of one INT8 product, one of 64, and one of binary16. -/
def intJob (k : Nat) : MatJob := { fa := .int { w := 8, signed := true }, fb := .int { w := 8, signed := true }, int := true, passes := [(false, false)], m := 1, n := 1, k,
                                   a := [List.replicate k 127], b := List.replicate k [128] }
def floatJob : MatJob := { fa := .float binary16, fb := .float binary16, int := false, passes := [(false, false)], m := 1, n := 1, k := 2, a := [[0x3C00, 0x4000]], b := [[0x3C00], [0xBC00]] }

theorem witness_MatrixBlockSums :
    (0 < (intJob 1).k ∧ (intJob 64).k ≤ 64 ∧ (intJob 64).int = true)
    ∧ (0 < floatJob.k ∧ floatJob.int = false ∧ floatJob.passes = [(false, false)] ∧ floatJob.fa ≠ .float binary32
       ∧ (∀ k < floatJob.k, (floatJob.av 0 k).special = false ∧ (floatJob.bv k 0).special = false) ∧ decodeF binary32 0x3F800000 = .fin false 0x800000 (-23)) := by
  decide +kernel

/-- A job of two groups of which none has been launched. -/
def freshJob : Job := { job with words := [0x0100000000000001, 0, 0, 0, 0x0008000000001000, 0x2000, 1, 0x100000], groups := 2, liveGroups := 0, nextGroup := 0 }
def launching : State := { dev { jobs := [0] } with jobs := [(0, freshJob)] }

/-- The device with a value of 8 bytes at an address. -/
def wr (s : State) (a v : Nat) : State := memWrite s a (natLe 8 v)

/-- A group that waits for a walk of 0x5000; tables at 0x10000, 0x11000, 0x12000, 0x13000 lead to the page at 0x20000. -/
def walking (leaf : Nat) : State :=
  wr (wr (wr (wr { at0 { grp with block := .walk 0x5000 .r } with ctxTab := [(1, 0x8000000000010000)] } 0x10000 0x11001) 0x11000 0x12001) 0x12000 0x13001)
    0x13028 leaf

theorem witness_GroupsOfACore :
    ((coreOf launching 0).jobs.find? (wantsLaunch launching 0) = some 0 ∧ freeSlot (coreOf launching 0) = some 0 ∧ logicalOf launching 0 = some 0
     ∧ jobOf launching 0 = some freshJob ∧ jobVregs freshJob / 8 ≤ granFree (coreOf launching 0))
    ∧ groupOf (at0 grp) 0 0 = some grp ∧ grp.block = .none
    ∧ (let gr : Group := { grp with issueRun := 256, lastSet := 0xF }
       groupOf (at0 gr) 0 0 = some gr ∧ fwdThreshold (coreOf (at0 gr) 0) ≤ gr.issueRun ∧ 4 ∈ lanesOf (candidates gr &&& ~~~ gr.lastSet)
       ∧ ∀ l ∈ lanesOf (candidates gr &&& ~~~ gr.lastSet), tget 0 gr.lastIssue 4 < tget 0 gr.lastIssue l ∨ (tget 0 gr.lastIssue 4 = tget 0 gr.lastIssue l ∧ 4 ≤ l))
    ∧ (let s := at0 { grp with block := .fetch 0x1080 }
       xlate s 0 (jobTag s 0) 0x1080 .x = .ok 0x5080 true ∧ poisoned s 0x5080 = false)
    ∧ (let s := walking 0x2000B
       let s1 := pmcCore (pmcCore s 0 0x23 1) 0 0x24 1
       let ce := coreEntry s 0 1
       jobTag s 0 = 1 ∧ (coreOf s 0).walks = [] ∧ ctV ce = true ∧ walkFrom s1 ce 0x5000 3 (ctRoot ce) = .leaf 0 0x2000B 0x13028 ∧ grants (pteAttr 0x2000B) .r = true)
    ∧ (let s := walking 0
       let s1 := pmcCore (pmcCore s 0 0x23 1) 0 0x24 1
       let ce := coreEntry s 0 1
       walkFrom s1 ce 0x5000 3 (ctRoot ce) = .fault { cause := 3, kind := 1, level := 0, entry := 0 }) := by decide +kernel

/-- A load of lanes 0 and 1 that waits for the line at 0x8000. -/
def pend (addrs : Tbl Nat) (missing : List Nat) : PendLoad :=
  { scalar := false, atomic := false, w := rrr 1 2 0 0 0x80000, pc := 0x1000, lanes := 3, addrs, missing, got := [] }
def filling (g : Group) : State := dev { core g with fills := [{ line := 0x8000 }] }
def loading : PendLoad := pend [(0, 0x8000), (1, 0x807C)] [0x8000]
def mergeEntry : MergeEntry := { serial := 4, line := 0x9000, bytes := [(0, 1)], mask := [0] }

theorem witness_CacheAndBufferEvents :
    ((coreOf (filling grp) 0).fills.find? (fun f => f.line == 0x8000) = some { line := 0x8000 } ∧ poisoned (filling grp) 0x8000 = false
     ∧ nearWay (coreOf (filling grp) 0) 0x8000 = none ∧ waitingFor (filling grp) 0 0x8000 = [])
    ∧ (let gr : Group := { grp with block := .load loading }
       let s := filling gr
       waitingFor s 0 0x8000 = [(0, loading)] ∧ groupOf s 0 0 = some gr ∧ acquireWord loading.w = false ∧ (∀ k < 128, mergeByte (coreOf s 0) (0x8000 + k) = none)
       ∧ (∀ a ∈ loading.addrs, a.1 < 32 ∧ 0x8000 ≤ a.2 ∧ a.2 + mSIZE loading.w ≤ 0x8000 + 128) ∧ (loading.addrs.map (·.1)).Nodup)
    ∧ ((openEntries (coreOf merging 0)).head? = some mergeEntry ∧ groupTagsFree merging 0 ≠ 0)
    ∧ (let gr : Group := { grp with block := .release [4] [] }
       let e : MergeEntry := { mergeEntry with sent := true }
       let s := dev { core gr with merge := [e] }
       (coreOf s 0).merge.find? (fun e => e.sent) = some e ∧ groupOf s 0 0 = some gr) := by decide +kernel

/-! ### Engines, memory units, translation and the Spoke -/

/-- The range table of tag 1 at 0x40000, whose entry 0 maps the first 16 pages onto themselves for reads and writes (R255). -/
def ranged (s : State) : State := wr (wr { s with ctxTab := [(1, 0x1008000000000000000)] } 0x40000 0x10000000000) 0x40008 0xB000000000

/-- Engine 1 with transfer 5 in hand, before and after its tile has begun; and one of two tiles. -/
def twoTiles : Transfer := { transfer 5 with desc := descWords.set 0 0x200000000 }
def engine (t : Transfer) : State := ranged (dev { core grp with eng := [(1, { queue := [t], next := 6 })] })

theorem witness_StreamEngineEvents :
    (let s := engine (transfer 5)
     (engOf (coreOf s 0) 1).queue = [transfer 5] ∧ jobOf s 0 = some job ∧ (tileCheck s 0 (transfer 5)).toOption = some [(8, 8)] ∧ spokePages [(8, 8)] = []
     ∧ tileWait s (transfer 5) = .load 0)
    ∧ (let t := { transfer 5 with desc := descWords.set 0 0x20000100000000 }
       let s : State := { engine t with sources := [(0, { cfg := 0x20000000, pos := 0 })] }
       (tileCheck s 0 { t with wantFrame := 1 }).toOption = some [(8, 8)] ∧ tileWait s { t with wantFrame := 1 } = .wait)
    ∧ (let t := { twoTiles with started := true, trans := [(8, 8)] }
       engWaits (engine t) 0 1 = false ∧ t.tile + 1 < dCount t.desc ∧ dOp t.desc = 0 ∧ ((tileBytes t.desc t.tile).map (·.2)).Nodup)
    ∧ (let t := { transfer 5 with started := true, trans := [(8, 8)] }
       dCount t.desc ≤ t.tile + 1 ∧ (engOf (coreOf (engine t) 0) 1).failed = [] ∧ groupOf (engine t) 0 0 = some grp ∧ grp.block = .none)
    ∧ bits (coreOf { State.reset with cores := [(35, { strCfg := 1, scrubRow := 4095 })] } 35).strCfg 7 0 ≠ 0 := by decide +kernel

/-- One partition with the 64 pseudo-channels and 16 ways, and every channel trained. -/
def mapped : State := { State.reset with parts := [(0, { realTime := false, cores := 0xFFFFFFFF, pcs := -1, ways := -1, op := 0 })], trained := -1 }
/-- Slice 1, way 2 of the set of the line at 0x80, and an eviction entry. -/
def sliced : State := { mapped with slices := [(1, { lines := [(2, { valid := true, dirty := false, poison := true, line := 0x80 })], evict := [{ line := 0x4080, part := 0, poison := false, begun := false }, { line := 0x8080, part := 0, poison := false, begun := true }] })] }

theorem witness_MemoryChannelsAndSlices :
    (pcOwner mapped 63 = some 0 ∧ bit mapped.trained 31 = true ∧ rbits mapped 0x2F 0x100 18 16 ≠ 0 ∧ poisoned mapped (pcLine mapped 0 63 0) = false)
    ∧ (partAt mapped 0xBFFFFFF80 = some 0 ∧ pcAt mapped 0xBFFFFFF80 = some 63 ∧ 0xBFFFFFF80 % 128 = 0 ∧ noMajority mapped 0x2F 0x100 0 8 = false
       ∧ poisoned mapped 0xBFFFFFF80 = false ∧ infoHeld mapped 0x2F 0x114 = false)
    ∧ (sliceOf 0x80 = 1 ∧ sliceWay (sliceRec sliced 1) 0x80 = some 2 ∧ sliceAt (sliceRec sliced 1) 0 2 = some { valid := true, dirty := false, poison := true, line := 0x80 })
    ∧ (let x := sliceRec sliced 0
       sliceWay x 0 = none ∧ (x.evict.find? fun e => e.line == 0) = none ∧ x.flush = none ∧ wayOwner sliced 0 3 = 0 ∧ noMajority sliced 0x30 0x100 0 12 = false
       ∧ ∀ l, sliceAt x 0 3 = some l → l.valid = false)
    ∧ ((sliceRec sliced 1).evict[0]?.map (·.begun) = some false ∧ (sliceRec sliced 1).evict[1]?.map (·.begun) = some true)
    ∧ (sliceRec (setSlice sliced 1 { sliceRec sliced 1 with flush := some 4 }) 1).flush = some 4 := by
  refine ⟨?_, ?_, ?_, ⟨?_, ?_, ?_, ?_, ?_, fun l h => ?_⟩, ?_, ?_⟩
  case refine_9 => exact absurd h (by rw [show sliceAt (sliceRec sliced 0) 0 3 = none by decide +kernel]; simp)
  all_goals decide +kernel

theorem witness_TranslationBlock :
    (State.reset.invRun = none ∧ State.reset.invQueue = [])
    ∧ (let s : State := { State.reset with invRun := some 0xFFF, invQueue := List.range 7 }
       s.invRun = some 0xFFF ∧ (9 : Nat) ∉ s.invQueue ∧ s.invQueue.length < 8)
    ∧ tagInFlight { State.reset with invRun := some 0xFFF } 0xFFF = false
    ∧ (let s := ranged State.reset
       ctV (ctxEntry s 1) = true ∧ (∀ k < 8, poisoned s (ctRtb (ctxEntry s 1) + 128 * k) = false)
       ∧ rangeFind s (ctRtb (ctxEntry s 1)) 0xFFFF = some (0, 0x10000000000, 0xB000000000)) := by decide +kernel

/-- The group's load waits for host memory of function 1, or for the peer behind link 2. -/
def hostLoad : PendLoad := pend [(0, 0x104000000000)] [0x104000000000]
def hosting : State := at0 { grp with block := .load hostLoad }
def peerLoad : PendLoad := pend [(0, 0x200000000040)] [0x200000000040]
def acc (kind : Nat) : RemoteAcc := { tag := 6, link := 2, since := 100, core := 0, slot := 0, job := 0, pa := 0x200000000040, size := 4, kind }
def peered (kind : Nat) : State :=
  { at0 (if kind = 0 then { grp with block := .load peerLoad } else grp) with links := [(2, { state := 3, crRsp := 8, crReq := 8 })], remotes := [acc kind] }

/-- This device is 0; device 3 and device 4 lie behind link 2; inbound window 5 of device 3 maps window 1 onto 0x200000. -/
def inboundOpen : State :=
  rset (rset (rset (rset { State.reset with links := [(2, { state := 3, crRsp := 8, crReq := 8 })] } 0x210 0x184 0xFFF22FFF) 0x43 0x150 0xE0000031) 0x43 0x154 1) 0x43 0x158 1
def request (op : Nat) (data : List Byte) : RemotePacket :=
  { op, src := 3, dst := 0, win := 5, srcWin := 1, offset := 0x1FFFF0, len := 1, tag := 9, data }

theorem witness_RemoteAccesses :
    (isHost 0x104000000000 = true ∧ (0x104000000000 - hostBase) / hostSize = 1 ∧ windowWaiter hosting 0x104000000000 = some (0, 0, hostLoad)
     ∧ groupOf hosting 0 0 = some { grp with block := .load hostLoad } ∧ jobOf hosting 0 = some job ∧ job.phase = .running ∧ pkRestart job.words = false)
    ∧ (routeOf inboundOpen 3 = some 2 ∧ packetCodesOk (request 2 []) = true ∧ ownId inboundOpen = 0 ∧ (linkOf inboundOpen 2).state = 3
       ∧ (∀ op ∈ [0, 1, 2], (inboundCheck inboundOpen (request op [])).toOption = some 0x3FFFF0) ∧ CanSend inboundOpen 2 2 1
       ∧ inboundCheck inboundOpen { request 0 [] with offset := 0x200000 } = .error 3 ∧ infoHeld inboundOpen 0x41 0x100 = false
       ∧ packetCodesOk (request 9 []) = false ∧ routeOf inboundOpen 4 = some 2 ∧ CanSend inboundOpen 2 2 0 ∧ routeOf inboundOpen 1 = none)
    ∧ (let s := peered 0
       groupOf s 0 0 = some { grp with block := .load peerLoad } ∧ jobOf s 0 = some job ∧ remoteAt s 2 5 = none ∧ remoteAt s 2 6 = some (acc 0)
       ∧ peerLoad.missing.contains (acc 0).pa = true ∧ (acc 0).size = mSIZE peerLoad.w ∧ remoteLoad s (acc 0) = some peerLoad
       ∧ (s.remotes.find? fun y => y.tag == 6) = some (acc 0))
    ∧ (remoteAt (peered 1) 2 6 = some (acc 1) ∧ groupOf (peered 1) 0 0 = some grp ∧ grp.block = .none) := by
  refine ⟨by decide +kernel, ⟨?_, ?_, ?_, ?_, ?_, ?_, ?_, ?_, ?_, ?_, ?_, ?_⟩, by decide +kernel, by decide +kernel⟩ <;>
    first | decide +kernel | rfl | (unfold CanSend; decide +kernel)

/-! ### Queues and jobs -/

/-- Queue 1023 of a context that holds tag 1, whose ring of 16 packets lies at 0x1000; and 64 bytes of packet. -/
def q0 : Queue := { ctx := 0, log2 := 4, prio := 0, vector := 0, ring := 0x1000, ringPa := 0x1000 }
def packetAt (s : State) (a : Nat) (w : List W64) : State := memWrite s a (w.flatMap fun v => natLe 8 v.toNat)

/-- The device with that queue, a packet in its ring and the tail behind it, as the ROM has left it; fence 9 is the context's. -/
def queued (st : CtxState) (x : Queue) (w : List W64) : State :=
  rset (packetAt { ranged mapped with
    boot := { mapped.boot with up := true }, contexts := [(0, { vi := 0, part := 0, tag := 1, state := st })], queues := [(1023, x)],
    fences := [(9, { owner := 0, value := 5 })] } 0x1000 w) 0x7FF 0x104 1

theorem witness_QueuesAndPackets :
    (let s := queued .live q0 [1]
     s.boot.up = true ∧ fnAnswers s 0 = true ∧ queueVi s 1023 = some 0 ∧ tfind s.queues 1023 = some q0 ∧ ctxOf s q0.ctx = some { vi := 0, part := 0, tag := 1 }
     ∧ tailOf s 1023 ≠ q0.head ∧ (s.jobs.any fun j => j.2.queue == 1023 && j.2.phase == .waiting) = false)
    ∧ (let t : W32 := rget (queued .live q0 [1]) 0x7FF 0x104
       0 < ((16 : W32) - t).toNat ∧ ((16 : W32) - t).toNat < 2 ^ 31 ∧ ((16 : W32) - q0.head).toNat ≤ 2 ^ q0.log2 ∧ ¬ ((17 : W32) - q0.head).toNat ≤ 2 ^ q0.log2)
    ∧ (∀ w ∈ [[1], [0x0004000900000001, 6], [(0x0004000900000001 : W64), 5], [0x0002000000000001]],
        packetOk (queued .live q0 w) 0 0 1 w = true ∧ seqOk q0 (pkSeq w) = true)
    ∧ (poisoned { queued .live q0 [1] with poison := [0x1000] } 0x1000 = true ∧ packetOk (queued .live q0 [0x0700000000000001]) 0 0 1 [0x0700000000000001] = false
       ∧ seqOk { q0 with lastSeq := some 1 } 1 = false)
    ∧ rangeCovers (queued .lost q0 [1, 0, 0, 0x3000]) 1 0x3000 16 true = some 0x3000 := by decide +kernel

/-- Two jobs that stand ready in queues of two priorities. -/
def ready (q : Nat) (words : List W64) : Job := { queue := q, ctx := 0, seq := 1, words, phase := .ready 0 }
def startable (w : List W64) : State :=
  { queued .live q0 w with queues := [(7, { q0 with prio := 3 }), (1023, q0)], jobs := [(0, ready 7 w), (1, ready 1023 w)] }

theorem witness_DispatcherOrder : candidatesOf (startable [1]) 0 = [0, 1] ∧ bestJob (startable [1]) 0 = some 0 ∧ candidatesOf (startable [1]) 7 = [] := by decide +kernel

/-- A KERNEL and a TRANSFER on logical core 31 (Table 10-2), and a GRAPH, a PREFETCH and a MARKER. -/
def kernelWords (vregs : Nat) : List W64 := [0x0100000000000001, 0, 0, 0, BitVec.ofNat 64 (vregs * 2 ^ 48 + 0x1000), 0x2000, 0x8000000000000002, 0x100000]
def transferWords (len : Nat) : List W64 := [0x0300000000000001, 0, 0, 0, 0, 0x8000, BitVec.ofNat 64 len, 0x80000000]
def begun (words : List W64) (cores : List Nat) : State :=
  { queued .live q0 words with jobs := [(0, { ready 1023 words with phase := .started, cores })] }

/-- A graph of one stage, whose queue is 1023. -/
def stage : StagePlan := { part := 0, root := 0, ranges := [], log2 := 4, prio := 0, vector := 0, ring := 0x1000, ringPa := 0x1000, template := [0x0000000000000000] }
def graphing : State :=
  { begun [0x0400000000000001, 0, 0, 0, 0] [] with
    graphs := [(0, { svn := 0, plan := { stages := [stage], caps := [], setup := [], triggers := [] }, stages := [(0, 1023)], running := true })] }

theorem witness_Jobs :
    (∀ w ∈ [[1], kernelWords 8, transferWords 64],
      let s := startable w
      s.rel.owed = [] ∧ partialJobs s 0 = [] ∧ bestJob s 0 = some 0 ∧ jobOf s 0 = some (ready 7 w))
    ∧ (jobTargets (startable (kernelWords 8)) (ready 7 (kernelWords 8)) = [31] ∧ coreOpen (startable (kernelWords 8)) 0 31 = true
       ∧ physOf (startable (kernelWords 8)) 31 = some 31)
    ∧ (let s := { startable (kernelWords 8) with map := [(31, 63)] }
       jobTargets s (ready 7 (kernelWords 8)) = [] ∧ bestJob s 0 = some 0 ∧ partialJobs s 0 = [])
    ∧ (let s := begun (kernelWords 12) [31]
       jobOf s 0 = some { ready 1023 (kernelWords 12) with phase := .started, cores := [31] } ∧ infoHeld s (pgCore 31) 0x110 = false ∧ stageOf s 0 = none
       ∧ ¬ (bits (pkW (ready 1023 (kernelWords 12)) 4) 55 48 % 8 = 0) ∧ bits (pkW (ready 1023 (kernelWords 128)) 4) 55 48 = 128)
    ∧ (let s := begun (transferWords 64) [31]
       jobTargets s { ready 1023 (transferWords 64) with phase := .started, cores := [31] } = [31] ∧ (coreOf s 31).copy = none
       ∧ 0 < copyTiles (transferWords 64) ∧ copyTiles (transferWords 0) = 0)
    ∧ (let s := begun [0x0500000000000001, 0, 0, 0, 0, 0x1000] []
       coresWith s 0 = [] ∧ (prefetchRange s 1 0 0x1000 0) = none ∧ (prefetchRange s 1 0 0 0).isSome = true)
    ∧ ((0x13028 : Nat) + 8 ≤ 0x30 * 0x1000 ∧ (0x30 : Nat) < 2 ^ 34)
    ∧ (∃ g, tfind graphing.graphs 0 = some g ∧ g.running = true ∧ g.stopping = false ∧ g.stages[0]? = some (0, 1023) ∧ g.plan.stages[0]? = some stage
        ∧ tfind graphing.queues 1023 = some q0 ∧ (tailOf graphing 1023 + 1 - q0.head).toNat ≤ 2 ^ q0.log2) := by
  refine ⟨?_, ?_, ?_, ?_, ?_, ?_, ?_, ⟨_, rfl, ?_⟩⟩ <;> decide +kernel

/-- A job that has ended, which signals fence 9, records at 0x3000 and raises its event; and a kernel whose work is done. -/
def endWords : List W64 := [0x0018000000000001, 0, 7, 0x0009000000003000]
def ended (st : BitVec 8) : State :=
  { queued .live { q0 with accepted := [(1, false)] } [] with jobs := [(0, { ready 1023 endWords with phase := .ended st 0 })] }

theorem witness_JobCompletions :
    (∀ n ∈ [0, 2],
      let s := ended (BitVec.ofNat 8 n)
      let x : Job := { ready 1023 endWords with phase := .ended (BitVec.ofNat 8 n) 0 }
      jobOf s 0 = some x ∧ rangeCovers s (tagOf s x.ctx) (pkCpl x.words) 16 true = some 0x3000 ∧ pkEvt x.words = true ∧ pkSigen x.words = true
      ∧ tfind s.queues 1023 = some { q0 with accepted := [(1, false)] } ∧ pkSeq x.words = 1 ∧ tfind s.fences (pkSslot x.words) = some { owner := 0, value := 5 }
      ∧ genOf s (pkSslot x.words) = x.sigGen ∧ (5 : W64).toNat < (pkSval x.words).toNat ∧ pkSval x.words ≠ BitVec.allOnes 64)
    ∧ (let x : Job := { ready 1023 (kernelWords 8) with phase := .running, groups := 2, nextGroup := 2 }
       let s := { ended 0 with jobs := [(0, x)] }
       jobOf s 0 = some x ∧ workDone s 0 x = true ∧ unwaitedFault s 0 = none) := by decide +kernel

/-! ### Hub commands -/

/-- A command of an operation code with REQ 7, and the device with it in front of a function's Hub queue. -/
def cmd (op : Nat) (xs : List Nat) : List W64 := BitVec.ofNat 64 (op * 2 ^ 56 + 7) :: xs.map (BitVec.ofNat 64)
def hub (s : State) (vi : Nat) (w : List W64) : State := { s with vis := tput s.vis vi { viOf s vi with cmds := [w] } }
/-- The device with a context, a queue, a range entry and a fence. -/
def base : State := queued .live q0 []

theorem witness_HubProtocol :
    (let s := hub { base with vis := [(63, { viOf base 63 with replies := List.replicate 16 [0, 0, 0, 0] })] } 63 (cmd 2 [0])
     (viOf s 63).cmds = [cmd 2 [0]] ∧ 16 ≤ (viOf s 63).replies.length ∧ (viOf s 63).resetBusy = false ∧ (viOf s 63).disabled = false)
    ∧ (let s := hub { base with boot := { base.boot with minimal := true } } 0 (cmd 2 [0])
       (viOf s 0).cmds = [cmd 2 [0]] ∧ (viOf s 0).replies.length < 16 ∧ s.boot.minimal = true)
    ∧ (base.boot.minimal = false ∧ bits ((cmd 0x19 []).getD 0 0) 63 56 ∉ hubOps ∧ bits ((cmd 2 []).getD 0 0) 63 56 ∈ hubOps
       ∧ fieldsOk [fm 11 0] (cmd 2 [0x1000]) = false) := by decide +kernel

theorem witness_HubContextsAndQueues :
    (let s := hub { base with grants := [{ first := 0x100, count := 1, vi := 0 }] } 0 (cmd 1 [0, 0, 0x100000])
     HubFront s 0 1 false [fm 2 0, fm 12 0, fm 45 12] (cmd 1 [0, 0, 0x100000]) [] ∧ bit (viOf s 0).parts 0 = true ∧ (tfind s.parts 0).isSome = true
     ∧ lowestFree 4096 (fun n => (tfind s.contexts n).isSome) = some 1 ∧ pagesGranted s 0 0x100 1 = true ∧ touchesReserved s 0x100000 0x1000 = false
     ∧ lowestFree 4096 (tagBusy s) = some 0)
    ∧ HubFront (hub base 0 (cmd 1 [0, 0x1000, 0])) 0 1 false [fm 2 0, fm 12 0, fm 45 12] (cmd 1 [0, 0x1000, 0]) []
    ∧ (HubFront (hub base 0 (cmd 2 [0])) 0 2 false [fm 11 0] (cmd 2 [0]) [] ∧ ctxOf base 0 = some { vi := 0, part := 0, tag := 1 })
    ∧ (let w := cmd 0x15 [0xFFFFFFFFFFFF0000, 0xFFFFFFFFFFFFFFFF, 0xFFFFFFFFFFFFFFFF]
       HubFront (hub base 0 w) 0 0x15 false [fm 63 0, fm 63 0, fm 63 0] w [] ∧ killNames w = [0])
    ∧ (let w := cmd 0x15 [0xFFFFFFFFFFFF0FFF, 0xFFFFFFFFFFFFFFFF, 0xFFFFFFFFFFFFFFFF]
       HubFront (hub base 0 w) 0 0x15 false [fm 63 0, fm 63 0, fm 63 0] w [] ∧ killNames w = [0xFFF] ∧ ctxOf (hub base 0 w) 0xFFF = none)
    ∧ (let w := cmd 3 [0, 0x2000, 4, 7, 63]
       HubFront (hub base 0 w) 0 3 false [fm 11 0, fm 47 0, fm 4 0, fm 2 0, fm 5 0] w [] ∧ 0x2000 % (64 * 2 ^ 4) = 0 ∧ 63 < (viOf (hub base 0 w) 0).vectors
       ∧ rangeCovers (hub base 0 w) 1 0x2000 1024 false = some 0x2000 ∧ lowestFree 1024 (fun n => (tfind (hub base 0 w).queues n).isSome) = some 0)
    ∧ (HubFront (hub base 0 (cmd 4 [1023])) 0 4 false [fm 9 0] (cmd 4 [1023]) [] ∧ queueVi base 1023 = some 0
       ∧ (base.jobs.any fun j => j.2.queue == 1023 && !jobWaiting j.2) = false)
    ∧ ((begun [1] []).jobs.any fun j => j.2.queue == 1023 && !jobWaiting j.2) = true := by
  and_intros <;> first | decide +kernel | (unfold HubFront; decide +kernel)

theorem witness_HubMemory :
    (let w := cmd 5 [63, 0x100, 0x10]
     let s := hub base 0 w
     HubFront s 0 5 true [fm 5 0, fm 33 0, fm 33 0] w [] ∧ (s.grants.find? fun g => g.vi != 63 && runsMeet 0x100 0x10 g.first g.count) = none
     ∧ inHbm 0x100000 0x10000 = true ∧ touchesReserved s 0x100000 0x10000 = false)
    ∧ (let g : Grant := { first := 0x10F, count := 1, vi := 2 }
       ([g].find? fun g => g.vi != 63 && runsMeet 0x100 0x10 g.first g.count) = some g)
    ∧ (let w := cmd 6 [0xF, 1]
       let s := hub base 0 w
       HubFront s 0 6 true [fm 33 0, fm 33 0] w []
       ∧ ((tagsInUse s).any fun t => (entriesWhere s t (runsMeet 0xF 1)).any (coversRing s t)) = true)
    ∧ (let w := cmd 6 [0x10, 1]
       let s := hub base 0 w
       HubFront s 0 6 true [fm 33 0, fm 33 0] w []
       ∧ ((tagsInUse s).any fun t => tableNames s (runsMeet 0x10 1) 3 (ctRoot (ctxEntry s t)) || (entriesWhere s t (runsMeet 0x10 1)).any (coversRing s t)) = false)
    ∧ (let w := cmd 0x13 [0, 3, 0x80000]
       let s := rset (hub { base with links := [(2, { state := 3 })] } 0 w) 0x210 0x184 0xFFFF2FFF
       HubFront s 0 0x13 false [fm 2 0, fm 3 0, fm 19 0] w [] ∧ s.boot.rngFailed = false ∧ reachable s 3 = true
       ∧ lowestFree 16 (fun k => bit (owin s k) 31) = some 0)
    ∧ (let w := cmd 0x14 [15]
       let s := rset (hub { base with winOwner := [(15, 0)] } 0 w) 0x42 0x13C 0x80000000
       HubFront s 0 0x14 false [fm 3 0] w [] ∧ bit (owin s 15) 31 = true ∧ tfind s.winOwner 15 = some 0)
    ∧ (let w := cmd 7 [0, 0x1000000100, 0xB000000200]
       let s := hub { base with grants := [{ first := 0x200, count := 1, vi := 0 }] } 0 w
       HubFront s 0 7 false [fm 11 0, fm 63 0, fm 63 0] w [] ∧ mapErr s { vi := 0, part := 0, tag := 1 } 0x1000000100 0xB000000200 = 0
       ∧ lowestFree 64 (fun i => reV (rangeAt s (ctRtb (ctxEntry s 1)) i).2) = some 1 ∧ mapErr s { vi := 0, part := 0, tag := 1 } 0x1000000100 0xB000000201 = 3)
    ∧ (let w := cmd 8 [0, 0]
       let s := hub base 0 w
       HubFront s 0 8 false [fm 11 0, fm 5 0] w [] ∧ reV (rangeAt s (ctRtb (ctxEntry s 1)) 0).2 = true ∧ coversRing s 1 0 = true
       ∧ reV (rangeAt s (ctRtb (ctxEntry s 1)) 63).2 = false ∧ coversRing { s with queues := [] } 1 0 = false)
    ∧ HubFront (hub base 0 (cmd 9 [0])) 0 9 false [fm 11 0] (cmd 9 [0]) []
    ∧ (let w := cmd 0x12 [0, 0xFFFFFFFFF000, 0x1000, 2, 16]
       HubFront (hub base 0 w) 0 0x12 false [fm 11 0, fm 47 0, fm 47 0, fm 8 8 + fm 1 0, fm 4 0] w [] ∧ arg w 2 47 0 + arg w 3 47 0 ≤ 2 ^ 48)
    ∧ (let w := cmd 0x12 [0, 0xFFFFFFFFF000, 0x1000, 0x100, 1]
       HubFront (hub base 0 w) 0 0x12 false [fm 11 0, fm 47 0, fm 47 0, fm 8 8 + fm 1 0, fm 4 0] w [] ∧ arg w 4 8 8 = 1) := by
  and_intros <;> first | decide +kernel | (unfold HubFront; decide +kernel)

/-- The device with fence 9 as given. -/
def withFence (f : Fence) : State := { base with fences := [(9, f)] }
def f0 : Fence := { owner := 0, value := 5 }
def proxy : Fence := { f0 with owner := 1, home := some (3, 2), grants := [0] }
/-- A group that waits for the home device's reply to its FSIG of 7 on fence 9. -/
def signalling : State := { at0 { grp with block := .fsig 9 7 1 } with fences := [(9, proxy)] }

theorem witness_HubFencesAndEvents :
    (let w := cmd 0xA [0, 5]
     HubFront (hub base 0 w) 0 0xA false [fm 11 0, fm 63 0] w [] ∧ ctxOf base 0 = some { vi := 0, part := 0, tag := 1 } ∧ freeFence base = some 0)
    ∧ (HubFront (hub base 0 (cmd 0xB [0, 9])) 0 0xB false [fm 11 0, fm 15 0] (cmd 0xB [0, 9]) [] ∧ ownsFence f0 0 = true ∧ hasImporters f0 = false
       ∧ hasImporters { f0 with grants := [3] } = true ∧ ownsFence { f0 with owner := 4, grants := [0] } 0 = false ∧ ownsFence { f0 with owner := 4 } 0 = false)
    ∧ (let w := cmd 0xC [9, 0x800000000000000F]
       HubFront (hub base 0 w) 0 0xC false [fm 15 0, 2 ^ 63 + fm 5 0] w [] ∧ fenceOwnErr base 0 9 = 0 ∧ arg w 2 5 0 < 16)
    ∧ (let f : Fence := { f0 with exportedTo := [(false, 0)] }
       HubFront (hub (withFence f) 0 (cmd 0xD [0, 9])) 0 0xD false [fm 11 0, fm 35 0] (cmd 0xD [0, 9]) [] ∧ rbits base 0x210 0x180 3 0 = 0
       ∧ genOf (withFence f) 9 = 0 ∧ (false, 0) ∈ f.exportedTo ∧ (false, 0) ∉ f0.exportedTo)
    ∧ (HubFront (hub base 0 (cmd 0xD [0, 0x10009])) 0 0xD false [fm 11 0, fm 35 0] (cmd 0xD [0, 0x10009]) [] ∧ genOf base 9 ≠ BitVec.ofNat 16 1)
    ∧ (HubFront (hub base 0 (cmd 0xD [0, 0x300000009])) 0 0xD false [fm 11 0, fm 35 0] (cmd 0xD [0, 0x300000009]) [] ∧ proxyOf base 3 9 = none)
    ∧ (HubFront (hub base 0 (cmd 0xE [9, 5])) 0 0xE false [fm 15 0, fm 63 0] (cmd 0xE [9, 5]) [] ∧ f0.state = 0
       ∧ HubFront (hub base 0 (cmd 0xE [9, 4])) 0 0xE false [fm 15 0, fm 63 0] (cmd 0xE [9, 4]) [])
    ∧ (let w := cmd 0xF [9, 6, 0, 63]
       let s := hub base 0 w
       HubFront s 0 0xF false [fm 15 0, fm 63 0, 2 ^ 63 + fm 1 0, fm 5 0] w [] ∧ 63 < (viOf s 0).vectors ∧ s.arms = []
       ∧ armHolds s { slot := 9, onState := false, value := 6, vi := 0, vector := 63 } = false
       ∧ armHolds s { slot := 9, onState := false, value := 5, vi := 0, vector := 63 } = true)
    ∧ (let w := cmd 0xF [9, 0, 0x8000000000000001, 0]
       HubFront (hub base 0 w) 0 0xF false [fm 15 0, fm 63 0, 2 ^ 63 + fm 1 0, fm 5 0] w []
       ∧ armHolds (withFence { f0 with state := 1 }) { slot := 9, onState := true, value := 1, vi := 0, vector := 0 } = true)
    ∧ (HubFront (hub base 0 (cmd 0x10 [0, 1])) 0 0x10 false [fm 11 0, fm 0 0] (cmd 0x10 [0, 1]) [] ∧ lowestFree 256 (fun n => (tfind base.semas n).isSome) = some 0)
    ∧ (let s := hub { base with semas := [(0xFF, sema0)] } 0 (cmd 0x11 [0xFF])
       HubFront s 0 0x11 false [fm 7 0] (cmd 0x11 [0xFF]) [] ∧ semaVi s 0xFF = some 0 ∧ tfind s.semas 0xFF = some sema0 ∧ sema0.holder = none)
    ∧ (tfind base.fences 9 = some f0 ∧ f0.home = none ∧ (5 : W64).toNat < (6 : W64).toNat ∧ (6 : W64) ≠ BitVec.allOnes 64)
    ∧ (proxy.home.isSome = true ∧ proxy.state ≠ 3
       ∧ (signalling.cores.findSome? fun c => (c.2.groups.find? fun g => match g.2.block with | .fsig k x _ => k == 9 && x == 7 | _ => false).map fun g => (c.1, g.1)) = some (0, 0)
       ∧ groupOf signalling 0 0 = some { grp with block := .fsig 9 7 1 })
    ∧ ((true, 4) ∈ ({ f0 with exportedTo := [(true, 4)] } : Fence).exportedTo ∧ 4 ∉ ({ f0 with exportedTo := [(true, 4)] } : Fence).proxies
       ∧ 4 ∈ ({ f0 with proxies := [4] } : Fence).proxies) := by
  and_intros <;> first | decide +kernel | (unfold HubFront; decide +kernel)

/-- Virtual function 63 with a context, whose job runs. -/
def tenanted : State := { begun [1] [] with contexts := [(0, { vi := 63, part := 0, tag := 1 })], numVfs := 63 }
def functionIs (f : Vinst → Vinst) (s : State) : State := { s with vis := tput s.vis 63 (f (viOf s 63)) }

theorem witness_HubFunctions :
    (let w := cmd 0x16 [63, 0xFF, 64, 1]
     HubFront (hub base 0 w) 0 0x16 true [fm 5 0, fm 7 0, fm 6 0, fm 15 0] w []
     ∧ (List.range 64).foldl (fun n i => n + (if i = 63 then 64 else (viOf (hub base 0 w) i).vectors)) 0 ≤ 4096)
    ∧ (HubFront (hub base 0 (cmd 0x17 [63])) 0 0x17 true [fm 5 0] (cmd 0x17 [63]) [] ∧ (viOf base 63).draining = false ∧ (viOf base 63).resetBusy = false
       ∧ viJobs base 63 (fun _ => true) = [] ∧ HubFront (hub base 0 (cmd 0x17 [0])) 0 0x17 true [fm 5 0] (cmd 0x17 [0]) []
       ∧ viJobs tenanted 63 jobWaiting = [] ∧ viJobs tenanted 63 (fun _ => true) ≠ [])
    ∧ ((viOf (functionIs (fun x => { x with draining := true, drainAt := 9 }) tenanted) 63).draining = true
       ∧ (viOf (functionIs (fun x => { x with draining := true, drainAt := 9 }) tenanted) 63).disableReq = none)
    ∧ HubFront (hub base 0 (cmd 0x18 [63])) 0 0x18 true [fm 5 0] (cmd 0x18 [63]) []
    ∧ (let s := functionIs (fun x => { x with resetBusy := true, resetReqs := [(0, 7)] }) tenanted
       (viOf s 63).resetBusy = true ∧ ∀ r ∈ (viOf s 63).resetReqs, r.1 = 0)
    ∧ ((63 : Nat) ≤ tenanted.numVfs ∧ base.boot.up = true ∧ base.boot.minimal = false) := by
  and_intros <;> first | decide +kernel | (unfold HubFront; decide +kernel)

/-- A device with graph 0 of one stage, loaded, and running with or without a job of its stage. -/
def graphed (running : Bool) (busy : Bool) : State :=
  { base with
    jobs := if busy then [(0, { ready 1023 [1] with phase := .running })] else []
    graphs := [(0, { svn := 0, plan := { stages := [stage], caps := [1, 2, 3, 4], setup := [], triggers := [] },
                     stages := if running then [(0, 1023)] else [], running })] }

/-- An image is accepted or not; `Config.hostRead` says what the host's memory holds, so each of the first two clauses has a hypothesis
that one of the two cases meets. -/
theorem witness_ServiceGraphs :
    (HubFront (hub base 0 (cmd 0x20 [0, 0])) 0 0x20 true [fm 63 0, fm 39 0] (cmd 0x20 [0, 0]) [] ∧ lowestFree 65536 (fun n => (tfind base.graphs n).isSome) = some 0)
    ∧ (HubFront (hub base 0 (cmd 0x21 [0xFFFF])) 0 0x21 true [fm 15 0] (cmd 0x21 [0xFFFF]) [] ∧ tfind base.graphs 0xFFFF = none)
    ∧ (let s := hub (graphed false false) 0 (cmd 0x21 [0])
       HubFront s 0 0x21 true [fm 15 0] (cmd 0x21 [0]) [] ∧ (tfind s.graphs 0).map (fun g => (g.running, g.plan.stages)) = some (false, [stage])
       ∧ (tfind s.parts stage.part).isSome = true ∧ lowestFree 4096 (tagBusy s) = some 0 ∧ lowestFree 4096 (fun n => (tfind s.contexts n).isSome) = some 1
       ∧ lowestFree 1024 (fun n => (tfind s.queues n).isSome) = some 0)
    ∧ (tfind (graphed true false).graphs 0).map (·.running) = some true
    ∧ (∀ b : Bool, HubFront (hub (graphed true b) 0 (cmd 0x22 [0])) 0 0x22 true [fm 15 0] (cmd 0x22 [0]) []
       ∧ (jobsWhere (graphed true b) fun x => [0].contains x.ctx && jobActive x).isEmpty = !b
       ∧ jobsWhere (graphed true b) (fun x => [0].contains x.ctx && jobWaiting x) = [])
    ∧ HubFront (hub (graphed false false) 0 (cmd 0x22 [0])) 0 0x22 true [fm 15 0] (cmd 0x22 [0]) [] := by
  and_intros <;> first | decide +kernel | (unfold HubFront; decide +kernel)

/-! ### Firmware, starts, debug, counters -/

/-- An image whose header names an SVN, a state version and the least one it takes over; and a device whose fuses `is` are blown. -/
def img (svn statev statemin : Nat) : Image :=
  { header := [0x43, 0x5A, 0x46, 0x57, 1, 0, 1, 0, BitVec.ofNat 8 svn, 0, 0, 0, BitVec.ofNat 8 statev, 0, 0, 0, BitVec.ofNat 8 statemin, 0, 0, 0] ++ List.replicate 492 0
    body := [] }
def booted (f : Boot → Boot) (s : State) : State := { s with boot := f s.boot }
def fused (is : List Nat) : State → State := booted fun b => { b with fuses := is.map fun i => (i, true) }
/-- The device that runs one image with another staged, whose pair 3 is stopped. -/
def rolling : State :=
  { booted (fun b => { b with running := some (img 1 5 0), staged := some (img 2 6 5) }) base with pairs := [(3, { state := 3 })] }

/-- An image is sound or not; `Config.hostRead` says what the host's memory holds, so the clauses of FW_STAGE have hypotheses that one of the
two cases meets. -/
theorem witness_FirmwareUpdate :
    (HubFront (hub base 0 (cmd 0x30 [0x1000, 0x200])) 0 0x30 true [fm 63 0, fm 39 0] (cmd 0x30 [0x1000, 0x200]) [] ∧ fwFloor (fused [4104] base) = 1 ∧ fwFloor base = 0)
    ∧ (let s := booted (fun b => { b with minimal := true, dir1 := some { gen := 0xFFFFFFFE, slot := 1 } }) base
       HubFront (hub s 0 (cmd 0x30 [0x1000, 0x200])) 0 0x30 true [fm 63 0, fm 39 0] (cmd 0x30 [0x1000, 0x200]) [] ∧ bestDir s.boot = some { gen := 0xFFFFFFFE, slot := 1 })
    ∧ (HubFront (hub base 0 (cmd 0x31 [])) 0 0x31 true [] (cmd 0x31 []) [] ∧ base.boot.staged = none)
    ∧ (HubFront (hub rolling 0 (cmd 0x31 [])) 0 0x31 true [] (cmd 0x31 []) [] ∧ imgStatemin (img 2 6 5) ≤ imgStatev (img 1 5 0)
       ∧ imgStatev (img 1 4 0) < imgStatemin (img 2 6 5) ∧ rolling.rel.rotating = none ∧ rolling.rel.vacated = none
       ∧ (tget {} rolling.pairs 2 : Pair).state = 2 ∧ (tget {} rolling.pairs 3 : Pair).state ≠ 2)
    ∧ (let s := booted (fun b => { b with rolledAt := some 1 }) base
       HubFront (hub s 0 (cmd 0x32 [])) 0 0x32 true [] (cmd 0x32 []) [] ∧ s.now < 1 + 60000000000 ∧ 1 + 60000000000 ≤ ({ s with now := 60000000001 } : State).now)
    ∧ HubFront (hub base 0 (cmd 0x33 [])) 0 0x33 true [] (cmd 0x33 []) []
    ∧ (let s := booted (fun b => { b with configSvn := 255 }) base
       let w := cmd 0x34 [256]
       HubFront (hub s 0 w) 0 0x34 true [fm 8 0] w [] ∧ arg w 1 8 0 = 256 ∧ (s.boot.nocfg = false ∧ s.boot.configSvn < arg w 1 8 0)
       ∧ (booted (fun b => { b with configSvn := 256 }) base).graphs = []) := by
  and_intros <;> first | decide +kernel | (unfold HubFront; decide +kernel)

/-- A slot with an image is accepted or not, as `Config.ecdsaOk` says; an empty slot is not. -/
theorem witness_Starts :
    (let s := State.reset
     s.pins.powered = true ∧ s.boot.started = false ∧ lifecycle s = 0 ∧ lifecycle (fused [4680, 4681, 4682, 4683, 4684] s) = 2 ∧ glitchCount s = 0
     ∧ bestDir s.boot = none ∧ s.boot.config = none ∧ s.boot.appliance = false)
    ∧ glitchCount (booted (fun b => { b with glitches := List.replicate 8 0 }) State.reset) = 8
    ∧ (let s := booted (fun b => { b with dir0 := some { gen := 3, slot := 1 }, slotB := some (img 1 1 0), fails := 2 }) State.reset
       bestDir s.boot = some { gen := 3, slot := 1 } ∧ s.boot.fails < 3 ∧ slotAccepted s 0 = false)
    ∧ (let s := booted (fun b => { b with started := true }) State.reset
       s.boot.started = true ∧ s.boot.up = false)
    ∧ base.boot.up = true ∧ base.boot.minimal = false := by decide +kernel

theorem witness_DebugAndProtection :
    (Reaches State.reset .hub 2 0x104 ∧ Reaches State.reset .jtag 2 0x104 ∧ bits (0xB00000FF : W32) 29 28 = 3 ∧ bit (0xB00000FF : W32) 31 = true ∧ bit (0xB00000FF : W32) 30 = false
     ∧ State.reset.boot.challenge = none ∧ lifecycle State.reset = 0 ∧ lifecycle (fused [4680] State.reset) = 1)
    ∧ (let s := booted (fun b => { b with challenge := some 5, dbgFails := 254, lockUntil := 0 }) State.reset
       bits (0x70000000 : W32) 29 28 = 3 ∧ bit (0x70000000 : W32) 31 = false ∧ bit (0x70000000 : W32) 30 = true ∧ s.boot.challenge = some 5 ∧ s.boot.lockUntil ≤ s.now)
    ∧ bits (0xC00000FF : W32) 29 28 = 0
    ∧ (State.reset.boot.fuseLost = [] ∧ State.reset.pins.tripped = false ∧ State.reset.pins.powered = true) := by
  and_intros <;> first | decide +kernel | (unfold Reaches; decide +kernel)

theorem witness_CounterCollector :
    (let s := rset base 6 0x108 63
     Reaches s .hub 6 0x118 ∧ rbits s 6 0x108 5 0 = 63 ∧ bit (0x80000000 : W32) 31 = true ∧ bit (0x80000000 : W32) 30 = false ∧ s.pmc.frozen = false)
    ∧ ({ base with pmc := { base.pmc with frozen := true } } : State).pmc.frozen = true
    ∧ Reaches base .hub 6 0x100
    ∧ (let w := cmd 0x40 [0xA00000000000003F, 0xFFFFFFFFFFFF]
       HubFront (hub base 0 w) 0 0x40 true [fm 63 32 + fm 5 0, fm 47 0] w [] ∧ arg w 1 5 0 = 63
       ∧ evNamed (clrBit 0xA0000000 29 &&& 0xEF3F00FF#32) = true ∧ evRoom base 63 (clrBit 0xA0000000 29 &&& 0xEF3F00FF#32) = true)
    ∧ (let w := cmd 0x40 [0x600000000, 0]
       HubFront (hub base 0 w) 0 0x40 true [fm 63 32 + fm 5 0, fm 47 0] w [] ∧ evNamed (6 &&& 0xEF3F00FF#32) = false)
    ∧ (let w := cmd 0x41 [0x13F]
       HubFront (hub base 0 w) 0 0x41 false [fm 8 8 + fm 5 0] w [] ∧ HubFront (hub base 63 w) 63 0x41 false [fm 8 8 + fm 5 0] w []
       ∧ arg w 1 8 8 = 1 ∧ mayReadCounter base 0 63 = true ∧ mayReadCounter base 63 63 = false)
    ∧ (let w := cmd 0x41 [0x20]
       HubFront (hub base 0 w) 0 0x41 false [fm 8 8 + fm 5 0] w [] ∧ arg w 1 8 8 = 0 ∧ 32 ≤ arg w 1 5 0)
    ∧ (let w := cmd 0x41 [31]
       HubFront (hub base 0 w) 0 0x41 false [fm 8 8 + fm 5 0] w [] ∧ arg w 1 8 8 = 0 ∧ arg w 1 5 0 < 32) := by
  and_intros <;> first | decide +kernel | (unfold HubFront; decide +kernel) | (unfold Reaches; decide +kernel)

/-! ### Cadence and pre-emption -/

/-- A soft source 47 at position 5, a group that waits for its position 9, and trigger 1023 with inc 3, at its position 9. -/
def cadenced (pos : W64) : State :=
  rset (rset { at0 { grp with block := .cwait 47 9 5 } with
    sources := [(47, { cfg := 0xA0000000, pos, state := 1 }), (46, { cfg := 0x20000001, state := 1, pos := 7 })]
    triggers := [(1023, { pos := 9, inc := 3, arg := 47 }), (1, { ctl := 0xA2F00000 })] } 5 0x10C 47) 5 0x120 1023

theorem witness_CadenceRegisters :
    (let s := cadenced 5
     let v : W32 := 0x98FFFFFF
     Reaches s .hub 5 0x110 ∧ bits v 31 29 < 6 ∧ 1 ≤ bits v 31 29 ∧ bits v 15 0 ≠ 0 ∧ rbits s 5 0x10C 5 0 = 47 ∧ tgSrc (trigOf s 1) = 47
     ∧ groupOf s 0 0 = some { grp with block := .cwait 47 9 5 } ∧ bits (0 : W32) 31 29 = 0)
    ∧ (Reaches (cadenced 5) .hub 5 0x10C ∧ bit (0x8000002F : W32) 31 = true ∧ bits (0x8000002F : W32) 5 0 = 47 ∧ srcKind (sourceOf (cadenced 5) 47) = 5
       ∧ srcKind (sourceOf (cadenced 5) 46) ≠ 5)
    ∧ (let s := cadenced 5
       let v : W32 := 0xAAF00000
       Reaches s .hub 5 0x124 ∧ rbits s 5 0x120 9 0 = 1023 ∧ bit v 31 = true ∧ bits v 30 28 = 2 ∧ bit v 27 = true ∧ (trigOf s 1023).inc ≠ 0 ∧ bits v 25 20 = 47
       ∧ bound s 47 = true ∧ srcKind (sourceOf s (bits (trigOf s 1023).arg 5 0)) = 5 ∧ posReached s 47 (trigOf s 1023).pos = none
       ∧ bound { s with sources := [] } 47 = false ∧ bit (0x2AF00000 : W32) 31 = false)
    ∧ ((posReached (cadenced 9) 47 9).isSome = true ∧ bit (0xA2F00000 : W32) 27 = false ∧ noMajority (cadenced 9) 5 0x124 1023 31 = false) := by
  and_intros <;> first | decide +kernel | (unfold Reaches; decide +kernel)

/-- Trigger 1023 has fired at 9 ns with an action; trigger 1 has launched SEQ 7. -/
def firedOf (action arg : Nat) : Trigger := { ctl := BitVec.ofNat 32 (action * 2 ^ 28), aArg := BitVec.ofNat 32 arg, aDly := 5, aTpl := [(0, 6), (1, 0x01000000)], firings := 1 }
def firing (action arg : Nat) (s : State) : State :=
  { s with fired := [(1023, 9, firedOf action arg)], triggers := [(1, { latest := some 7, aArg := 1023 })], sources := [(47, { cfg := 0xA0000000, pos := 5, state := 1 })] }

theorem witness_CadenceActions :
    (let s := firing 1 1023 base
     s.fired.head? = some (1023, 9, firedOf 1 1023) ∧ tgAction (firedOf 1 1023) = 1 ∧ bits (firedOf 1 1023).aArg 9 0 = 1023 ∧ tfind s.queues 1023 = some q0
     ∧ ctxOf s 0 = some { vi := 0, part := 0, tag := 1 } ∧ (tailOf s 1023 + 1 - q0.head).toNat ≤ 2 ^ q0.log2)
    ∧ (submitPacket (popFired (firing 1 0 base)) 0 (launchPacket (firedOf 1 0)) = none)
    ∧ (tgAction (firedOf 2 47) = 2 ∧ srcKind (sourceOf (firing 2 47 base) 47) = 5 ∧ srcKind (sourceOf (firing 2 46 base) 46) ≠ 5)
    ∧ (tgAction (firedOf 3 0xFFF) = 3 ∧ (firing 3 0xFFF base).boot.appliance = false)
    ∧ (tgAction (firedOf 4 0x10001) = 4 ∧ (trigOf (firing 4 0x10001 base) (bits (firedOf 4 0x10001).aArg 9 0)).latest = some 7
       ∧ (trigOf (firing 4 0x10001 base) 1023).captured ≠ some 7 ∧ (trigOf (firing 4 2 base) 2).latest = none) := by decide +kernel

/-- A check of SEQ 1 of queue 1023, whose job waits, runs or has completed. -/
def deadlined (missAct : Bool) (jobs : Tbl Job) : State :=
  { base with jobs, checks := [{ trg := 1023, queue := 1023, seq := 1, due := 8, missAct }], queues := [(1023, { q0 with lastSeq := some 1 })] }

theorem witness_CadenceTimes :
    (∀ m : Bool, (deadlined m []).checks[0]? = some { trg := 1023, queue := 1023, seq := 1, due := 8, missAct := m } ∧ removeAt (deadlined m []).checks 0 = []
      ∧ seqDone (deadlined m []) 1023 1 = true)
    ∧ (∀ m b : Bool,
        let x : Job := { ready 1023 (kernelWords 8) with phase := if b then .waiting else .running }
        let s := deadlined m [(0, x)]
        seqDone s 1023 1 = false ∧ jobBySeq s 1023 1 = some 0 ∧ jobOf s 0 = some x ∧ infoHeld s 5 0x180 = false)
    ∧ (jobOf (begun (kernelWords 8) [31]) 0 = some { ready 1023 (kernelWords 8) with phase := .started, cores := [31] }
       ∧ jobActive { ready 1023 (kernelWords 8) with phase := .started, cores := [31] } = true)
    ∧ (let s : State := { at0 { grp with block := .cwait 47 0x100000000 5 } with sources := [(47, { cfg := 0x20000001, state := 1, pos := 7 })] }
       (sourceOf s 47).state = 1 ∧ srcKind (sourceOf s 47) = 1 ∧ triggersOn s 47 = [] ∧ posReached s 47 0x100000000 = none
       ∧ groupOf s 0 0 = some { grp with block := .cwait 47 0x100000000 5 })
    ∧ (let s : State := rset { at0 { grp with block := .cwait 47 9 5 } with sources := [(47, { cfg := 0x80030000, state := 1 })], ptp := { State.reset.ptp with locked := true } } 0x223 0x100 0x88000000
       srcKind (sourceOf s 47) = 4 ∧ stoppedSrc s 47 = false ∧ (awaited s 47).filter (fun v => decide (s.now ≤ v)) = [9]
       ∧ groupOf s 0 0 = some { grp with block := .cwait 47 9 5 }) := by
  and_intros <;> decide +kernel

/-- A kernel on core 31 that has been asked to yield, and one saved from there. -/
def running31 (yielding : Bool) : State :=
  { startable (kernelWords 8) with
    jobs := [(0, ready 7 (kernelWords 8)), (1, { ready 1023 (kernelWords 8) with phase := .running, cores := [31], yielding, groups := 1, nextGroup := 1, liveGroups := 1 })]
    cores := [(31, { jobs := [1], order := [2], groups := [(2, { grp with job := 1 })] })] }
def savedFrom31 : State :=
  { startable (kernelWords 8) with jobs := [(1, { ready 1023 (kernelWords 8) with phase := .saved, savedGroups := [(31, 2, { grp with job := 1 })] })] }

theorem witness_Preemption :
    (let s := rset (running31 false) 5 0x108 7
     bestJob s 0 = some 0 ∧ mayPreempt s 0 0 1 = true ∧ mayPreempt s 0 0 0 = false)
    ∧ (let s := running31 true
       (jobOf s 1).map (fun x => (x.yielding, x.phase, x.cores, atBoundary s 1 x)) = some (true, .running, [31], true) ∧ logicalOf s 31 = some 31
       ∧ 2 ∈ (coreOf s 31).order ∧ groupOf s 31 2 = some { grp with job := 1 })
    ∧ (let s := savedFrom31
       (jobOf s 1).map (fun x => (x.phase, jobTargets s x, coreOpen s x.ctx 31, fits s x 31 31, x.savedGroups.map (·.1))) = some (.saved, [31], true, true, [31])
       ∧ physOf s 31 = some 31 ∧ groupOf s 31 2 = none) := by and_intros <;> decide +kernel

/-! ### Power, the always-on block, health and reliability -/

/-- Domain `d` with a record, selected by PWR_DOM_SEL. -/
def domained (d : Nat) (x : Domain) (s : State) : State := rset { s with domains := [(d, x)] } 3 0x108 (BitVec.ofNat 32 d)

theorem witness_PowerDomains :
    (let s := domained 35 { op := 2 } State.reset
     let v : W32 := 0xB0800000
     bit v 31 = true ∧ bits v 30 28 = 3 ∧ rbits s 3 0x108 7 0 = 35 ∧ 3 ∈ domStates 35 ∧ (domOf s 35).target = none ∧ s.rel.pfail = false ∧ bit v 23 = true
     ∧ domIsCore 35 = true ∧ (domOf s 35).op = 2 ∧ firstRefusal s 35 [] = none ∧ firstRefusal s 35 [(0x18F, 7)] = some (0x18F, 7) ∧ infoHeld s 3 0x114 = false)
    ∧ (let s := domained 0x30 {} State.reset
       bit (0x90000000 : W32) 31 = true ∧ bits (0x90000000 : W32) 30 28 = 1 ∧ rbits s 3 0x108 7 0 = 0x30 ∧ 1 ∈ domStates 0x30 ∧ firstRefusal s 0x30 [] = none)
    ∧ (let s := domained 0x57 {} State.reset
       bit (0xA0000000 : W32) 31 = true ∧ bits (0xA0000000 : W32) 30 28 = 2 ∧ rbits s 3 0x108 7 0 = 0x57 ∧ 2 ∈ domStates 0x57 ∧ firstRefusal s 0x57 [] = none)
    ∧ (let s : State := { domained 35 { state := 3 } State.reset with domains := [(35, { state := 3 }), (32, { state := 3 }), (33, { state := 3 }), (34, { state := 3 })] }
       bit (0x83000000 : W32) 31 = true ∧ bits (0x83000000 : W32) 30 28 = 0 ∧ 0 ∈ domStates 35 ∧ (domOf s 35).state ≠ 0 ∧ (roleOf s 35).role = 1 ∧ poweredSpares s = []
       ∧ ∀ a ∈ [(0, 0), (0, 8)], a.2 = 0 ∨ 7 < a.2)
    ∧ (let s := domained 0x4D { state := 2 } State.reset
       domStates 0x4D ≠ [] ∧ (domOf s 0x4D).target = none ∧ (domOf s 0x4D).state ≠ 0 ∧ rbits (rset s 0x200 0x100 0x200000) 0x200 0x100 22 20 = 2)
    ∧ (∀ b : Bool, let s := domained 0x4C { target := some 2, wake := b } State.reset
       domStates 0x4C ≠ [] ∧ (domOf s 0x4C).target = some 2 ∧ (domOf s 0x4C).test = none ∧ (domOf s 0x4C).wake = b ∧ s.now ≤ (domOf s 0x4C).since + 100000
       ∧ infoHeld s 3 0x114 = false)
    ∧ (domOf (domained 0 { state := 3, target := some 0 } State.reset) 0).target = some 0
    ∧ (let s : State := domained 35 { op := 1 } State.reset
       (domOf s 35).state = 0 ∧ (domOf s 35).target = none ∧ mayChange s 35 3 = true ∧ mayChange s 35 0 = true ∧ s.power.faulted = false ∧ noMajority s 3 0x10C 35 24 = false
       ∧ railCovers s 3 = false ∧ railCovers { s with power := { s.power with accepted := 900 } } 3 = true) := by decide +kernel

/-- The rail with some commands, and a raise of core 35 that waits for it. -/
def railed (f : Power → Power) : State := { State.reset with domains := [(35, { opWanted := some 2 })], power := f State.reset.power }
/-- Two partitions: cores 0-15 best-effort, 16-31 real-time at OP1. -/
def parted : State :=
  { State.reset with
    parts := [(0, { realTime := false, cores := 0xFFFF, pcs := 0, ways := 0, op := 0, graphics := true }), (1, { realTime := true, cores := 0xFFFF0000, pcs := 0, ways := 0, op := 2 })]
    domains := (List.range 32).map fun p => (p, { op := if p < 16 then 3 else 2 }) }

theorem witness_RailAndBudget :
    ((railed fun p => { p with command := [745, 625] }).power.command = [745, 625] ∧ State.reset.power.faulted = false ∧ State.reset.power.slewing = false
       ∧ (railed fun p => { p with slewing := true }).power.slewing = true ∧ (railed fun p => { p with tries := 3 }).power.tries = 3)
    ∧ (let s := railed fun p => { p with accepted := 745, slewing := true }
       s.power.accepted ≤ 735 + 10 ∧ 755 ≤ s.power.accepted + 10 ∧ (domOf s 35).opWanted = some 2 ∧ opVolt 2 + rbits s 3 0x118 15 8 ≤ s.power.accepted)
    ∧ (bestEffort parted 15 = true ∧ bestEffort parted 16 = false ∧ isGraphics parted 0 = true ∧ overCap { parted with power := { parted.power with caps := [1, 2, 3, 4] } } 1 3 = true
       ∧ noMajority parted 3 0x10C 15 24 = false ∧ (domOf parted 15).state ≤ 1 ∧ budgetMw (profileOf parted) < 190001)
    ∧ (let s : State := { State.reset with domains := [] }
       ∀ p < 36, bestEffort s p = true → (domOf s p).op = 0 ∨ 1 < (domOf s p).state)
    ∧ (Reaches (rset parted 3 0x100 1) .hub 3 0x100 ∧ bits (2 : W32) 1 0 ≠ profileOf (rset parted 3 0x100 1) ∧ profileOk (rset parted 3 0x100 1) 2 = true
       ∧ profileOk (rset parted 3 0x100 1) 0 = false) := by
  and_intros <;> first | decide +kernel | (unfold Reaches; decide +kernel)

/-- A device in Off that every source may wake, whose timer is set; its links listen for a wake pattern. -/
def offDevice (after_ : Nat) : State :=
  rset (rset (rset { State.reset with power := { State.reset.power with off := true, offAt := 14000000 }, pins := { State.reset.pins with powered := false, railEn := 0 }, now := after_ }
    3 0x128 7) 3 0x12C 60) 0x217 0x100 0x10000000

theorem witness_AlwaysOnBlock :
    ((rolling.pins.powered = true ∧ (booted (fun b => { b with started := true }) base).boot.started = true)
     ∧ (let s := offDevice 14000000
        asleep s = true ∧ s.power.offAt ≤ s.now ∧ wakeEn s 0 = true ∧ wakeEn s 1 = true ∧ wakeEn s 2 = true ∧ s.pins.tripped = false ∧ rget s 3 0x12C ≠ 0
        ∧ bit (rget s 0x217 0x100) 28 = true))
    ∧ (let s : State := rset { State.reset with domains := [(0x57, { state := 2 })] } 0x217 0x100 0x10000000
       s.pins.powered = true ∧ bit (rget s 0x217 0x100) 28 = true ∧ 2 ≤ (domOf s (0x50 + 7)).state ∧ (domOf s (0x50 + 7)).target = none)
    ∧ (let s : State := { State.reset with pins := { State.reset.pins with powered := false, rising := true, attempts := 2 } }
       s.pins.rising = true ∧ s.pins.powered = false)
    ∧ (let s : State := { State.reset with pins := { State.reset.pins with powered := false, attempts := 2, failedAt := 7 } }
       s.pins.powered = false ∧ s.pins.rising = false ∧ 1 ≤ s.pins.attempts ∧ s.pins.attempts < 3)
    ∧ (tTrip State.reset ≤ 115 ∧ (114 : Int) < tTrip State.reset ∧ tLimit State.reset ≤ 95 ∧ tWarn State.reset ≤ 90 ∧ (90 : Int) < tLimit State.reset ∧ State.reset.power.thermal = 0
       ∧ tTrip (fused [5280, 5282] State.reset) = 125)
    ∧ (let s : State := { State.reset with pins := { State.reset.pins with tripped := true, powered := false, coolSince := some 5 } }
       s.pins.tripped = true ∧ s.pins.coolSince = some 5) := by decide +kernel

theorem witness_HealthStoreTokens :
    (({ page := 0x18F, kind := 255, severity := 2 } : JournalInput).kind < 256 ∧ ({ page := 0x18F, kind := 255, severity := 3 } : JournalInput).severity < 4
     ∧ ({ State.reset with rel := { State.reset.rel with tokens := 0 } } : State).rel.tokens = 0) := by decide

/-- A rotation step that moves logical core 31 to core 35, and core 31 retired with or without spares left. -/
def rotation : State := { State.reset with rel := { State.reset.rel with rotating := some (31, 35) } }
def lostCore (spares : Bool) : State :=
  { State.reset with roles := (List.range 36).map fun p => (p, { role := if p = 31 then 2 else if p < 32 || !spares then 0 else 1, testAt := if p = 34 then 9 else 3 }) }
def stoppedPair : State := { State.reset with pairs := [(3, { state := 3, stoppedAt := 7, strikes := 1, strikeAt := 6 })] }

theorem witness_CoresAndPairs :
    (physOf rotation 31 = some 31 ∧ (roleOf rotation 35).role = 1 ∧ (domOf rotation 35).state = 0 ∧ (domOf rotation 35).target = none ∧ (coreOf rotation 31).jobs = []
     ∧ rotation.rel.pfail = false ∧ rotation.rel.rotating = some (31, 35) ∧ 31 ∉ rotation.rel.moveOff)
    ∧ (physOf (lostCore true) 31 = some 31 ∧ (roleOf (lostCore true) 31).role = 2 ∧ (lostCore true).rel.pfail = false ∧ (lostCore true).rel.rotating = none
       ∧ greatestBy (testedAt (lostCore true)) (spares (lostCore true)) = some 34 ∧ spares (lostCore false) = [])
    ∧ (let s : State := { rset State.reset 4 0x100 0x80010000 with roles := (lostCore true).roles, domains := [(33, { state := 3 }), (34, { state := 3 }), (35, { state := 3 })] }
       rbits s 4 0x100 31 31 = 1 ∧ s.rel.vacated = none ∧ (∀ q < 36, (domOf s q).test = none) ∧ leastBy (testedAt s) (spares s) = some 32
       ∧ leastBy (testedAt s) ((rotationCores s).filter fun p => (logicalOf s p).isSome) = some 0 ∧ logicalOf s 0 = some 0 ∧ ∀ q ∈ poweredSpares s, q = 32)
    ∧ (roleOf { State.reset with roles := [(35, { role := 0, strikes := 1 })] } 35).strikes = 1
    ∧ ((pairOf State.reset 3).state = 2 ∧ (pairOf stoppedPair 3).state = 3) := by decide +kernel

theorem witness_HealthStore :
    (let r : Record := { time := 1, page := 4, kind := 0x100, severity := 3, seq := 5, info := [] }
     let s : State := { State.reset with rel := { State.reset.rel with hsPending := [{ r with kind := 3 }], hsRing := List.replicate 256 r } }
     s.rel.hsPending = { r with kind := 3 } :: [] ∧ ¬ s.rel.hsRing.length < 256 ∧ s.rel.pfail = false ∧ (∀ x ∈ s.rel.hsPending, x.kind ≠ 0x100) ∧ newerStates s ≠ [])
    ∧ (64 ≤ ({ State.reset.rel with rotSteps := 64 } : Rel).rotSteps)
    ∧ (State.reset.rel.pfail = false ∧ State.reset.pins.powered = true ∧ State.reset.rel.hsRing.length + State.reset.rel.hsPending.length ≤ 256)
    ∧ ({ State.reset.rel with pfail := true } : Rel).pfail = true := by decide +kernel

/-! ### Links, register space -/

/-- Link 7 in some state with two flits in its replay buffer. -/
def linked (f : Link → Link) : State :=
  { State.reset with links := [(7, f { state := 3, lanes := 2, peer := 3, keys := true, crReq := 5, replay := [(4095, { op := 0 }), (0, { op := 3 })], expectSeq := 4095 })] }

theorem witness_SpokeFlits :
    (let l := linkOf (linked id) 7
     l.state = 3 ∧ l.keys = true ∧ l.waiting = [] ∧ l.expectSeq = 4095 ∧ l.replay = [] ++ (4095, { op := 0 }) :: [(0, { op := 3 })] ∧ (∀ x ∈ l.replay, x.1 ≠ 7)
     ∧ (l.replay.dropWhile fun x => x.1 != 0) ≠ [] ∧ (l.replay.dropWhile fun x => x.1 != 7) = [])
    ∧ (let f : Flit := { kind := 1, seq := 4095, ack := 4095 }
       f.fecOk = true ∧ f.tagOk = true ∧ f.kind < 2)
    ∧ ((((linkOf (linked fun l => { l with tagFails := List.replicate 64 0 }) 7).tagFails.filter fun t => decide ((0 : Nat) < t + 1000000000)) ++ [0]).length = 65)
    ∧ (linkOf (linked fun l => { l with replayRun := 7, state := 2, keys := false }) 7).replayRun = 7 := by decide +kernel

theorem witness_SpokeTraining :
    ((linkOf (linked fun l => { l with state := 1 }) 7).state = 1 ∧ widthOf 0xC = some 1 ∧ spkLanesMin (linked id) 7 ≤ 1
       ∧ (∀ good ∈ ([0, 1] : List Nat), ∀ w < 3, widthOf (BitVec.ofNat 4 good) = some w → w < spkLanesMin (rset (linked id) 0x217 0x100 0x20000000) 7))
    ∧ (let l := linkOf (linked fun l => { l with ctr := 2 ^ 48 - 1 }) 7
       l.state = 3 ∧ ctrSpent l = true ∧ spkLanesMin (linked id) 7 ≤ min 0 l.lanes ∧ widthOf 8 = some 0)
    ∧ (linkOf (linked fun l => { l with state := 4 }) 7).state = 4
    ∧ ((∀ r ∈ (linked id).remotes, r.link ≠ 7) ∧ ownId (linked id) ≠ 3 ∧ routeOf (rset (linked id) 0x210 0x184 0xFFFF7FFF) 3 = some 7) := by decide +kernel

def offer : AdmissionOffer := { id := 3, keyHash := 5, signatureOk := true, members := [(3, 5), (4, 6)] }

theorem witness_TandemGroups :
    (let s := linked fun l => { l with state := 2, keys := false }
     (linkOf s 7).state = 2 ∧ (linkOf s 7).retryAt = 0 ∧ admits s 7 offer = true ∧ admits s 7 { offer with id := 0 } = false)
    ∧ (linkOf (linked fun l => { l with state := 2, retryAt := 9 }) 7).retryAt ≠ 0
    ∧ (let s : State := { linked id with members := [(3, 5)] }
       (linkOf s 7).state = 3 ∧ (([(3, 5), (4, 6)] : List (Nat × BitVec 384)).map (·.1)).Nodup ∧ (∀ m ∈ ([(3, 5), (4, 6)] : List (Nat × BitVec 384)), m.1 < 16)
       ∧ memberKey s 3 = some 5 ∧ memberKey s 4 = none)
    ∧ (let s : State := { linked id with unreachable := [(3, 9)], fences := [(9, proxy)] }
       3 ≠ ownId s ∧ reachable s 3 = false ∧ tfind s.fences 9 = some proxy ∧ proxy.home = some (3, 2)) := by decide +kernel

theorem witness_ReservedBitsAndRefusals :
    (∃ r, regRow 0x18C 0x100 = some r ∧ ∀ f ∈ r.flds, 15 < f.lo ∨ f.hi < 15)
    ∧ (∃ r, regRow 0x100 0x100 = some r ∧ reach State.reset .hub 0x100 0x100 true true = .full 0x100
        ∧ ∀ f ∈ r.flds, bits (0x10001 : W32) f.hi f.lo = bits (0x8001F001 : W32) f.hi f.lo)
    ∧ (let s := base
       reach s .pf 0x100 0x100 true true = .refused (some 0x100) 1 1 0 0x100 ∧ reach s .pf 0x3000 0x100 true false = .refused none 1 3 0 0x3000 ∧ infoHeld s 0 0x10C = false
       ∧ infoHeld (rset s 0 0x10C 0x80000000) 0 0x10C = true) := by
  refine ⟨?_, ?_, by decide +kernel⟩
  · exact ⟨_, rfl, by decide +kernel⟩
  · exact ⟨_, rfl, by decide +kernel⟩

theorem witness_RegisterAccesses :
    (reach State.reset .hub 0x18C 0x7FC true true = .full 0x18C ∧ regRow 0x18C 0x7FC = none)
    ∧ (∃ r, regRow 0 0x100 = some r ∧ reach State.reset .hub 0 0x100 true true = .full 0 ∧ ∀ f ∈ r.flds, f.acc = .ro ∨ f.acc = .rc)
    ∧ (pgCore 35 = 0x18C ∧ reach State.reset .hub 0x18C 0x100 true true = .full 0x18C)
    ∧ (base.boot.up = true ∧ pageExists 0x18C = true)
    ∧ (∃ r, regRow 0x18C 0x110 = some r ∧ reach State.reset .hub 0x18C 0x110 true false = .full 0x18C ∧ pageKind 0x18C ≠ .pmc ∧ pageKind 0x18C ≠ .mem
        ∧ ∃ f ∈ r.flds, f.acc = .rc) := by
  refine ⟨by decide +kernel, ⟨_, rfl, by decide +kernel⟩, by decide +kernel, by decide +kernel, ⟨_, rfl, by decide +kernel⟩⟩

theorem witness_MailboxesAndVoting :
    (reach State.reset .hub 0x18C 0x18 true true = .full 0x18C ∧ pageKind 0x18C ≠ .vi ∧ bit (0x80000002 : W32) 31 = true
     ∧ selection State.reset 0x18C 2 = some ([0], false) ∧ selection State.reset 0x18C 255 = none)
    ∧ (let s : State := { State.reset with mbx := [(0x18C, { words := [7, 8], valid := true, nw := 2 })] }
       reach s .hub 0x18C (0x20 + 4 * 1) true false = .full 0x18C ∧ (tget {} s.mbx 0x18C : Mailbox).nw = 1 + 1)
    ∧ (let s : State := { base with vis := [(63, { viOf base 63 with replies := [[1, 2, 3, 4]] })] }
       reach { s with numVfs := 63 } (.view 63) 0 (0x20 + 4 * 7) true false = .full 0x1003F ∧ pageKind 0x1003F = .vi ∧ (viOf s (0x1003F - 0x10000)).replies = [1, 2, 3, 4] :: [])
    ∧ hifLinkOk 0xC8000000 = true ∧ (0xC8000000 : W32) ≠ rget State.reset 0x200 0x100 := by decide +kernel

/-! ### Raster batches and bins -/

/-- A pass of one bin: a colour attachment at 0x6000, depth in ONCHIP mode (or FASTCLR), the pool header at 0x5000, flags at 0x5800. -/
def passWords (fast : Bool) : List W64 :=
  [if fast then 0x0020002090000000 else 0x0020002010000000, 0x5000, 0x5800, 0x3F80000000000000, 0x0050000000006000, 0x80, 0] ++ List.replicate 9 0
/-- A draw of one triangle with vertices at 0x7000; `flags`: WMASK, BLEND, DISC, CULL, DCMP, DWRITE, DTEST. -/
def drawRecord (flags : Nat) : List W64 := [0x1000, 0x2000, 0, 0x300000001, 0, 0x7000, BitVec.ofNat 64 flags, 0x0020002000000000]
def drawWords : List W64 := [0x0200000000000001, 0, 0, 0, 0x0008000000004000, 0x4400, 0x8000000000010000, 0x10800]
/-- Positions (0, 0), (0, 32) and (32, 0), each with w = 1, in binary32; the pool's BASE 0x8000 and LIMIT. -/
def scene (fast : Bool) (flags limit : Nat) (s : State) : State :=
  packetAt (packetAt (packetAt (packetAt s 0x4000 (passWords fast)) 0x4400 (drawRecord flags)) 0x5000 [0x8000, BitVec.ofNat 64 limit, 0, 0, 0, 0, 0, 0])
    0x7000 [0, 0x3F80000000000000, 0x4200000000000000, 0x3F80000000000000, 0x42000000, 0x3F80000000000000]
def drawJob (f : Job → Job) : Job := f { ready 1023 drawWords with phase := .started, cores := [31] }
def drawing (fast : Bool) (flags limit : Nat) (f : Job → Job) : State := { scene fast flags limit base with jobs := [(0, drawJob f)] }
/-- The batch in progress: its pass and draw read. -/
def batch0 (fast : Bool) (flags : Nat) : Batch := { pass := passWords fast, draws := [drawRecord flags], blocks := 1 }
def shaded (b : Batch) : Job → Job := fun x => { x with phase := .running, groups := 1, nextGroup := 1, batch := b }
def corners : List (List Nat) := [[0, 0, 0, 0x3F800000], [0, 0x42000000, 0, 0x3F800000], [0x42000000, 0, 0, 0x3F800000]]
def triangle : Tri := { draw := 0, prim := 0, pts := [(0, 0), (0, 8192), (8192, 0)], verts := corners }
def binned (fast : Bool) (flags : Nat) : Batch := { batch0 fast flags with setUp := 1, bins := [(0, 0, 0)], tris := [triangle], blocks := 2 }

theorem witness_RasterBatches :
    (let s := drawing false 0x1003 64 id
     let x := drawJob id
     jobOf s 0 = some x ∧ pkType x.words = 2 ∧ x.cores = 31 :: [] ∧ vregsOk (jobVregs x) = true ∧ bits (pkW x 6) 31 16 = 1 ∧ bits (pkW x 7) 20 10 = 66
     ∧ (rangeRead s 31 (tagOf s 0) 0x4000 128).toOption = some ((passWords false).flatMap fun v => natLe 8 v.toNat) ∧ passOk (passWords false) = true
     ∧ passOk (passWords true) = true ∧ passOk ((passWords false).set 1 0x5001) = false ∧ recordOk (passWords false) (drawRecord 0x1003) = true
     ∧ recordOk (passWords false) (drawRecord 0x60) = false
     ∧ (rangeRead s 31 (tagOf s 0) 0x4400 64).toOption = some ((drawRecord 0x1003).flatMap fun v => natLe 8 v.toNat)
     ∧ ctxOf s 0 = some { vi := 0, part := 0, tag := 1 } ∧ (rangeRead s 31 (tagOf s 0) 0x5000 64).toOption.isSome = true)
    ∧ (let s := drawing false 0x1003 64 (shaded (batch0 false 0x1003))
       (primVerts s 31 (tagOf s 0) (drawRecord 0x1003) 0).toOption = some (some corners) ∧ setupTri (drawRecord 0x1003) corners = some triangle.pts
       ∧ setupTri (drawRecord 0x1043) corners = none ∧ (primVerts s 31 (tagOf s 0) (drawRecord 0x1003) 1).toOption = some none
       ∧ (rangeNat s 31 (tagOf s 0) 0x5000 6).toOption = some 0x8000 ∧ (rangeNat s 31 (tagOf s 0) 0x5008 4).toOption = some 64
       ∧ binsOf (passWords false) (drawRecord 0x1003) triangle.pts = [0] ∧ headBlocks (passWords false) = 1 ∧ (needBlocks (batch0 false 0x1003) [0]) = [0]
       ∧ drawShaded s 0 (drawJob (shaded (batch0 false 0x1003))) = true)
    ∧ (∀ fast : Bool, (putPool (drawing fast 0x1003 1 (shaded (batch0 fast 0x1003))) 31 1 (batch0 fast 0x1003) (!fast)).toOption.isSome = true)
    ∧ (putPool (drawing false 0x1003 64 (shaded (binned false 0x1003))) 31 1 (binned false 0x1003) false).toOption.isSome = true
    ∧ (let b := { batch0 false 0x1003 with stalled := true }
       let s := drawing false 0x1003 1 (shaded b)
       tagOf s 0 = 1 ∧ (rangeNat s 31 1 0x5008 4).toOption = some 1 ∧ b.blocks = 1 ∧ b.setUp < b.draws.length
       ∧ (putPool (drawing false 0x1003 64 (shaded b)) 31 1 b false).toOption.isSome = true) := by
  and_intros <;> decide +kernel

/-- Core 31 on the bin of the batch in its bin phase, or before it. -/
def rastered (fast : Bool) (flags : Nat) (r : Raster) (ls : Tbl Byte) : State :=
  { drawing fast flags 64 (shaded { binned fast flags with binPhase := true }) with cores := [(31, { jobs := [0], raster := r, ls })] }
def frag0 : Fragment := { x := 0, y := 0, prim := 0 }
def groupAt : FragGroup := { slot := 47, index := 1, draw := 0, frags := [frag0] }

theorem witness_RasterBins :
    (let s := rastered true 0x1003 {} []
     let x := drawJob (shaded { binned true 0x1003 with binPhase := true })
     logicalOf s 31 = some 31 ∧ (coreOf s 31).raster.bin = none ∧ binJob s 31 31 = some (0, x, 0) ∧ (surfaces x.batch.pass) = [0, 4] ∧ loadOp x.batch 0 = 1 ∧ loadOp x.batch 4 = 0
     ∧ psFlags x.batch.pass ≠ 0 ∧ psFast (passWords false) = false ∧ (initAll s 31 1 x.batch 0 [0]).toOption.isSome = true ∧ tagOf s 0 = 1)
    ∧ ((binFragments (binned false 0x1003) 0).head? = some (0, frag0) ∧ (binFragments (binned false 0x1003) 0).length = 496
       ∧ ((binFragments (binned false 0x1083) 0).take 1) = [frag0].map fun f => (0, f))
    ∧ (let c := coreOf (rastered false 0x1080 { job := some 0, bin := some 0 } []) 31
       c.raster.job = some 0 ∧ c.raster.bin = some 0 ∧ drDisc (drawRecord 0x1080) = true ∧ drDisc (drawRecord 0x1000) = false ∧ drDtest (drawRecord 0x1000) = false
       ∧ jobVregs (drawJob id) / 8 ≤ granFree c ∧ fragSlot c = some 0
       ∧ (depthEarly (drawJob id) 31 (drawRecord 0x1001) 0 [frag0] c).2 = [])
    ∧ (let s := rastered false 0x1080 { job := some 0, bin := some 0, frags := [groupAt], gathered := 1 } [(firstRange (drawJob id) + 0x1000 * 47 + 3584, 1)]
       lsByte (coreOf s 31) (recordBase (drawJob id) 47 + 3584) ≠ 0 ∧ groupOf s 31 47 = none ∧ psNcol (passWords false) = 1)
    ∧ (let s := rastered false 0x1003 { job := some 0, bin := some 0, gathered := 496, cleared := 1 } []
       (coreOf s 31).raster.frags = [] ∧ (coreOf s 31).raster.cleared.getLsbD 0 = true ∧ (coreOf s 31).raster.written.getLsbD 0 = false ∧ psStore (passWords false) 0 = true
       ∧ psFlush (passWords false) = false ∧ (rangeNat s 31 1 0x5800 1).toOption = some 0 ∧ (rangePas s 31 1 .w 0x5800 1).toOption = some [0x5800]
       ∧ (storeAll 31 1 31 (drawJob (shaded { binned false 0x1003 with binPhase := true })) (coreOf s 31).raster 0 [0] s).toOption.isSome = true) := by
  and_intros <;> decide +kernel

/-! ### Video, audio and display -/

/-- Distinct byte addresses that an access reaches; a translation fault that it meets. -/
def distinct {ε : Type} (r : Except ε (List Nat)) : Bool := match r with | .ok pas => decide pas.Nodup | .error _ => false
def faulted (b : Option (Nat × EdgeBad)) : Bool := match b with | some (_, .fault _ _) => true | _ => false

/-- A channel descriptor: KIND, FMTX, LINES, LINEB, PITCH; two slots at 0x8000, slot records at 0x7000 and a ready word at 0x6000. -/
def chanWords (kind fmtx lines lineb pitch record ready : Nat) (addr rate : W64) : List W64 :=
  [BitVec.ofNat 64 (kind * 2 ^ 60 + 2 * 2 ^ 54 + fmtx * 2 ^ 48 + lines * 2 ^ 32 + lineb), 0x8000, BitVec.ofNat 64 (0x400 * 2 ^ 32 + pitch), BitVec.ofNat 64 record, addr,
   BitVec.ofNat 64 ready, rate, 0]
/-- A port that is up, with the channel at 5:1 (`ch` of `page`) running under tag 1. -/
def channelled (page ch : Nat) (d : List W64) (f : VChan → VChan) : State :=
  setVChan (rset (rset base page 0x100 0x80000000) page 0x104 0x80000000) page ch (f { ctl := 0x80000001, desc := d, state := 1, begun := true, inFrame := true })
def videoIn : List W64 := chanWords 1 0 8 16 16 0x7000 0 0x0A00000113C40060 0
def packet (rows : List (Nat × Nat × List Byte)) (marker : Bool) (stamp : W32) : VideoPacket := { port := 3, dst := 0x0A000001, udp := 0x13C4, pt := 0x60, stamp, marker, rows }
def row16 : List Byte := (List.range 16).map fun i => BitVec.ofNat 8 (i + 1)
def audioPacket (bs : List Byte) (stamp : W32) : AudioPacket := { port := 3, dst := 0x0A000001, udp := 0x13C4, pt := 0x60, stamp, payload := bs }

theorem witness_VideoChannels :
    (let s := setVChan (rset (packetAt base 0x4000 videoIn) 0x223 0x108 31) 0x223 31 { descAddr := 0x4000 }
     isVio 0x223 = true ∧ Reaches s .hub 0x223 0x10C ∧ rbits s 0x223 0x108 4 0 = 31 ∧ s.power.ioHeld = false ∧ (chanOf s 0x223 31).state ≠ 1
     ∧ (chanOf s 0x223 31).descAddr.toNat % 64 = 0 ∧ bit (0x80000001 : W32) 31 = true
     ∧ (rangeRead s (vioUnit 0x223) 1 0x4000 64).toOption = some (videoIn.flatMap fun v => natLe 8 v.toNat) ∧ chanShape s 0x223 31 videoIn = true
     ∧ chanFits s 0x223 31 1 videoIn = true ∧ chanShape s 0x224 0 videoIn = false)
    ∧ (let s := setVChan base 0x220 0 { descAddr := 0x4001 }
       Reaches s .hub 0x220 0x10C ∧ rbits s 0x220 0x108 4 0 = 0 ∧ (chanOf s 0x220 0).descAddr.toNat % 64 ≠ 0 ∧ (chanOf s 0x220 0).inFrame = false)
    ∧ (let s := channelled 0x223 31 videoIn id
       portUp s 0x223 = true ∧ matchChan s 0x223 0x0A000001 0x13C4 0x60 = some 31 ∧ matchChan s 0x223 0x0A000002 0x13C4 0x60 = none ∧ chKind (chanOf s 0x223 31).desc ≠ 2) := by
  and_intros <;> first | decide +kernel | (unfold Reaches; decide +kernel)

theorem witness_VideoReception :
    (let s := channelled 0x223 31 videoIn fun c => { c with landed := 5, frame := 2 ^ 48 - 1 }
     let c := chanOf s 0x223 31
     portUp s 0x223 = true ∧ matchChan s 0x223 0x0A000001 0x13C4 0x60 = some 31 ∧ chKind c.desc = 1 ∧ running c = true ∧ chSources s 1 0x223 31 = [] ∧ c.begun = true
     ∧ 0 < chLineb c.desc ∧ c.stamp = 0 ∧ c.inFrame = true ∧ c.seen = [] ∧ row16.length = chLineb c.desc ∧ 7 < chLines c.desc ∧ 7 = c.landed + 2
     ∧ (∀ line ∈ [5, 7], distinct (rangePas s (vioUnit 0x223) (chTag c) .w (slotOf c.desc c.frame + line * chPitch c.desc) 16)))
    ∧ (chRec (chanWords 1 0 8 16 16 0 0 0 0) = 0 ∧ (0 : W32) ≠ 1)
    ∧ (let s := channelled 0x223 31 videoIn fun c => { c with landed := 8, frame := 1 }
       let c := chanOf s 0x223 31
       c.landed = chLines c.desc ∧ chRec c.desc ≠ 0
       ∧ (distinct (rangePas s (vioUnit 0x223) (chTag c) .w (chRec c.desc + 32 * (c.frame % chNfr c.desc)) 32)))
    ∧ (let s := channelled 0x22B 15 videoIn fun c => { c with landed := 7 }
       let c := chanOf s 0x22B 15
       portUp s 0x22B = true ∧ running c = true ∧ chSources s 1 0x22B 15 = [] ∧ c.inFrame = true ∧ c.landed < chLines c.desc ∧ chRec c.desc ≠ 0
       ∧ (distinct (rangePas s (vioUnit 0x22B) (chTag c) .w (slotOf c.desc c.frame + c.landed * chPitch c.desc) (min (chLineb c.desc) 16)))
       ∧ (distinct (rangePas s (vioUnit 0x22B) (chTag c) .w (chRec c.desc + 32 * (c.frame % chNfr c.desc)) 32)))
    ∧ (chanOf (channelled 0x22B 15 videoIn fun c => { c with inFrame := false }) 0x22B 15).inFrame = false
    ∧ (let s := channelled 0x223 31 (chanWords 2 1 2 8 0 0 0 0x0A00000113C40060 0) fun c => { c with pos := 9 }
       let c := chanOf s 0x223 31
       matchChan s 0x223 0x0A000001 0x13C4 0x60 = some 31 ∧ running c = true ∧ c.begun = true ∧ chKind c.desc = 2 ∧ chSources s 3 0x223 31 = [] ∧ chFmtx c.desc = 1
       ∧ 0 < chLines c.desc ∧ (audioPacket [1, 2, 3, 4, 5, 6] 9).payload.length = 3 * chLines c.desc ∧ (9 : W32) = BitVec.ofNat 32 c.pos
       ∧ (distinct (rangePas s (vioUnit 0x223) (chTag c) .w (sampleAddr c.desc c.pos) (4 * chLines c.desc))))
    ∧ (let s := channelled 0x223 31 (chanWords 3 0 2 0 0 0 0 0x0A00000113C40060 0) fun c => { c with entry := 1 }
       let c := chanOf s 0x223 31
       matchChan s 0x223 0x0A000001 0x13C4 0x60 = some 31 ∧ chKind c.desc = 3 ∧ c.stamp = 0 ∧ c.entry < chLines c.desc
       ∧ (distinct (rangePas s (vioUnit 0x223) (chTag c) .w (slotOf c.desc c.frame + 1024 * c.entry) (4 + 6))))
    ∧ (let s := channelled 0x22F 0 (chanWords 2 0 2 8 0 0 0 0 0) fun c => { c with pos := 15 }
       let c := chanOf s 0x22F 0
       portUp s 0x22F = true ∧ running c = true ∧ running (chanOf s 0x22F 1) = false ∧ chSources s 3 0x22F 0 = []
       ∧ (distinct (rangePas s (vioUnit 0x22F) (chTag c) .w (sampleAddr c.desc c.pos) (4 * chLines c.desc)))) := by
  and_intros <;> decide +kernel

theorem witness_VideoTransmission :
    (let s := wr (channelled 0x223 31 (chanWords 9 0 1 16 16 0 0x6000 0 0x3C00000001) fun c => { c with lastCount := 7 }) 0x6000 0x70001
     let c := chanOf s 0x223 31
     isEth 0x223 = true ∧ portUp s 0x223 = true ∧ running c = true ∧ chKind c.desc = 9 ∧ c.begun = true ∧ chLines c.desc = 1
     ∧ (rangeNat s (vioUnit 0x223) (chTag c) (chReady c.desc) 8).toOption = some 0x70001
     ∧ (rangeRead s (vioUnit 0x223) (chTag c) (chBase c.desc + 1 * chStride c.desc) (chLineb c.desc)).toOption.isSome = true)
    ∧ (let s := channelled 0x223 31 (chanWords 0xA 0 2 8 0 0 0x6000 0 0) fun c => { c with pos := 9 }
       let c := chanOf s 0x223 31
       chKind c.desc = 0xA ∧ (rangeRead s (vioUnit 0x223) (chTag c) (sampleAddr c.desc c.pos) (4 * chLines c.desc)).toOption.isSome = true)
    ∧ (let s := wr (wr (channelled 0x223 31 (chanWords 0xB 0 1 0 0 0 0x6000 0 0) id) 0x6000 0x70001) 0x8400 0x1122334400000004
       let c := chanOf s 0x223 31
       chKind c.desc = 0xB ∧ chLines c.desc = 1 ∧ (rangeNat s (vioUnit 0x223) (chTag c) (chReady c.desc) 8).toOption = some 0x70001
       ∧ (rangeNat s (vioUnit 0x223) (chTag c) (chBase c.desc + 1 * chStride c.desc) 4).toOption = some 4
       ∧ (rangeRead s (vioUnit 0x223) (chTag c) (chBase c.desc + 1 * chStride c.desc + 4) 4).toOption.isSome = true)
    ∧ (let s := channelled 0x22F 1 (chanWords 0xA 0 2 8 0 0 0 0 0) id
       let c := chanOf s 0x22F 1
       portUp s 0x22F = true ∧ running c = true ∧ running (chanOf s 0x22F 0) = false
       ∧ (rangeRead s (vioUnit 0x22F) (chTag c) (sampleAddr c.desc c.pos) (4 * chLines c.desc)).toOption.isSome = true)
    ∧ (let s := rset base 0x223 0x100 0x88000000
       servoPort s = some 3 ∧ (∀ x ∈ s.sources, srcKind x.2 ≠ 4) ∧ s.ptp.locked = false ∧ s.ptp.everLocked = false ∧ s.ptp.good < 15)
    ∧ (({ locked := true, bad := 3 } : Ptp).bad = 3 ∧ ({ good := 15 } : Ptp).good = 15 ∧ ({ everLocked := true } : Ptp).everLocked = true) := by
  and_intros <;> decide +kernel

/-- Pipe 3: 8 columns of 100 and 4 lines of 12, at 1,000 kHz, with tag 1 and its pointer slot at 0x4000. -/
def piped (f : Pipe → Pipe) : State :=
  { base with pipes := [(3, f { on := true, cfg := 0x80000001, htim := 0x640008, vtim := 0xC0004, pclk := 1000, ptr := 0x4000, line := 4, hpd := true })] }
/-- A frame descriptor that writes lines of `pitch` bytes back to 0x8000; with one layer of 4 lines at `layer`, if any. -/
def frameWords (layer : Nat) : List W64 :=
  [0, 0x8000, 0x20000000020, 0x6000] ++ List.replicate 4 0
  ++ (if layer = 0 then List.replicate 8 0 else [0x8000000000000000, BitVec.ofNat 64 layer, 0x80, 0x0000000000080004, 0x0000000000080004, 0, 0, 0]) ++ List.replicate 56 0

theorem witness_DisplayPipes :
    (let s := rset (rset (rset base 0x233 0x104 0x640008) 0x233 0x108 0xC0004) 0x233 0x10C 100
     Reaches s .hub (pgCmp 3) 0x100 ∧ bits (0x80000001 : W32) 28 27 ≤ 2 ∧ bits (0x80000001 : W32) 26 25 ≤ 2 ∧ bit (0x80000001 : W32) 31 = true ∧ (pipeOf s 3).on = false
     ∧ timingOk s 3 0x80000001 = true ∧ timingOk base 3 0xC0000001 = false)
    ∧ (pipeOf (piped id) 3).hpd = true
    ∧ (let s := piped id
       (pipeOf s 3).on = true ∧ (pipeOf s 3).line = (pipeOf s 3).vact ∧ (pipeOf s 3).fetched = false ∧ tagLive s (pipeOf s 3).tag = true
       ∧ (rangeNat s (cmpUnit 3) 1 0x4000 8).toOption = some 0)
    ∧ (let s := packetAt (wr (piped id) 0x4000 0x5000) 0x5000 (frameWords 0)
       (rangeNat s (cmpUnit 3) 1 0x4000 8).toOption = some 0x5000 ∧ (rangeRead s (cmpUnit 3) 1 0x5000 576).toOption.isSome = true
       ∧ frameOk (pipeOf s 3) (frameWords 0) = true ∧ frameOk (pipeOf s 3) ((frameWords 0).set 5 1) = false)
    ∧ (let x := pipeOf (piped fun x => { x with line := 11, next := some (frameWords 0) }) 3
       x.on = true ∧ x.applied = false ∧ x.line + 1 = x.vtot ∧ x.next = some (frameWords 0) ∧ (pipeOf (piped id) 3).next = none)
    ∧ (let s := piped fun x => { x with line := 2, desc := frameWords 0 }
       let x := pipeOf s 3
       sourcesOf s 2 3 = [] ∧ x.on = true ∧ x.khz ≠ 0 ∧ x.vtot ≠ 0 ∧ x.line + 1 < x.vact ∧ layersOn { x with line := 3 } = [] ∧ fdWbBase x.desc ≠ 0 ∧ x.wbStopped = false
       ∧ fdTone x.desc = 0 ∧ tagLive s x.tag = true
       ∧ (distinct (rangePas s (cmpUnit 3) x.tag .w (fdWbBase x.desc + x.frame % fdWbNfr x.desc * (fdWbPitch x.desc * x.vact) + 3 * fdWbPitch x.desc) (wbBytes x))))
    ∧ (let x := pipeOf (piped id) 3
       x.vact ≤ x.line + 1 ∧ x.line + 1 < x.vtot)
    ∧ (let s := { piped fun x => { x with line := 11, applied := true } with contexts := [] }
       (pipeOf s 3).line + 1 = (pipeOf s 3).vtot ∧ (pipeOf s 3).applied = true ∧ tagLive s (pipeOf s 3).tag = false)
    ∧ (let s := piped fun x => { x with line := 2, desc := (frameWords 0x10000).set 1 0 }
       let x := pipeOf s 3
       let r := readLayer (nextLine s 3) 3 { x with line := 3 } 0
       layersOn { x with line := 3 } = [0] ∧ fdWbBase x.desc = 0 ∧ r.off = true ∧ (faulted r.bad))
    ∧ (let s := piped fun x => { x with wbDone := true, desc := frameWords 0 }
       (pipeOf s 3).wbDone = true ∧ tagLive s (pipeOf s 3).tag = true
       ∧ (distinct (rangePas s (cmpUnit 3) 1 .w (fdReady (pipeOf s 3).desc) 8))) := by
  and_intros <;> first | decide +kernel | (unfold Reaches; decide +kernel)

/-! ### Compression engines, steps -/

/-- A descriptor: OP with its LEVEL, PRED, FMT and SIGEN; from 0x5000 to 0x6000 with a completion record at 0x7000 and fence 9. -/
def descriptor (op level pred fmt sigen : Nat) (lengths dstLen : Nat) : List W64 :=
  [BitVec.ofNat 64 (op * 2 ^ 60 + level * 2 ^ 56 + pred * 2 ^ 53 + fmt * 2 ^ 49 + sigen * 2 ^ 47), 0x5000, 0x6000, BitVec.ofNat 64 lengths, BitVec.ofNat 64 dstLen, 6, 0x9000000007000, 0]
/-- Engine 3, whose ring 3 lies at 0x3000 with 4 places, TAIL `tail` in memory and a descriptor at its head; the source bytes. -/
def engined (tail : Nat) (f : Cpr → Cpr) (d src : List W64) : State :=
  { packetAt (packetAt (wr base 0x3000 tail) 0x3040 d) 0x5000 src with
    cprs := [(3, f { rings := [(3, { ctl := 0x90000001, wbase := 0x3000, base := 0x3000 })] })] }
def busy (d : List W64) (src : List W64) : State := engined 1 (fun c => { c with serving := 3, desc := some d }) d src
/-- A stream of one chunk of eight bytes stored raw, and its check value. -/
def rawStream (crc : Nat) : List W64 := [0x00000000017AC5, 8, 0x0403020180000008, BitVec.ofNat 64 (crc % 2 ^ 32 * 2 ^ 32 + 0x08070605)]
/-- A surface of 4 x 1 pixels of 4 bytes in one raw block. -/
def rawSurface (crc : Nat) : List W64 := [0x0001000400015AC5, BitVec.ofNat 64 (128 * 2 ^ 32 + crc % 2 ^ 32), 0, 0, 0, 0, 0, 0, 0x4000000100000008, 0, 0, 0, 0, 0, 0, 0, 1, 2]

theorem witness_CompressionRings :
    (let s := rset base (pgCpr 3) 0x104 3
     Reaches s .hub (pgCpr 3) 0x108 ∧ bit (0xE0000001 : W32) 31 = true ∧ 2 ≤ bits (0xE0000001 : W32) 30 27 ∧ bits (0xE0000001 : W32) 30 27 = 12 ∧ rbits s (pgCpr 3) 0x104 1 0 = 3
     ∧ (cprRing (cprOf s 3) 3).on = false)
    ∧ (let d := descriptor 0 0 0 0 1 8 0x100
       ∀ t ∈ [0, 1, 4, 5], let s := engined t id d [1]
       (cprOf s 3).desc = none ∧ (cprRing (cprOf s 3) 3).on = true ∧ (cprRing (cprOf s 3) 3).fault = false ∧ (cprRing (cprOf s 3) 3).size = 4
       ∧ (∀ k < 4, k ≠ 3 → (cprRing (cprOf s 3) k).on = false) ∧ (rangeNat s (cprUnit 3) 1 0x3000 4).toOption = some t
       ∧ (rangeRead s (cprUnit 3) 1 0x3040 64).toOption = some (d.flatMap fun v => natLe 8 v.toNat) ∧ cdOk s 1 d = true ∧ cdOk s 1 (d.set 7 1) = false)
    ∧ (let d := descriptor 0 0 0 0 1 8 0x100
       let s := engined 1 (fun c => { c with serving := 3, desc := some d, outcome := some (0, 8, 40, 5, 1) }) d [1]
       (cprOf s 3).desc = some d ∧ (cprOf s 3).outcome = some (0, 8, 40, 5, 1) ∧ cdCpl d % 32 = 0 ∧ cdSigen d = true ∧ tagGranted s 1 (cdSlot d) = true
       ∧ genOf s (cdSlot d) = (cprOf s 3).gen ∧ tfind s.fences (cdSlot d) = some f0 ∧ f0.state = fsValue ∧ f0.value.toNat < (dw d 5).toNat ∧ dw d 5 ≠ BitVec.allOnes 64
       ∧ ((rangeWrite s (cprUnit 3) 1 (cdCpl d) (cprRecordBytes d 0 8 40 5 1)).toOption.bind fun s1 => (rangeWrite s1 (cprUnit 3) 1 0x3008 (natLe 4 1)).toOption).isSome = true) := by
  and_intros <;> first | decide +kernel | (unfold Reaches; decide +kernel)

theorem witness_CompressionOperations :
    (let d := descriptor 0 0 0 0 0 8 28
     let s := busy d [0x0807060504030201]
     (cprOf s 3).desc = some d ∧ (cprOf s 3).outcome = none ∧ cdCont d = false ∧ dw d 7 = 0 ∧ cdOverlap d = false ∧ cdOp d = 0 ∧ cdSrcLen d = 8
     ∧ (rangeRead s (cprUnit 3) 1 (cdSrc d) 8).toOption = some [1, 2, 3, 4, 5, 6, 7, 8] ∧ cdDstLen (descriptor 0 0 0 0 0 8 0) = 0
     ∧ (rangeWrite s (cprUnit 3) 1 (cdDst d) (List.replicate 32 0)).toOption.isSome = true)
    ∧ (let d := descriptor 1 0 0 0 0 32 8
       let s := busy d (rawStream 0x46891F81)
       cdOp d = 1 ∧ cdOverlap d = false ∧ cdSrcLen d = 8 + 24 ∧ cdDstLen d = 8
       ∧ ((rangeRead s (cprUnit 3) 1 (cdSrc d) 16).toOption.bind parseStream) = some (0, 0, 0, 8)
       ∧ (rangeRead s (cprUnit 3) 1 (cdSrc d + 16) 12).toOption = some (natLe 4 (2 ^ 31 + 8) ++ [1, 2, 3, 4, 5, 6, 7, 8])
       ∧ (rangeNat s (cprUnit 3) 1 (cdSrc d + 16) 4).toOption = some (2 ^ 31 + 8)
       ∧ ((rangeWrite s (cprUnit 3) 1 (cdDst d) [1, 2, 3, 4, 5, 6, 7, 8]).toOption.bind fun s1 => (rangeNat s1 (cprUnit 3) 1 (cdSrc d + 28) 4).toOption) = some 0x46891F81
       ∧ (crc32c [1, 2, 3, 4, 5, 6, 7, 8]).toNat = 0x46891F81)
    ∧ (let d := descriptor 2 0 0 0 0 0x0004000100000010 0x100
       let s := busy d [1, 2]
       (cdSurf d).blocks = 1 ∧ cdWidth d = 4 ∧ cdHeight d = 1 ∧ cdOp d = 2 ∧ cdOverlap d = false
       ∧ (readRows s (cprUnit 3) 1 d (cdSurf d) 0 1).toOption = some (natLe 8 1 ++ natLe 8 2) ∧ codeBlock 0 0 0 4 (natLe 8 1 ++ natLe 8 2) = (natLe 8 1 ++ natLe 8 2, 1, 0)
       ∧ ((rangeWrite s (cprUnit 3) 1 (cdDst d + 128) (List.replicate 16 0)).toOption.bind fun s1 =>
            (rangeWrite s1 (cprUnit 3) 1 (cdDst d) (List.replicate 128 0)).toOption).isSome = true)
    ∧ (let d := descriptor 3 0 0 0 0 0x0004000100000010 0x100
       let s := busy d (rawSurface 0)
       cdOp d = 3 ∧ cdOverlap d = false
       ∧ (match (rangeRead s (cprUnit 3) 1 (cdSrc d) 128).toOption with
          | some hdr => decide (hdr.length = 128) && (match parseSurf fun a => hdr.getD a 0 with
            | some g => decide (g = cdSurf d) && (let h := leNat ((hdr.drop 64).take 8)
                blockOk h && decide (g.data ≤ 16 * bhOff h) && decide (16 * bhOff h + 16 * bhLen h ≤ g.room)
                && decide ((rangeRead s (cprUnit 3) 1 (cdSrc d + 16 * bhOff h) (16 * bhLen h)).toOption = some (natLe 8 1 ++ natLe 8 2))
                && decide (decodeBlock (fun a => if a < hdr.length then hdr.getD a 0 else (natLe 8 1 ++ natLe 8 2).getD (a - 16 * bhOff h) 0) g 0 = some (natLe 8 1 ++ natLe 8 2))
                && (writeRows (cprUnit 3) 1 d g 0 (natLe 8 1 ++ natLe 8 2) (g.bh 0) s).toOption.isSome)
            | none => false)
          | none => false) = true) := by
  and_intros <;> decide +kernel

/-- The hypotheses on the range coder are about `Config.rangeCode` and `Config.rangeDecode`, of which nothing is known: R398 describes a coder,
but not its bytes. Some pair of functions meets them for any tokens; the other hypotheses hold of a raw and of a constant block. -/
theorem witness_CompressedFormatsRoundTrip :
    (∀ toks : List (Nat × Nat), ∃ (code : List (Nat × Nat) → List Byte) (read : List Byte → Nat → List (Nat × Nat)), ∀ k n, read (code toks ++ List.replicate k 0) n = toks)
    ∧ fmtLanes 0 = some [8, 8, 8, 8]
    ∧ (let f : Surf := { fmt := 0, width := 4, height := 1, crc := 0, data := 128 }
       let bs : List Byte := natLe 8 1 ++ natLe 8 2
       let rd : Nat → Byte := fun a => if a < 72 then (natLe 8 (mkBlockHeader 1 0 1 8)).getD (a - 64) 0 else bs.getD (a - 128) 0
       0 < f.bw 0 ∧ 0 < f.bh 0 ∧ bs.length = f.bw 0 * f.bh 0 * fmtSize f.fmt ∧ (codeBlock 9 0 f.fmt (f.bw 0) bs).1 ≠ []
       ∧ blockHeader rd 0 = mkBlockHeader 1 0 1 8 ∧ ∀ i < 16, rd (16 * 8 + i) = bs.getD i 0) := by
  refine ⟨fun toks => ⟨fun _ => [], fun _ _ => toks, fun _ _ => rfl⟩, by decide, by decide +kernel⟩

theorem witness_StepRunsFrontCommand :
    ({ State.reset with pending := [.powerLoss, .journalToken] } : State).pending = .powerLoss :: [.journalToken] ∧ State.reset.pending = [] := by decide +kernel
theorem witness_StepKeepsMemoryCanonical :
    ∃ t, Memory.wf ({ wr base 0x100 5 with pending := [.journalToken] } : State).mem = true ∧ step { wr base 0x100 5 with pending := [.journalToken] } = .next t := ⟨_, by decide +kernel, rfl⟩

/-! ### What WellFormed refuses: one ill-formed term for each check -/

theorem test_wf_refuses_core_and_slot :
    [Instr.nop 36 0 {}, .exit 0 48 {}, .mma 36 0 {}, .bar 0 48 {}, .matrixStart 36 0, .matrixCommit 36 0, .matrixCheck 36 0 {}, .matrixComplete 36 0, .waitTimeOut 0 48,
      .groupLaunch 36, .forwardProgressGrant 36 0, .icacheFill 0 48, .mergeBufferDrain 36 false, .mergeBufferAck 36, .pageWalk 0 48, .binStart 36, .fragmentRetire 36,
      .binStore 36, .strikeExpiry 36].all (fun i => !i.wf) = true := by decide +kernel

theorem test_wf_refuses_core_units :
    [Instr.semaShortExpiry 256, .ageBoost 0 0 4, .nearCacheFill 0 64, .tileStart 0 4, .tileLanded 0 4, .translationPrefetch 0 4, .lsScrub 0 [⟨64, false⟩],
      .fragmentGroup 0 (List.replicate 33 ⟨0, 0, 0⟩), .plannedMove 32 0, .plannedMove 0 36, .unplannedSubstitution 32, .opChange 36 0, .opChange 0 4].all (fun i => !i.wf) = true := by
  decide +kernel

theorem test_wf_refuses_memory_units :
    [Instr.memWindow 32 ⟨0, 0, 0, 0, 0, 0⟩, .memWindow 0 ⟨0, 0, 0, 0, 3, 0⟩, .memWindow 0 ⟨0, 0, 0, 0, 0, 3⟩, .memPatrol 32 0 .clean, .memPatrol 0 2 .clean, .hbmRead 64 0 .clean,
      .hbmRead 0xC00000000 0 .clean, .hbmRead 0 64 .clean, .sliceLookup 64 0 {}, .sliceLookup 0 8 {}, .evictionDrain 16 0, .evictionDrain 0 32, .sliceIdle 16, .flush 16 0, .flushEnd 16,
      .rangeCacheFill 36 0 0, .rangeCacheFill 0x140 0 0, .inboundAccess { op := 0, win := 16 }, .inboundAccess { op := 0, srcWin := 16 }, .hostCompletion 64 0x200000000000 .ok [],
      .hostCompletion 0 0 .ok []].all (fun i => !i.wf) = true := by decide +kernel

theorem test_wf_refuses_queues_and_functions :
    [Instr.queTailWrite 64 0 0, .queTailWrite 0 1024 0, .packetFetch 1024, .jobStart 8, .preemptionRequest 8, .ctxCreate 64, .ctxDestroy 64, .queueCreate 64, .queueDestroy 64,
      .grant 64, .revoke 64, .mapRange 64, .unmapRange 64, .invalidate 64, .fenceAlloc 64, .fenceFree 64, .fenceExport 64, .fenceImport 64, .fenceReset 64, .eventArm 64,
      .semaAlloc 64, .semaFree 64, .advise 64, .windowOpen 64, .windowClose 64, .kill 64, .viConfig 64, .viDisable 64, .viReset 64, .viDrainExpiry 64, .viResetAck 64,
      .functionLevelReset 64, .graphLoad 64, .graphStart 64, .graphStop 64, .fwStage 64, .fwActivate 64, .fwCommit 64, .devReset 64, .grCommit 64, .pmcSet 64, .pmcRead 64,
      .vfEnableSet 64, .launch 1024, .release 1024, .event 1024, .deadline 1024, .sourceStopped 48, .ptpPositionReached 48].all (fun i => !i.wf) = true := by decide +kernel

theorem test_wf_refuses_edge_engines :
    [Instr.channelEnable .pf 0x230 0, .channelStop .pf 0x21F, .st2110Packet { port := 4, dst := 0, udp := 0, pt := 0, stamp := 0, rows := [] }, .csi2FrameStart 8 0 0, .csi2FrameStart 0 16 0,
      .csi2FrameStart 0 0 65536, .csi2LongPacket 0 0 64 .clean false [], .csi2FrameEnd 8 0, .aes67Packet { port := 4, dst := 0, udp := 0, pt := 0, stamp := 0, payload := [] },
      .ancillaryPacket { port := 4, dst := 0, udp := 0, pt := 0, stamp := 0, payload := [] }, .tdmFrameSync 4 [], .videoOutFrame 0x224 0, .audioOutSend 0x220 32, .ancillaryOutSend 0x224 0,
      .pipeEnable .pf 4 0, .pipeDisable .pf 4, .dpLinkTraining 4 0 0, .dpLinkTraining 0 6 0, .dpLinkTraining 0 0 3, .hotPlugLoss 4, .hotPlugDetect 4, .descriptorFetch 4,
      .frameDescriptorApply 4, .writebackReady 4, .scanLine 4 0, .cprRingEnable .pf 4 0, .cprPoll 4, .compressStream 4, .decompressStream 4, .compressSurface 4,
      .decompressSurface 4, .cprComplete 4, .vioLinkChange 0x230 true].all (fun i => !i.wf) = true := by decide +kernel

theorem test_wf_refuses_links_power_and_records :
    [Instr.flitReceive 8 { kind := 0, seq := 0, ack := 0 }, .flitReceive 0 { kind := 0, seq := 4096, ack := 0 }, .flitReceive 0 { kind := 0, seq := 0, ack := 4096 }, .flitNak 8 0,
      .flitNak 0 4096, .linkRetrain 8 0, .linkDown 8, .admission 8 ⟨0, 0, true, []⟩, .admission 0 ⟨16, 0, true, []⟩, .admissionRetry 8, .memberTable 8 [], .memberExpiry 16,
      .remoteRequest 8 { op := 0 }, .remoteRequest 0 { op := 0, win := 16 }, .remoteResponse 8 { op := 0 }, .wakePatternSend 8, .wakePatternDetect 8, .entryComplete 0x46, .entryAbort 0x5A 0x10,
      .entryAbort 0 0x0F, .entryAbort 0 0x13, .domainWake 0x7E, .domainExitComplete 0x24, .thermalSample 64 0 0, .tmrScrub [⟨0, 0, 3, 0⟩], .tmrScrub [⟨0, 0x800, 0, 0⟩],
      .pairMismatch 4, .pairInjection 4 true, .pairTestEnd 4 true, .journalRecord ⟨0, 256, 0, []⟩, .journalRecord ⟨0, 0, 4, []⟩, .glitchTrip 0, .glitchTrip 6, .mailboxRead .pf 0 8,
      .rcRead .pf 0 0x1000, .registerWrite .pf 0 0x1000 true 0, .powerUpFail 7].all (fun i => !i.wf) = true := by decide +kernel

/-! ### The spec's worked examples and tables -/

/-- 02: SF8a code 0x77 is 240, which is 0x43700000 in binary32. -/
theorem test_sf8a_example : convFF sf8a binary32 .even false 0x77 = (0x43700000, 0) := by decide +kernel

/-- 02: the SF4 block of 5.0, -0.3 and 1.3 has scale code 0x7F and nibbles 6, 9 and 3; each is inexact, and none is tiny but -0.3 (0.3 < 1). -/
theorem test_sf4_example :
    sf4Encode .even [decodeF binary32 0x40A00000, decodeF binary32 0xBE99999A, decodeF binary32 0x3FA66666] = (0x7F, [(6, fINX), (9, fUNF ||| fINX), (3, fINX)]) := by
  decide +kernel

/-- 02: a block of 4096 × 4096, 62 products 1 × 1 and -4096 × 4096 sums to 62. -/
theorem test_block_sum_is_exact :
    (({ floatJob with k := 64, a := [0x6C00 :: List.replicate 62 0x3C00 ++ [0xEC00]], b := [0x6C00] :: List.replicate 62 [0x3C00] ++ [[0x6C00]] } : MatJob).sum none 0 0 0).result
      = (0x42780000, 0) := by decide +kernel

/-- 02: a = b = 1 + 2^-20 gives 1 in one pass, and 1 + 2^-19 in two and in three. -/
theorem test_multi_pass_example :
    [1, 2, 3].map (fun q => ((({} : BlockSum).term (.float binary32) (passesOf (.float binary32) q) (decodeF binary32 0x3F800008) (decodeF binary32 0x3F800008)).result).1)
      = [0x3F800000, 0x3F800010, 0x3F800010] := by decide +kernel

/-- 05: SMOVI of 0x3F0000, then SCATI of 0x005100, makes the address 0x3F0000005100; SMOVI extends bit 23. -/
theorem test_smovi_scati_example :
    sAfter (.smovi 0 0 (rrr 7 0 0 0 0x3F0000)) 7 = 0x3F0000
    ∧ sGet (after (exec (.scati 0 0 (rrr 7 7 0 0 0x005100)) (at0 { grp with s := [(7, 0x3F0000)] }))) 7 = 0x3F0000005100
    ∧ sAfter (.smovi 0 0 (rrr 7 0 0 0 0x800000)) 7 = 0xFFFFFFFFFF800000 := by decide +kernel

/-- Table of the scalar slot (05): division by 0 gives all ones and remainder a; SCLZ of 0 is 64; a shift count is taken modulo 64. -/
theorem test_scalar_corners :
    sAfter (.sdivu 0 0 (rrr 7 2 1 0 0)) 7 = 0xFFFFFFFFFFFFFFFF ∧ sAfter (.sremu 0 0 (rrr 7 2 1 0 0)) 7 = 0x10 ∧ sAfter (.sclz 0 0 (rrr 7 1 0 0 0)) 7 = 64
    ∧ sGet (after (exec (.sshl 0 0 (rrr 7 2 3 0 0)) (at0 { grp with s := [(2, 1), (3, 65)] }))) 7 = 2 := by decide +kernel

/-- R67: a write to s0 is discarded, and s0 reads as zero. -/
theorem test_s0_reads_zero : sAfter (.sadd 0 0 (rrr 0 2 3 0 0)) 0 = 0 := by decide +kernel

/-- Table 03-2: under p1 (lanes 8 to 31) BRA at 0x100 to 0x140 (OFF24 = 8) leaves lane 7 at 0x108 and takes lane 8 to 0x140. -/
theorem test_bra_diverges :
    let g := after (exec (.bra 0 0 { pred := 1, md := 8 }) (at0 { grp with p := [(1, 0xFFFFFF00)], pc := (List.range 32).map fun t => (t, 0x1000) }))
    tget 0 g.pc 7 = 0x1008 ∧ tget 0 g.pc 8 = 0x1040 := by decide +kernel

/-- R79: CVG.SET writes the mask of the issue set into cb2. -/
theorem test_cvg_set : cbGet (after (exec (.cvgSet 0 0 (rrr 2 0 0 0 0)) (at0 grp))) 2 = 0xFFFFFFFF := by decide +kernel

/-- Table 03-2: of the threads at 0x108 and 0x140, those at 0x108 form the set that issues. -/
theorem test_lowest_pc_issues :
    (go (at0 { grp with pc := (List.range 32).map fun t => (t, if t < 8 then 0x1008 else 0x1040) }) {}).set = 0xFF := by decide +kernel

/-- 08: the address 0x480001A00 lies in slice 14, set 3. -/
theorem test_slice_example : sliceOf 0x480001A00 = 14 ∧ sliceSet 0x480001A00 = 3 := by decide

/-- 08: with vision, speech and language on pseudo-channels 0-15, 16-23 and 24-47, that address is in partition 2, pseudo-channel 26. -/
theorem test_placement_example :
    let part (pcs : BitVec 64) : Partition := { realTime := false, cores := 0, pcs, ways := 0, op := 0 }
    let s : State := { State.reset with parts := [(0, part 0xFFFF), (1, part 0xFF0000), (2, part 0xFFFFFF000000)] }
    partBase s 2 = 0x480000000 ∧ pcAt s 0x480001A00 = some 26 := by decide +kernel

/-- Tables at 0x10000, 0x11000 and 0x12000, and the eight leaves 416 to 423 from 0x240000000 on. -/
def leafTables : State :=
  (List.range 8).foldl (fun s k => wr s (0x12000 + 8 * (416 + k)) (0x24000000B + k * 0x200000))
    (wr (wr { State.reset with ctxTab := [(1, 0x8000000000010000)] } 0x10000 0x11001) (0x11000 + 8 * 72) 0x12001)

/-- 09: the walk of 0x001234567890 ends at leaf 418, a 2 MiB page at 0x240400000. -/
theorem test_walk_example : walk leafTables (ctxEntry leafTables 1) 0x001234567890 = .leaf 1 0x24040000B (0x12000 + 8 * 418) := by decide +kernel

/-- 09: it installs one entry of 16 MiB for va 0x001234000000 on. -/
theorem test_merge_example :
    mergedEntry leafTables (ctxEntry leafTables 1) 1 0x001234567890 1 0x24040000B (0x12000 + 8 * 418)
      = { tag := 1, vpn := 0x1234000, pages := 4096, ppn := 0x240000, attr := 0x0B, level := 1 } := by decide +kernel

/-- 06: the operand words of the example name base 0x100000 and stride 64, and its shape word K = 256, M = N = 64. -/
theorem test_operand_word_example :
    owBase 0x10100000 = 0x100000 ∧ owStride 0x10100000 = 64 ∧ shK 0x402040 = 256 ∧ shM 0x402040 = 64 ∧ shN 0x402040 = 64 := by decide

/-- 06: MOD = 0x001800 holds FMT 0, AFMT 0, MPREC 0, BSRC PRE and ACC 1. -/
theorem test_mma_modifier_example :
    let w := rrr 1 10 11 12 0x001800
    mFMT w = 0 ∧ mAFMT w = 0 ∧ mMPREC w = 0 ∧ mBSRC w = 1 ∧ mACC w = true := by decide

/-- 01: physical core 35 has its CORE page at 0x018C. -/
theorem test_core_page_example : pgCore 35 = 0x18C := by decide

/-- CRC-32C of the nine digits 1 to 9 is 0xE3069283, the check value that is published with the polynomial. -/
theorem test_crc32c_check_value : crc32c [0x31, 0x32, 0x33, 0x34, 0x35, 0x36, 0x37, 0x38, 0x39] = 0xE3069283 := by decide +kernel

/-- R44, R45: 1 + 2^-24 ties to even and is inexact; towards +∞ it is the next number. -/
theorem test_rounding : fadd binary32 .even 0x3F800000 0x33800000 = (0x3F800000, fINX) ∧ (fadd binary32 .up 0x3F800000 0x33800000).1 = 0x3F800001 := by decide +kernel

/-- IEEE: 1/0 is +∞ with DZ, and √-1 is the default NaN with INV. -/
theorem test_special_results : fdiv binary32 .even 0x3F800000 0 = (0x7F800000, fDZ) ∧ fsqrt binary32 .even 0xBF800000 = (0x7FC00000, fINV) := by decide +kernel

/-- A command in front of the queue is the one that step runs. -/
theorem test_step_takes_the_front :
    (match step { at0 grp with pending := [.smovi 0 0 (rrr 7 0 0 0 5), .powerFail] } with | .next t => decide (t.pending = [.powerFail] ∧ sGet ((groupOf t 0 0).getD grp) 7 = 5) | _ => false) = true := by
  decide +kernel

end Sys2Proof.Tests
end

section
/-! PROOFS. Register accesses: reserved bits, which reads and writes do not see (R6), and refused accesses, which leave only their
record (R500). -/
namespace Sys2Proof.Machine

/-! ### Fields of a word -/

theorem getLsbD_putBits {n : Nat} (w : BitVec n) (hi lo v i : Nat) :
    (putBits w hi lo v).getLsbD i = if lo ≤ i ∧ i ≤ hi then decide (i < n) && v.testBit (i - lo) else w.getLsbD i := by
  simp only [putBits, BitVec.getLsbD_or, BitVec.getLsbD_and, BitVec.getLsbD_not, BitVec.getLsbD_ofNat, Nat.testBit_shiftLeft,
    Nat.testBit_two_pow_sub_one, Nat.testBit_mod_two_pow]
  by_cases hn : i < n
  · by_cases hl : lo ≤ i
    · by_cases hh : i ≤ hi
      · have hk : i - lo < hi + 1 - lo := by omega
        simp [hn, hl, hh, hk]
      · have hk : ¬ i - lo < hi + 1 - lo := by omega
        simp [hn, hl, hh, hk]
    · simp [hn, hl]
  · have hw : w.getLsbD i = false := BitVec.getLsbD_of_ge w i (by omega)
    simp [hn, hw]

theorem testBit_bits {n : Nat} (w : BitVec n) (hi lo j : Nat) :
    (bits w hi lo).testBit j = (decide (j < hi + 1 - lo) && w.getLsbD (lo + j)) := by
  simp [bits, nbits, Nat.testBit_mod_two_pow, Nat.testBit_shiftRight, BitVec.testBit_toNat]

/-- Two words hold the same value in a field exactly when they agree on its bits. -/
theorem bits_eq_iff {n : Nat} {v w : BitVec n} {hi lo : Nat} :
    bits v hi lo = bits w hi lo ↔ ∀ i, lo ≤ i → i ≤ hi → v.getLsbD i = w.getLsbD i := by
  constructor
  · intro h i hl hh
    have hj := congrArg (fun x => x.testBit (i - lo)) h
    simpa [testBit_bits, hl, show i - lo < hi + 1 - lo by omega] using hj
  · intro h
    refine Nat.eq_of_testBit_eq fun j => ?_
    simp only [testBit_bits]
    by_cases hj : j < hi + 1 - lo
    · rw [h (lo + j) (by omega) (by omega)]
    · simp [hj]

/-- A field of an OR is settled by the fields of both words. -/
theorem bits_or_congr {n : Nat} {v w : BitVec n} {hi lo : Nat} (u : BitVec n) (h : bits v hi lo = bits w hi lo) :
    bits (u ||| v) hi lo = bits (u ||| w) hi lo :=
  bits_eq_iff.mpr fun i hl hh => by simp only [BitVec.getLsbD_or, bits_eq_iff.mp h i hl hh]

/-- What a field reads as after it has been replaced. -/
theorem bits_putBits {n : Nat} (w : BitVec n) {hi lo : Nat} (v : Nat) (h : hi < n) :
    bits (putBits w hi lo v) hi lo = v % 2 ^ (hi + 1 - lo) := by
  refine Nat.eq_of_testBit_eq fun j => ?_
  rw [testBit_bits, getLsbD_putBits, Nat.testBit_mod_two_pow]
  by_cases hj : j < hi + 1 - lo
  · rw [if_pos (by omega), Nat.add_sub_cancel_left]
    simp [hj, show lo + j < n by omega]
  · simp [hj]

/-- Replacing every bit of a 32-bit word leaves nothing of it. -/
theorem putBits_word (w : W32) (v : Nat) : putBits w 31 0 v = BitVec.ofNat 32 v := by
  refine BitVec.eq_of_getLsbD_eq fun i hi => ?_
  rw [getLsbD_putBits, if_pos (by omega), BitVec.getLsbD_ofNat, Nat.sub_zero]

theorem bits_word (w : W32) : bits w 31 0 = w.toNat := by
  simp only [bits, nbits, Nat.shiftRight_zero]
  exact Nat.mod_eq_of_lt w.isLt

theorem satAdd_one {top x : Nat} : satAdd top x 1 = min top (x + 1) := by
  unfold satAdd
  split <;> omega

/-! ### Reserved bits (R6) -/

/-- Bits outside the fields that a fold puts into a word stay as they were. -/
theorem getLsbD_foldl_fields {i : Nat} (value : Fld → Nat) (fs : List Fld) (m : W32) (h : ∀ f ∈ fs, i < f.lo ∨ f.hi < i) :
    (fs.foldl (fun m f => if f.acc = .wo ∨ f.acc = .sc then m else putBits m f.hi f.lo (value f)) m).getLsbD i = m.getLsbD i := by
  induction fs generalizing m with
  | nil => rfl
  | cons f fs ih =>
    obtain ⟨hf, hfs⟩ := List.forall_mem_cons.mp h
    rw [List.foldl_cons, ih _ hfs]
    split
    · rfl
    · rw [getLsbD_putBits, if_neg (by omega)]

/-- A bit of a register that no field holds reads as zero. -/
theorem getLsbD_regValue_reserved (s : State) {page off i : Nat} {r : Reg} (hr : regRow page off = some r)
    (h : ∀ f ∈ r.flds, i < f.lo ∨ f.hi < i) : (regValue s page off).getLsbD i = false := by
  unfold regValue
  rw [hr]
  exact (getLsbD_foldl_fields _ r.flds 0 h).trans (by simp)

theorem any_congr_of_mem {α : Type} {l : List α} {p q : α → Bool} (h : ∀ x ∈ l, p x = q x) : l.any p = l.any q := by
  rw [Bool.eq_iff_iff, List.any_eq_true, List.any_eq_true]
  exact exists_congr fun x => and_congr_right fun hx => by rw [h x hx]

theorem foldl_congr_of_mem {α β : Type} {f g : β → α → β} {l : List α} (b : β) (h : ∀ b, ∀ x ∈ l, f b x = g b x) :
    l.foldl f b = l.foldl g b := by
  induction l generalizing b with
  | nil => rfl
  | cons x xs ih =>
    rw [List.foldl_cons, List.foldl_cons, h b x List.mem_cons_self]
    exact ih _ fun b y hy => h b y (List.mem_cons_of_mem x hy)

/-- Two words hold the same value in each of the fields. -/
def SameFields (fs : List Fld) (v v' : W32) : Prop := ∀ f ∈ fs, bits v f.hi f.lo = bits v' f.hi f.lo

theorem SameFields.bits_eq {fs : List Fld} {v v' : W32} (h : SameFields fs v v') (hi lo : Nat)
    (hf : (fs.any fun f => f.hi == hi && f.lo == lo) = true) : bits v hi lo = bits v' hi lo := by
  obtain ⟨f, hm, he⟩ := List.any_eq_true.mp hf
  obtain ⟨rfl, rfl⟩ : f.hi = hi ∧ f.lo = lo := by simpa using he
  exact h f hm

theorem SameFields.bit_eq {fs : List Fld} {v v' : W32} (h : SameFields fs v v') (i : Nat)
    (hf : (fs.any fun f => f.hi == i && f.lo == i) = true) : bit v i = bit v' i :=
  bits_eq_iff.mp (h.bits_eq i i hf) i (Nat.le_refl i) (Nat.le_refl i)

/-- Words that agree in the fields agree under a mask that the fields cover. -/
theorem SameFields.and_eq {fs : List Fld} {v v' : W32} (h : SameFields fs v v') (m : W32)
    (hm : ∀ i < 32, m.getLsbD i = true → ∃ f ∈ fs, f.lo ≤ i ∧ i ≤ f.hi) : v &&& m = v' &&& m := by
  refine BitVec.eq_of_getLsbD_eq fun i hi => ?_
  rw [BitVec.getLsbD_and, BitVec.getLsbD_and]
  by_cases hb : m.getLsbD i = true
  · obtain ⟨f, hf, hlo, hhi⟩ := hm i hi hb
    rw [bits_eq_iff.mp (h f hf) i hlo hhi]
  · simp [hb]

theorem fieldTakes_congr {f : Fld} {v v' : W32} (h : bits v f.hi f.lo = bits v' f.hi f.lo) : fieldTakes f v = fieldTakes f v' := by
  unfold fieldTakes
  rw [h]

theorem fieldBad_congr {f : Fld} {v v' : W32} (h : bits v f.hi f.lo = bits v' f.hi f.lo) : fieldBad f v = fieldBad f v' := by
  unfold fieldBad
  rw [fieldTakes_congr h]

section
variable {r : Reg} {v v' : W32} (h : SameFields r.flds v v')
include h

theorem fieldsWritten_congr (old : W32) : fieldsWritten r old v = fieldsWritten r old v' :=
  foldl_congr_of_mem _ fun m f hf => by simp only [fieldTakes_congr (h f hf), h f hf, bits_or_congr old (h f hf)]

theorem any_fieldBad_congr : (r.flds.any fun f => fieldBad f v) = r.flds.any fun f => fieldBad f v' :=
  any_congr_of_mem fun f hf => fieldBad_congr (h f hf)

theorem votedAgain_congr (s : State) (page off : Nat) : votedAgain s page off r v = votedAgain s page off r v' := by
  have hk : ∀ n, (r.flds.any fun f => f.lo == n && fieldTakes f v) = r.flds.any fun f => f.lo == n && fieldTakes f v' :=
    fun n => any_congr_of_mem fun f hf => by rw [fieldTakes_congr (h f hf)]
  simp only [votedAgain, hk]

end

/-! ### Registers whose write looks at the written word itself -/

/-- The fields that the tables list at an offset of a page of kind `k` (Tables 19-3, 19-10). -/
def fieldsAt (k : PageKind) (off : Nat) : List Fld :=
  (((if off < 0x100 then regsHead else regsOf k).find? fun r => r.off == off).map Reg.flds).getD []

theorem flds_eq_fieldsAt {page off : Nat} {r : Reg} (h : regRow page off = some r) : r.flds = fieldsAt (pageKind page) off := by
  unfold regRow at h
  unfold fieldsAt
  split at h
  · cases h
  · split at h
    · cases h
    · split at h <;> simp [*]

/-- An event selection is taken from the fields of PMC_EVSEL alone (Chapter 20, R6). -/
theorem evFix_congr {v v' : W32} (h : SameFields (fieldsAt .pmc 0x10C) v v') (s : State) (k : Nat) : evFix s k v = evFix s k v' := by
  have hm : v &&& 0xEF3F00FF#32 = v' &&& 0xEF3F00FF#32 := h.and_eq _ (by decide)
  have hc : ∀ x : W32, clrBit x 29 &&& 0xEF3F00FF#32 = clrBit (x &&& 0xEF3F00FF#32) 29 := fun x => by
    unfold clrBit
    ac_rfl
  unfold evFix
  split <;> simp only [hm, hc]

/-- Beyond the word that its fields hold, a register's write uses what is written in its fields only. -/
theorem storeWord_congr {page off : Nat} {v v' : W32} (h : SameFields (fieldsAt (pageKind page) off) v v') (s : State) (w : W32) :
    storeWord s page off v w = storeWord s page off v' w := by
  -- most arms take `w` alone; those that remain take `v` too, and each looks at listed fields of it only
  unfold storeWord
  split <;> try with_reducible rfl
  · -- MBX_CTL
    simp only [mailboxWrite, h.bits_eq 7 0 rfl, h.bit_eq 31 rfl]
  · split <;> try with_reducible rfl
    all_goals
      rename_i hk _ _ _
      rw [hk] at h
    case h_1 => -- SEC_DBG_CTL
      simp only [debugWrite, h.bit_eq 31 rfl, h.bit_eq 30 rfl, h.bits_eq 29 28 rfl, h.bits_eq 7 0 rfl]
    case h_3 => -- PWR_DOM_CTL
      have h25 : bits v 25 23 = bits v' 25 23 := bits_eq_iff.mpr fun i hl hh => by
        by_cases hi : i = 23
        · exact bits_eq_iff.mp (h.bits_eq 23 23 rfl) i hl (by omega)
        · exact bits_eq_iff.mp (h.bits_eq 25 24 rfl) i (by omega) hh
      simp only [domainGo, h.bit_eq 31 rfl, h.bits_eq 30 28 rfl, h.bits_eq 25 24 rfl, h.bit_eq 23 rfl, h25]
    case h_5 => -- PWR_DEV_CTL
      simp only [devCtlWrite, h.bit_eq 31 rfl]
    case h_10 => -- CAD_SRC_SEL
      simp only [srcSelWrite, h.bit_eq 31 rfl]
    case h_14 => -- PMC_CFG
      simp only [pmcCfgWrite, h.bit_eq 31 rfl, h.bit_eq 30 rfl]
    case h_15 => -- PMC_EVSEL
      simp only [evselWrite, evFix_congr h]
    case h_16 => -- PMC_CMD
      simp only [pmcCmdWrite, h.bit_eq 31 rfl, h.bit_eq 30 rfl]
    case h_18 => -- SYC_FLUSH
      simp only [flushWrite, h.bit_eq 31 rfl, h.bits_eq 15 0 rfl]
    case h_19 => -- XLT_CTX_CMD
      simp only [ctxCmdWrite, h.bit_eq 31 rfl, h.bit_eq 30 rfl, h.bits_eq 11 0 rfl]
    case h_20 => -- XLT_INV
      simp only [invWrite, h.bit_eq 31 rfl, h.bits_eq 11 0 rfl]
    case h_21 => -- SPK_CFG
      simp only [spkCfgWrite, h.bit_eq 27 rfl]
    case h_28 => -- QUE_TAIL
      have hv : v = v' := BitVec.eq_of_toNat_eq (by simpa only [bits_word] using h.bits_eq 31 0 rfl)
      rw [hv]
    case h_29 => -- VI_HCQ_GO
      simp only [h.bit_eq 0 rfl]

/-- A write takes what stands in the register's fields, and nothing else of the word (R6). -/
theorem regWrite_congr {page off : Nat} {r : Reg} {v v' : W32} (hr : regRow page off = some r) (h : SameFields r.flds v v') (s : State) :
    regWrite s page off v = regWrite s page off v' := by
  have hf : SameFields (fieldsAt (pageKind page) off) v v' := flds_eq_fieldsAt hr ▸ h
  unfold regWrite
  simp only [hr, any_fieldBad_congr h, votedAgain_congr h, fieldsWritten_congr h, storeWord_congr hf]

/-! ### Refused accesses (R500, R514, R515) -/

theorem rget_rput (s : State) (page off page' off' hi lo v : Nat) (ho : off < 0x1000) (ho' : off' < 0x1000) :
    rget (rput s page' off' hi lo v) page off
      = if page = page' ∧ off = off' then putBits (rget s page' off') hi lo v else rget s page off := rget_rset _ _ _ _ _ _ ho ho'

theorem rget_rbump (s : State) (page off page' off' hi lo n : Nat) (ho : off < 0x1000) (ho' : off' < 0x1000) :
    rget (rbump s page' off' hi lo n) page off
      = if page = page' ∧ off = off' then putBits (rget s page' off') hi lo (satAdd (2 ^ (hi + 1 - lo) - 1) (rbits s page' off' hi lo) n)
        else rget s page off := rget_rset _ _ _ _ _ _ ho ho'

/-- The page that a refusal names counts it, if there is one. -/
def countRefusal (s : State) : Option Nat → State
  | some q => errCount s q
  | none => s

/-- DEV_ACC_INFO, its capture, DEV_ACC_CNT and IRQ_STAT.ACC record a refusal. -/
def recordRefusal (s : State) (fields offset : Nat) (data : W32) : State :=
  raiseIrq (rcount (capture (if infoHeld s 0 0x10C then s else { s with accOffset := offset, accData := data }) 0 0x10C 30 fields) 0 0x110) 0 0

theorem refuseAccess_eq (s : State) (target : Option Nat) (p k vi pg off : Nat) (v : W32) :
    refuseAccess s target p k vi pg off v
      = recordRefusal (countRefusal s target) (p * 2 ^ 28 + k * 2 ^ 26 + vi * 2 ^ 20 + pg) (pg * 0x1000 + off) v := rfl

/-- No message is sent for page 0, which has no vector (R505). -/
theorem raiseIrq_dev (s : State) (b : Nat) : raiseIrq s 0 b = rset s 0 0x10 (setBit (rget s 0 0x10) b) := by
  unfold raiseIrq
  have hv : pageVector s 0 = none := rfl
  simp only [hv, ite_self]

theorem rget_countRefusal_other (s : State) {target : Option Nat} {q o : Nat} (ho : o < 0x1000) (h : target = some q → o ≠ 0x14 ∧ o ≠ 0x08) :
    rget (countRefusal s target) q o = rget s q o := by
  cases target with
  | none => rfl
  | some p =>
    have h14 : ¬(q = p ∧ o = 0x14) := fun e => (h (by rw [e.1])).1 e.2
    have h8 : ¬(q = p ∧ o = 0x08) := fun e => (h (by rw [e.1])).2 e.2
    simp [countRefusal, errCount, rget_rput, rget_rbump, ho, h14, h8]

theorem rbits_countRefusal_errCnt (s : State) (q : Nat) :
    rbits (countRefusal s (some q)) q 0x14 15 0 = min 0xFFFF (rbits s q 0x14 15 0 + 1) := by
  have hlt : min 0xFFFF (rbits s q 0x14 15 0 + 1) < 2 ^ 16 := by omega
  have hget : rget (countRefusal s (some q)) q 0x14 = putBits (rget s q 0x14) 15 0
      (satAdd (2 ^ (15 + 1 - 0) - 1) (rbits s q 0x14 15 0) 1) := by
    rw [countRefusal, errCount, rget_rput _ _ _ _ _ _ _ _ (by decide) (by decide), if_neg (by omega),
      rget_rbump _ _ _ _ _ _ _ _ (by decide) (by decide), if_pos ⟨rfl, rfl⟩]
  rw [rbits, hget, bits_putBits _ _ (by decide), satAdd_one]
  exact Nat.mod_eq_of_lt hlt

theorem stat_err_countRefusal (s : State) (q : Nat) : (rget (countRefusal s (some q)) q 0x08).getLsbD 31 = true := by
  simp [countRefusal, errCount, rget_rput, getLsbD_putBits]

theorem infoHeld_countRefusal (s : State) (target : Option Nat) : infoHeld (countRefusal s target) 0 0x10C = infoHeld s 0 0x10C := by
  unfold infoHeld
  rw [rget_countRefusal_other s (by decide) fun _ => by decide]

/-- The record with the capture taken, where none is held, and MULTI set, where one is (Table 19-9). -/
theorem capture_accInfo (s : State) (fields offset : Nat) (data : W32) :
    capture (if infoHeld s 0 0x10C then s else { s with accOffset := offset, accData := data }) 0 0x10C 30 fields
      = if infoHeld s 0 0x10C then rset s 0 0x10C (setBit (rget s 0 0x10C) 30)
        else rset { s with accOffset := offset, accData := data } 0 0x10C (BitVec.ofNat 32 (2 ^ 31 + fields)) := by
  by_cases h : infoHeld s 0 0x10C = true
  · simp only [h, if_true, capture]
  · have hn : infoHeld { s with accOffset := offset, accData := data } 0 0x10C = false := Bool.eq_false_iff.mpr h
    rw [if_neg h, if_neg h, capture, hn]
    rfl

/-- What each register reads as after a refusal has been recorded. -/
theorem rget_recordRefusal (s : State) (fields offset : Nat) (data : W32) {q o : Nat} (ho : o < 0x1000) :
    rget (recordRefusal s fields offset data) q o =
      if q = 0 ∧ o = 0x10 then setBit (rget s 0 0x10) 0
      else if q = 0 ∧ o = 0x110 then BitVec.ofNat 32 (min 0xFFFFFFFF ((rget s 0 0x110).toNat + 1))
      else if q = 0 ∧ o = 0x10C then
        (if infoHeld s 0 0x10C then setBit (rget s 0 0x10C) 30 else BitVec.ofNat 32 (2 ^ 31 + fields))
      else rget s q o := by
  have hs : ∀ p n, rget { s with accOffset := offset, accData := data } p n = rget s p n := fun _ _ => rfl
  rw [recordRefusal, raiseIrq_dev, capture_accInfo]
  split <;> simp [rcount, rget_rset, rget_rbump, rbits, putBits_word, bits_word, satAdd_one, ho, hs]

theorem rget_recordRefusal_other (s : State) (fields offset : Nat) (data : W32) {q o : Nat} (ho : o < 0x1000)
    (h : q = 0 → o ≠ 0x10 ∧ o ≠ 0x10C ∧ o ≠ 0x110) : rget (recordRefusal s fields offset data) q o = rget s q o := by
  rw [rget_recordRefusal s fields offset data ho, if_neg (by omega), if_neg (by omega), if_neg (by omega)]

theorem recordRefusal_frame (s : State) (fields offset : Nat) (data : W32) :
    { recordRefusal s fields offset data with regs := s.regs, accOffset := s.accOffset, accData := s.accData } = s := by
  rw [recordRefusal, raiseIrq_dev, capture_accInfo]
  split <;> rfl

/-- A refusal that finds no record takes the offset and the data. -/
theorem recordRefusal_captures {s : State} (fields offset : Nat) (data : W32) (h : infoHeld s 0 0x10C = false) :
    (recordRefusal s fields offset data).accOffset = offset ∧ (recordRefusal s fields offset data).accData = data := by
  rw [recordRefusal, raiseIrq_dev, capture_accInfo, h]
  exact ⟨rfl, rfl⟩

/-- `t` is `s` but for what records a refused access: ERR_CNT and STAT.ERR of the page that counts it, IRQ_STAT.ACC, DEV_ACC_CNT,
DEV_ACC_INFO with its capture, and the data read. -/
def OnlyRefused (s t : State) (target : Option Nat) : Prop :=
  (∀ q, target = some q → rbits t q 0x14 15 0 = min 0xFFFF (rbits s q 0x14 15 0 + 1) ∧ (rget t q 0x08).getLsbD 31 = true)
  ∧ (rget t 0 0x10).getLsbD 0 = true ∧ rget t 0 0x110 = BitVec.ofNat 32 (min 0xFFFFFFFF ((rget s 0 0x110).toNat + 1))
  ∧ (infoHeld s 0 0x10C = true → rget t 0 0x10C = setBit (rget s 0 0x10C) 30)
  ∧ (∀ q o, o < 0x1000 → (target = some q → o ≠ 0x14 ∧ o ≠ 0x08) → (q = 0 → o ≠ 0x10 ∧ o ≠ 0x10C ∧ o ≠ 0x110) → rget t q o = rget s q o)
  ∧ { t with regs := s.regs, accOffset := s.accOffset, accData := s.accData, rdata := s.rdata } = s

/-- DEV_ACC_INFO holds the record with the given fields, and its capture the offset and the data, if it held none (Table 19-9, R515). -/
def RecordsFirst (s t : State) (fields offset : Nat) (data : W32) : Prop :=
  infoHeld s 0 0x10C = false → rget t 0 0x10C = BitVec.ofNat 32 (2 ^ 31 + fields) ∧ t.accOffset = offset ∧ t.accData = data

section
variable (s : State) (target : Option Nat) (p k vi pg off : Nat) (v : W32)

theorem refuseAccess_frame :
    { refuseAccess s target p k vi pg off v with regs := s.regs, accOffset := s.accOffset, accData := s.accData } = s := by
  have h := congrArg (fun u : State => { u with regs := s.regs, accOffset := s.accOffset, accData := s.accData })
    (recordRefusal_frame (countRefusal s target) (p * 2 ^ 28 + k * 2 ^ 26 + vi * 2 ^ 20 + pg) (pg * 0x1000 + off) v)
  exact h.trans (by cases target <;> rfl)

theorem refuseAccess_rdata : (refuseAccess s target p k vi pg off v).rdata = s.rdata :=
  (congrArg State.rdata (refuseAccess_frame s target p k vi pg off v) :)

theorem refuseAccess_only : OnlyRefused s (refuseAccess s target p k vi pg off v) target := by
  have hframe := refuseAccess_frame s target p k vi pg off v
  have hkeep : ∀ o, o < 0x1000 → o ≠ 0x14 ∧ o ≠ 0x08 → rget (countRefusal s target) 0 o = rget s 0 o :=
    fun o ho hn => rget_countRefusal_other s ho fun _ => hn
  rw [refuseAccess_eq] at hframe ⊢
  refine ⟨?_, ?_, ?_, ?_, ?_, congrArg (fun u : State => { u with rdata := s.rdata }) hframe⟩
  · rintro q rfl
    rw [rbits, rget_recordRefusal_other _ _ _ _ (by decide) fun _ => by decide,
      rget_recordRefusal_other _ _ _ _ (by decide) fun _ => by decide]
    exact ⟨rbits_countRefusal_errCnt s q, stat_err_countRefusal s q⟩
  · rw [rget_recordRefusal _ _ _ _ (by decide)]
    simp [setBit]
  · rw [rget_recordRefusal _ _ _ _ (by decide), hkeep 0x110 (by decide) (by decide)]
    simp
  · intro h
    rw [rget_recordRefusal _ _ _ _ (by decide), infoHeld_countRefusal, h, hkeep 0x10C (by decide) (by decide)]
    simp
  · intro q o ho ht h0
    rw [rget_recordRefusal_other _ _ _ _ ho h0, rget_countRefusal_other s ho ht]

theorem refuseAccess_recordsFirst :
    RecordsFirst s (refuseAccess s target p k vi pg off v) (p * 2 ^ 28 + k * 2 ^ 26 + vi * 2 ^ 20 + pg) (pg * 0x1000 + off) v := by
  intro h
  have hn : infoHeld (countRefusal s target) 0 0x10C = false := (infoHeld_countRefusal s target).trans h
  refine ⟨?_, recordRefusal_captures _ _ _ hn⟩
  rw [refuseAccess_eq, rget_recordRefusal _ _ _ _ (by decide), hn]
  rfl

end

theorem exec_registerWrite (path : Path) (page : Nat) {off : Nat} (whole : Bool) (v : W32) (s : State) (ho : off < 0x1000) :
    exec (.registerWrite path page off whole v) s = .next (accessWrite path page off whole v s) := by
  show onUnit (decide (off < 0x1000)) _ = _
  rw [decide_eq_true ho, onUnit_true]

theorem exec_rcRead (path : Path) (page : Nat) {off : Nat} (s : State) (ho : off < 0x1000) :
    exec (.rcRead path page off) s = .next (accessRead path page off true s) := by
  show onUnit (decide (off < 0x1000)) _ = _
  rw [decide_eq_true ho, onUnit_true]

theorem accessWrite_refused {s : State} {path : Path} {page off p k vi pg : Nat} {whole : Bool} {target : Option Nat} (v : W32)
    (h : reach s path page off whole true = .refused target p k vi pg) :
    accessWrite path page off whole v s = refuseAccess s target p k vi pg off v := by
  unfold accessWrite
  rw [h]

theorem accessRead_refused {s : State} {path : Path} {page off p k vi pg : Nat} {whole : Bool} {target : Option Nat}
    (h : reach s path page off whole false = .refused target p k vi pg) :
    accessRead path page off whole s = { refuseAccess s target p k vi pg off 0 with rdata := some 0 } := by
  unfold accessRead
  rw [h]

/-- Settles O52: reserved bits lie outside the fields that a read assembles and a write takes; a refusal is `refuseAccess`. -/
theorem reservedBitsAndRefusals : Obligations.ReservedBitsAndRefusals := by
  refine ⟨fun s page off i r hr hi => getLsbD_regValue_reserved s hr hi, ?_, ?_⟩
  · intro s path page pg off whole v v' r ho hfull hr hv
    rw [exec_registerWrite _ _ _ _ _ ho, exec_registerWrite _ _ _ _ _ ho, accessWrite_full v hfull, accessWrite_full v' hfull,
      regWrite_congr hr hv]
  · intro s path page off target p k vi pg ho same recorded
    constructor
    · intro whole v h
      rw [exec_registerWrite _ _ _ _ _ ho, accessWrite_refused v h]
      exact performs_next ⟨refuseAccess_only s target p k vi pg off v, refuseAccess_recordsFirst s target p k vi pg off v,
        refuseAccess_rdata s target p k vi pg off v⟩
    · intro h
      rw [exec_rcRead _ _ _ ho, accessRead_refused h]
      exact performs_next ⟨refuseAccess_only s target p k vi pg off 0, refuseAccess_recordsFirst s target p k vi pg off 0, rfl⟩

end Sys2Proof.Machine
end

section
/-! PROOFS. Exceptions of a group: what the removal of a job's work leaves as it was (R100, R278), the state that an exception leaves (R99-R102),
and the field check of the convergence instructions (R155). -/
namespace Sys2Proof.Machine

/-! ### Tables -/

theorem mem_of_tfind {α : Type} {t : Tbl α} {n : Nat} {x : α} (h : tfind t n = some x) : (n, x) ∈ t := by
  induction t with
  | nil => cases h
  | cons e t ih =>
    rw [tfind_cons] at h
    split at h
    · next hn =>
      cases h
      exact hn ▸ List.mem_cons_self
    · exact List.mem_cons_of_mem e (ih h)

/-- A map that keeps the keys acts on what a lookup finds. -/
theorem tfind_map {α β : Type} (f : Nat × α → Nat × β) (hf : ∀ e, (f e).1 = e.1) (t : Tbl α) (n : Nat) :
    tfind (t.map f) n = (tfind t n).map fun x => (f (n, x)).2 := by
  induction t with
  | nil => rfl
  | cons e t ih =>
    rw [List.map_cons, tfind_cons, show f e = (e.1, (f e).2) from Prod.ext (hf e) rfl, tfind_cons, ih]
    split
    · next hn => rw [hn]; rfl
    · rfl

/-- What each step of a fold keeps and the step for one element brings about holds after the fold. -/
theorem foldl_of_mem {σ α : Type} {f : σ → α → σ} {P : σ → Prop} {l : List α} {a : α} (ha : a ∈ l) (hbegin : ∀ s, P (f s a))
    (hkeep : ∀ s b, P s → P (f s b)) (s : σ) : P (l.foldl f s) := by
  have hrest : ∀ (l : List α) s, P s → P (l.foldl f s) := fun l s hs => List.foldlRecOn l f hs fun s hs b _ => hkeep s b hs
  induction l generalizing s with
  | nil => cases ha
  | cons b l ih =>
    rcases List.mem_cons.mp ha with rfl | hl
    · exact hrest l _ (hbegin s)
    · exact ih hl _

/-! ### What the removal of work leaves as it was -/

/-- The captures of a core's fault record (R102). -/
def faultCapture (c : Core) : BitVec 48 × W64 × Mask := (c.fltPc, c.fltAddr, c.fltMask)

/-- `c'` keeps the fault record of `c`, and each group it holds stood in the same slot of `c` for the same job. -/
structure CoreSheds (c c' : Core) : Prop where
  capture_eq : faultCapture c' = faultCapture c
  group : ∀ g x, tfind c'.groups g = some x → ∃ y, tfind c.groups g = some y ∧ y.job = x.job

/-- `y` is a later record of the job `x`: it has the same packet, and has ended as `x` had, if `x` had ended. -/
structure JobStays (x y : Job) : Prop where
  words_eq : y.words = x.words
  ended : ∀ st cause, x.phase = .ended st cause → y.phase = .ended st cause

/-- `t` is `s` after work has been removed: contexts, graphs, the cores' registers and fault records are as in `s`, every group of `t`
stood in `s`, and every job of `s` is still there with its packet. -/
structure RemovesWork (s t : State) : Prop where
  contexts_eq : t.contexts = s.contexts
  graphs_eq : t.graphs = s.graphs
  rget_core : ∀ p < 36, ∀ off < 0x1000, rget t (pgCore p) off = rget s (pgCore p) off
  core : ∀ p, CoreSheds (coreOf s p) (coreOf t p)
  job : ∀ j x, jobOf s j = some x → ∃ y, jobOf t j = some y ∧ JobStays x y

theorem CoreSheds.of_eq {c c' : Core} (hf : faultCapture c' = faultCapture c) (hg : c'.groups = c.groups) : CoreSheds c c' :=
  ⟨hf, fun _ x hx => ⟨x, hg ▸ hx, rfl⟩⟩

theorem CoreSheds.refl (c : Core) : CoreSheds c c := .of_eq rfl rfl

theorem CoreSheds.trans {c c' c'' : Core} (h : CoreSheds c c') (h' : CoreSheds c' c'') : CoreSheds c c'' := by
  refine ⟨h'.capture_eq.trans h.capture_eq, fun g x hx => ?_⟩
  obtain ⟨y, hy, hyx⟩ := h'.group g x hx
  obtain ⟨z, hz, hzy⟩ := h.group g y hy
  exact ⟨z, hz, hzy.trans hyx⟩

theorem CoreSheds.foldl {α : Type} {f : Core → α → Core} (h : ∀ c a, CoreSheds c (f c a)) (l : List α) (c : Core) :
    CoreSheds c (l.foldl f c) :=
  List.foldlRecOn l f (CoreSheds.refl c) fun c' hc a _ => hc.trans (h c' a)

theorem JobStays.refl (x : Job) : JobStays x x := ⟨rfl, fun _ _ h => h⟩

theorem JobStays.trans {x y z : Job} (h : JobStays x y) (h' : JobStays y z) : JobStays x z :=
  ⟨h'.words_eq.trans h.words_eq, fun st cause hx => h'.ended st cause (h.ended st cause hx)⟩

namespace RemovesWork

/-- What touches none of the tables that `RemovesWork` speaks of. -/
theorem of_eq {s t : State} (hctx : t.contexts = s.contexts) (hgraphs : t.graphs = s.graphs) (hregs : t.regs = s.regs)
    (hcores : t.cores = s.cores) (hjobs : t.jobs = s.jobs) : RemovesWork s t where
  contexts_eq := hctx
  graphs_eq := hgraphs
  rget_core p _ off _ := by rw [rget, hregs, rget]
  core p := by rw [coreOf, coreOf, hcores]; exact .refl _
  job j x hx := ⟨x, by rw [jobOf, hjobs]; exact hx, .refl x⟩

theorem refl (s : State) : RemovesWork s s := of_eq rfl rfl rfl rfl rfl

theorem trans {s t u : State} (h : RemovesWork s t) (h' : RemovesWork t u) : RemovesWork s u where
  contexts_eq := h'.contexts_eq.trans h.contexts_eq
  graphs_eq := h'.graphs_eq.trans h.graphs_eq
  rget_core p hp off ho := (h'.rget_core p hp off ho).trans (h.rget_core p hp off ho)
  core p := (h.core p).trans (h'.core p)
  job j x hx := by
    obtain ⟨y, hy, hxy⟩ := h.job j x hx
    obtain ⟨z, hz, hyz⟩ := h'.job j y hy
    exact ⟨z, hz, hxy.trans hyz⟩

theorem foldl {α : Type} {f : State → α → State} (h : ∀ s a, RemovesWork s (f s a)) (l : List α) (s : State) :
    RemovesWork s (l.foldl f s) :=
  List.foldlRecOn l f (refl s) fun s' hs a _ => hs.trans (h s' a)

theorem groupOf_some {s t : State} (h : RemovesWork s t) {p g : Nat} {x : Group} (hx : groupOf t p g = some x) :
    ∃ y, groupOf s p g = some y ∧ y.job = x.job := (h.core p).group g x hx

theorem ctxOf_eq {s t : State} (h : RemovesWork s t) (ctx : Nat) : ctxOf t ctx = ctxOf s ctx :=
  congrArg (fun k => tfind k ctx) h.contexts_eq

theorem groupOf_none {s t : State} (h : RemovesWork s t) {p g : Nat} (hn : groupOf s p g = none) : groupOf t p g = none := by
  refine Option.eq_none_iff_forall_ne_some.mpr fun x hx => ?_
  obtain ⟨y, hy, -⟩ := h.groupOf_some hx
  simp [hn] at hy

/-- Another table of jobs, in which every job of `s` still stays. -/
theorem of_jobs {s t u : State} (h : RemovesWork s t) (hu : u = { t with jobs := u.jobs })
    (hjob : ∀ j x, jobOf s j = some x → ∃ y, jobOf u j = some y ∧ JobStays x y) : RemovesWork s u where
  contexts_eq := (congrArg State.contexts hu).trans h.contexts_eq
  graphs_eq := (congrArg State.graphs hu).trans h.graphs_eq
  rget_core p hp off ho := (congrArg (fun v => rget v (pgCore p) off) hu).trans (h.rget_core p hp off ho)
  core p := (congrArg (fun v => CoreSheds (coreOf s p) (coreOf v p)) hu).mpr (h.core p)
  job := hjob

theorem stageOf_eq {s t : State} (h : RemovesWork s t) (ctx : Nat) : stageOf t ctx = stageOf s ctx := by
  unfold stageOf
  rw [h.graphs_eq]

end RemovesWork

/-! ### Updates of one unit -/

theorem removesWork_updCore (s : State) (p : Nat) {f : Core → Core} (h : CoreSheds (coreOf s p) (f (coreOf s p))) :
    RemovesWork s (updCore s p f) where
  contexts_eq := rfl
  graphs_eq := rfl
  rget_core _ _ _ _ := rfl
  core q := by
    rw [updCore, coreOf_setCore]
    split
    · next hq => exact hq ▸ h
    · exact .refl _
  job _ x hx := ⟨x, hx, .refl x⟩

theorem removesWork_updGroup (s : State) (p g : Nat) {f : Group → Group} (h : ∀ x, (f x).job = x.job) :
    RemovesWork s (updGroup s p g f) := by
  unfold updGroup
  split
  · next x hx =>
    refine removesWork_updCore s p ⟨rfl, fun k y hy => ?_⟩
    rw [tfind_tput] at hy
    split at hy
    · next hk =>
      cases hy
      exact ⟨x, hk ▸ hx, (h x).symm⟩
    · exact ⟨y, hy, rfl⟩
  · exact .refl s

/-- A write to a page that is no core's. -/
theorem removesWork_rset (s : State) {page off : Nat} (v : W32) (hpage : ∀ p < 36, pgCore p ≠ page) (ho : off < 0x1000) :
    RemovesWork s (rset s page off v) where
  contexts_eq := rfl
  graphs_eq := rfl
  rget_core p hp _ ho' := by rw [rget_rset _ _ _ _ _ _ ho' ho, if_neg fun e => hpage p hp e.1]
  core _ := .refl _
  job _ x hx := ⟨x, hx, .refl x⟩

theorem removesWork_rcount_pgStr (s : State) (p n : Nat) : RemovesWork s (rcount s (pgStr p) 0x114 n) :=
  removesWork_rset s _ (fun q _ => by unfold pgCore pgStr; omega) (by decide)

theorem removesWork_sendVector (s : State) (fn v : Nat) : RemovesWork s (sendVector s fn v) := by
  unfold sendVector
  split
  · exact .refl s
  · exact .of_eq rfl rfl rfl rfl rfl

theorem removesWork_raiseIrq_pgQue (s : State) (q b : Nat) : RemovesWork s (raiseIrq s (pgQue q) b) := by
  have hset := removesWork_rset s (off := 0x10) (setBit (rget s (pgQue q) 0x10) b)
    (fun p hp => show pgCore p ≠ pgQue q by unfold pgCore pgQue; omega) (by decide)
  unfold raiseIrq
  dsimp only
  split
  · split
    · exact hset.trans (removesWork_sendVector _ _ _)
    · exact hset
  · exact hset

theorem removesWork_storeBytes (s : State) (xs : List (Nat × Byte)) : RemovesWork s (storeBytes s xs) := .of_eq rfl rfl rfl rfl rfl

/-! ### Semaphores and groups (R100, R185) -/

@[simp] theorem resumeGroup_job (g : Group) (rd : BitVec 7) (status : Nat) : (resumeGroup g rd status).job = g.job := by
  have hpc : ∀ g t v, (pcSet g t v).job = g.job := fun _ _ _ => rfl
  have hs : ∀ g r v, (sSet g r v).job = g.job := fun g r v => by unfold sSet; split <;> rfl
  exact (foldl_same Group.job _ (fun g t => hpc g t _) _ _).trans (hs _ _ _)

theorem removesWork_settleInherits (s : State) : RemovesWork s (settleInherits s) := by
  refine (RemovesWork.refl s).of_jobs rfl fun j x hx => ?_
  unfold settleInherits jobOf
  dsimp only
  rw [tfind_map _ (fun e => by split <;> rfl), show tfind s.jobs j = some x from hx]
  refine ⟨_, rfl, ?_⟩
  dsimp only
  split <;> exact ⟨rfl, fun _ _ h => h⟩

theorem removesWork_nearInvalidateAt (s : State) (p : Nat) : RemovesWork s (nearInvalidateAt s p) :=
  removesWork_updCore s p (.of_eq rfl rfl)

theorem removesWork_semaRelease (s : State) (n : Nat) (gone : Bool) : RemovesWork s (semaRelease s n gone) := by
  unfold semaRelease
  refine RemovesWork.trans ?_ (removesWork_settleInherits _)
  split
  · exact .refl s
  · split
    · exact .of_eq rfl rfl rfl rfl rfl
    · next L g rest _ =>
      dsimp only
      split
      · refine .trans ?_ (removesWork_nearInvalidateAt _ _)
        refine .trans ?_ (removesWork_updGroup _ _ g fun x => resumeGroup_job x _ _)
        exact .of_eq rfl rfl rfl rfl rfl
      · exact .of_eq rfl rfl rfl rfl rfl

/-- Slot g of core p is empty, and no barrier counts it: what `dropGroup` does first. -/
def vacateSlot (s : State) (p g : Nat) : State :=
  updCore s p fun c =>
    { c with groups := tdel c.groups g, order := c.order.filter (· != g),
             bars := c.bars.map fun b => (b.1, { b.2 with slots := b.2.slots.filter (· != g) }) }

theorem groupOf_vacateSlot (s : State) (p g : Nat) : groupOf (vacateSlot s p g) p g = none := by
  simp [groupOf, vacateSlot, updCore, tfind_tdel]

theorem removesWork_vacateSlot (s : State) (p g : Nat) : RemovesWork s (vacateSlot s p g) := by
  refine removesWork_updCore s p ⟨rfl, fun k x hx => ⟨x, ?_, rfl⟩⟩
  rw [tfind_tdel] at hx
  split at hx
  · cases hx
  · exact hx

theorem removesWork_vacateSlot_dropGroup {s : State} {p g : Nat} {gr : Group} (h : groupOf s p g = some gr) :
    RemovesWork (vacateSlot s p g) (dropGroup s p g) := by
  unfold dropGroup
  rw [h]
  refine RemovesWork.trans ?_ (.foldl (fun s n => removesWork_semaRelease s n true) _ _)
  split
  · exact .of_eq rfl rfl rfl rfl rfl
  · exact .refl _

theorem dropGroup_of_none {s : State} {p g : Nat} (h : groupOf s p g = none) : dropGroup s p g = s := by
  unfold dropGroup
  rw [h]

theorem removesWork_dropGroup (s : State) (p g : Nat) : RemovesWork s (dropGroup s p g) := by
  cases h : groupOf s p g with
  | none =>
    rw [dropGroup_of_none h]
    exact .refl s
  | some gr => exact (removesWork_vacateSlot s p g).trans (removesWork_vacateSlot_dropGroup h)

theorem groupOf_dropGroup (s : State) (p g : Nat) : groupOf (dropGroup s p g) p g = none := by
  cases h : groupOf s p g with
  | none => rwa [dropGroup_of_none h]
  | some gr => exact (removesWork_vacateSlot_dropGroup h).groupOf_none (groupOf_vacateSlot s p g)

/-! ### Transfers and copies that stop (R218, R553) -/

theorem CoreSheds.lsWrite (c : Core) (a : Nat) (bs : List Byte) : CoreSheds c (lsWrite c a bs) := .of_eq rfl rfl

theorem removesWork_stopBeats (s : State) (p n : Nat) :
    RemovesWork s (rcount { s with free := s.free + 1 } (pgStr p) 0x114 n) := by
  refine RemovesWork.trans ?_ (removesWork_rcount_pgStr _ p n)
  exact .of_eq rfl rfl rfl rfl rfl

theorem removesWork_landPartial (s : State) (p : Nat) (trans : Tbl Nat) (d : List W64) (t : Nat) :
    RemovesWork s (landPartial s p trans d t) := by
  have hfree := removesWork_stopBeats s p (Config.stopBeats s.free)
  unfold landPartial
  dsimp only
  split
  · exact hfree.trans (removesWork_storeBytes _ _)
  · exact hfree.trans (removesWork_updCore _ p (.foldl (fun c x => .lsWrite c _ _) _ _))
  · refine hfree.trans (removesWork_updCore _ p (.foldl (fun c x => ?_) _ _))
    split
    · exact .lsWrite c _ _
    · split
      · exact .lsWrite c _ _
      · split
        · exact .lsWrite c _ _
        · exact .refl c

theorem removesWork_stopEngine (s : State) (p j e : Nat) : RemovesWork s (stopEngine s p j e) := by
  unfold stopEngine
  refine RemovesWork.trans ?_ (removesWork_updCore _ p ?_)
  · split
    · split
      · exact removesWork_landPartial s p _ _ _
      · exact .refl s
    · exact .refl s
  · generalize coreOf _ p = c
    dsimp only
    split
    · exact .of_eq rfl rfl
    · exact .refl c

theorem removesWork_stopCopy (s : State) (p j : Nat) : RemovesWork s (stopCopy s p j) := by
  unfold stopCopy
  split
  · split
    · exact .refl s
    · refine .foldl (fun s b => ?_) _ s
      split
      · exact (removesWork_stopBeats s p _).trans (removesWork_storeBytes _ _)
      · exact .refl s
  · exact .refl s

/-! ### The work of a job (R100) -/

/-- No group of job `j` stands on core `p`. -/
def NoGroupOf (s : State) (p j : Nat) : Prop := ∀ g x, groupOf s p g = some x → x.job ≠ j

theorem NoGroupOf.keeps {s t : State} {p j : Nat} (hn : NoGroupOf s p j) (h : RemovesWork s t) : NoGroupOf t p j := fun g x hx => by
  obtain ⟨y, hy, hyx⟩ := h.groupOf_some hx
  exact hyx ▸ hn g y hy

/-- The slots of core `p` that hold a group of job `j`. -/
def slotsOf (s : State) (p j : Nat) : List Nat := ((coreOf s p).groups.filter fun g => g.2.job == j).map (·.1)

theorem mem_slotsOf {s : State} {p g j : Nat} {x : Group} (hx : groupOf s p g = some x) (hj : x.job = j) : g ∈ slotsOf s p j :=
  List.mem_map.mpr ⟨(g, x), List.mem_filter.mpr ⟨mem_of_tfind hx, beq_iff_eq.mpr hj⟩, rfl⟩

/-- The groups of job `j` leave core `p`: what `clearCore` does first. -/
def dropGroups (s : State) (p j : Nat) : State := (slotsOf s p j).foldl (fun s g => dropGroup s p g) s

theorem removesWork_dropGroups (s : State) (p j : Nat) : RemovesWork s (dropGroups s p j) :=
  .foldl (fun s g => removesWork_dropGroup s p g) _ s

theorem dropGroups_noGroupOf (s : State) (p j : Nat) : NoGroupOf (dropGroups s p j) p j := fun g x hx hj => by
  obtain ⟨y, hy, hyx⟩ := (removesWork_dropGroups s p j).groupOf_some hx
  have hgone : groupOf (dropGroups s p j) p g = none :=
    foldl_of_mem (f := fun s k => dropGroup s p k) (P := fun s => groupOf s p g = none) (mem_slotsOf hy (hyx.trans hj))
      (fun s => groupOf_dropGroup s p g)
      (fun s k hs => (removesWork_dropGroup s p k).groupOf_none hs) s
  rw [hgone] at hx
  cases hx

theorem removesWork_dropGroups_clearCore (s : State) (p j : Nat) : RemovesWork (dropGroups s p j) (clearCore s p j) := by
  unfold clearCore
  refine RemovesWork.trans ?_ (removesWork_updCore _ p ?_)
  · exact RemovesWork.trans (.foldl (fun s e => removesWork_stopEngine s p j e) _ _) (removesWork_stopCopy _ p j)
  · generalize coreOf _ p = c
    exact .of_eq rfl rfl

theorem removesWork_clearCore (s : State) (p j : Nat) : RemovesWork s (clearCore s p j) :=
  (removesWork_dropGroups s p j).trans (removesWork_dropGroups_clearCore s p j)

theorem clearCore_noGroupOf (s : State) (p j : Nat) : NoGroupOf (clearCore s p j) p j :=
  (dropGroups_noGroupOf s p j).keeps (removesWork_dropGroups_clearCore s p j)

theorem mem_coresWith {s : State} {p g j : Nat} {x : Group} (hp : p < 36) (hx : groupOf s p g = some x) (hj : x.job = j) :
    p ∈ coresWith s j := by
  refine List.mem_filter.mpr ⟨List.mem_range.mpr hp, ?_⟩
  unfold groupOf coreOf tget at hx
  cases hc : tfind s.cores p with
  | none => simp [hc] at hx
  | some c =>
    have hmem : (g, x) ∈ c.groups := mem_of_tfind (by simpa [hc] using hx)
    have hany : c.groups.any (fun e => e.2.job == j) = true := List.any_eq_true.mpr ⟨(g, x), hmem, beq_iff_eq.mpr hj⟩
    simp [hany]

theorem removesWork_clearJob (s : State) (j : Nat) : RemovesWork s (clearJob s j) :=
  .foldl (fun s p => removesWork_clearCore s p j) _ s

theorem clearJob_noGroupOf (s : State) {p : Nat} (j : Nat) (hp : p < 36) : NoGroupOf (clearJob s j) p j := fun g x hx hj => by
  obtain ⟨y, hy, hyx⟩ := (removesWork_clearJob s j).groupOf_some hx
  have hgone : NoGroupOf (clearJob s j) p j :=
    foldl_of_mem (f := fun s q => clearCore s q j) (P := fun s => NoGroupOf s p j) (mem_coresWith hp hy (hyx.trans hj))
      (fun s => clearCore_noGroupOf s p j) (fun s q hs => hs.keeps (removesWork_clearCore s q j)) s
  exact hgone g x hx hj

/-! ### The end of a job and the loss of its context (R100, R278, R296) -/

theorem jobOf_updJob (s : State) (j n : Nat) (f : Job → Job) :
    jobOf (updJob s j f) n = if n = j then (jobOf s j).map f else jobOf s n := by
  unfold updJob jobOf
  split
  · next x hx =>
    simp only [tfind_tput, hx]
    rfl
  · next hx =>
    split
    · next hn => rw [hn, hx]; rfl
    · rfl

theorem endJob_ended {s : State} {j st cause : Nat} {x : Job} {a b : Byte} (hj : jobOf s j = some x) (hx : x.phase = .ended a b) :
    endJob s j st cause = s := by
  unfold endJob
  simp only [hj, hx]

theorem endJob_active {s : State} {j : Nat} (st cause : Nat) {x : Job} (hj : jobOf s j = some x) (hx : ∀ a b, x.phase ≠ .ended a b) :
    endJob s j st cause
      = updJob (clearJob s j) j fun x => { x with phase := .ended (BitVec.ofNat 8 st) (BitVec.ofNat 8 cause) } := by
  unfold endJob
  rw [hj]
  dsimp only
  split
  · next h => exact absurd h (hx _ _)
  · rfl

theorem updJob_eq (s : State) (j : Nat) (f : Job → Job) : updJob s j f = { s with jobs := (updJob s j f).jobs } := by
  unfold updJob
  split <;> rfl

theorem groupOf_updJob (s : State) (j : Nat) (f : Job → Job) (p g : Nat) : groupOf (updJob s j f) p g = groupOf s p g := by
  rw [updJob_eq]
  rfl

/-- A job that had not ended takes another phase. -/
theorem RemovesWork.setPhase {s t : State} (h : RemovesWork s t) {j : Nat} {x : Job} (hj : jobOf s j = some x)
    (hx : ∀ a b, x.phase ≠ .ended a b) (phase : JobPhase) : RemovesWork s (updJob t j fun y => { y with phase := phase }) := by
  refine h.of_jobs (updJob_eq t j _) fun n z hz => ?_
  obtain ⟨y, hy, hzy⟩ := h.job n z hz
  rw [jobOf_updJob]
  split
  · next hn =>
    subst hn
    obtain rfl : x = z := Option.some.inj (hj.symm.trans hz)
    exact ⟨{ y with phase := phase }, by rw [hy]; rfl, hzy.words_eq, fun st cause hend => absurd hend (hx st cause)⟩
  · exact ⟨y, hy, hzy⟩

theorem removesWork_endJob (s : State) (j st cause : Nat) : RemovesWork s (endJob s j st cause) := by
  cases hj : jobOf s j with
  | none =>
    have hs : endJob s j st cause = s := by unfold endJob; rw [hj]
    exact hs.symm ▸ .refl s
  | some x =>
    by_cases hx : ∃ a b, x.phase = .ended a b
    · obtain ⟨a, b, hx⟩ := hx
      rw [endJob_ended hj hx]
      exact .refl s
    · have hx : ∀ a b, x.phase ≠ .ended a b := by simpa using hx
      rw [endJob_active st cause hj hx]
      exact (removesWork_clearJob s j).setPhase hj hx _

/-- The edge engines hold none of the tables of cores, jobs, contexts and graphs. -/
theorem removesWork_stopEdges (s : State) (tag : Nat) : RemovesWork s (stopEdges s tag) := by
  unfold stopEdges
  split
  · exact .refl s
  · exact .of_eq rfl rfl rfl rfl rfl

theorem removesWork_disarmOn (s : State) (q : Nat) : RemovesWork s (disarmOn s q) := .of_eq rfl rfl rfl rfl rfl

/-- The queues of a lost context raise LOST (R278). -/
theorem removesWork_raiseLost (stage : Bool) (qs : List Nat) (s : State) :
    RemovesWork s (qs.foldl (fun s q => raiseIrq (if stage then s else disarmOn s q) (pgQue q) 1) s) := by
  refine .foldl (fun s q => RemovesWork.trans ?_ (removesWork_raiseIrq_pgQue _ q 1)) qs s
  split
  · exact .refl s
  · exact removesWork_disarmOn s q

/-- A context of no stage is not created afresh. -/
theorem RemovesWork.restartStage {s t : State} {ctx : Nat} (h : RemovesWork s t) (hs : stageOf s ctx = none) :
    RemovesWork s (restartStage t ctx) := by
  unfold Machine.restartStage
  rw [h.stageOf_eq, hs]
  exact h

/-- The state with context `ctx` LOST. -/
def lostContext (s : State) (ctx : Nat) (c : Context) : State :=
  { s with contexts := tput s.contexts ctx { c with state := .lost } }

/-- A LIVE context that belongs to no stage of a service graph becomes LOST (R278). -/
theorem removesWork_loseContext {s : State} {ctx : Nat} {c : Context} (hc : ctxOf s ctx = some c) (hlive : c.state = .live)
    (hstage : stageOf s ctx = none) :
    RemovesWork (lostContext s ctx c) (loseContext s ctx) := by
  unfold loseContext
  simp only [hc, hlive, ne_eq, not_true_eq_false, if_false]
  refine RemovesWork.restartStage ?_ hstage
  refine RemovesWork.trans ?_ (removesWork_raiseLost _ _ _)
  exact (removesWork_stopEdges _ c.tag).trans (.foldl (fun s j => removesWork_endJob s j 2 0) _ _)

theorem rget_lostContext (s : State) (ctx : Nat) (c : Context) (page off : Nat) : rget (lostContext s ctx c) page off = rget s page off := rfl
theorem coreOf_lostContext (s : State) (ctx : Nat) (c : Context) (p : Nat) : coreOf (lostContext s ctx c) p = coreOf s p := rfl
theorem groupOf_lostContext (s : State) (ctx : Nat) (c : Context) (p g : Nat) : groupOf (lostContext s ctx c) p g = groupOf s p g := rfl
theorem ctxOf_lostContext (s : State) (ctx : Nat) (c : Context) : ctxOf (lostContext s ctx c) ctx = some { c with state := .lost } :=
  tfind_tput_self _ _ _

theorem RemovesWork.lostContext {s t : State} (h : RemovesWork s t) (ctx : Nat) (c : Context) :
    RemovesWork (lostContext s ctx c) (lostContext t ctx c) where
  contexts_eq := congrArg (fun k => tput k ctx ({ c with state := .lost } : Context)) h.contexts_eq
  graphs_eq := h.graphs_eq
  rget_core := h.rget_core
  core := h.core
  job := h.job

section
variable {s : State} {j : Nat} {x : Job} {c : Context} (cause : Nat) (hj : jobOf s j = some x) (hx : ∀ a b, x.phase ≠ .ended a b)
  (hc : ctxOf s x.ctx = some c) (hlive : c.state = .live) (hstage : stageOf s x.ctx = none)
include hj

theorem faultJob_eq : faultJob s j cause = loseContext (endJob s j 1 cause) x.ctx := by
  unfold faultJob
  rw [hj]

include hc hlive hstage

/-- What follows the end of the job in a fault: its context becomes LOST, and more work is removed. -/
theorem removesWork_endJob_faultJob : RemovesWork (lostContext (endJob s j 1 cause) x.ctx c) (faultJob s j cause) := by
  have hend := removesWork_endJob s j 1 cause
  rw [faultJob_eq cause hj]
  exact removesWork_loseContext ((hend.ctxOf_eq x.ctx).trans hc) hlive ((hend.stageOf_eq x.ctx).trans hstage)

/-- But for the work it removes, the fault of a job makes its context LOST. -/
theorem removesWork_faultJob : RemovesWork (lostContext s x.ctx c) (faultJob s j cause) :=
  ((removesWork_endJob s j 1 cause).lostContext x.ctx c).trans (removesWork_endJob_faultJob cause hj hc hlive hstage)

include hx

/-- A job that faults leaves every core (R100). -/
theorem faultJob_noGroupOf {p : Nat} (hp : p < 36) : NoGroupOf (faultJob s j cause) p j := by
  have hclear : NoGroupOf (endJob s j 1 cause) p j := by
    rw [endJob_active 1 cause hj hx]
    exact fun g y hy => clearJob_noGroupOf s j hp g y ((groupOf_updJob _ _ _ _ _).symm.trans hy)
  exact NoGroupOf.keeps (s := lostContext _ x.ctx c) hclear (removesWork_endJob_faultJob cause hj hc hlive hstage)

/-- A job that faults has ended with status 0x01 and the cause (R296). -/
theorem jobOf_faultJob :
    ∃ y, jobOf (faultJob s j cause) j = some y ∧ y.words = x.words ∧ y.phase = .ended 1 (BitVec.ofNat 8 cause) := by
  obtain ⟨y, hy, hyx, -⟩ := (removesWork_clearJob s j).job j x hj
  have hend : jobOf (endJob s j 1 cause) j = some { y with phase := .ended 1 (BitVec.ofNat 8 cause) } := by
    rw [endJob_active 1 cause hj hx, jobOf_updJob, if_pos rfl, hy]
    rfl
  obtain ⟨z, hz, hzy, hphase⟩ := (removesWork_endJob_faultJob cause hj hc hlive hstage).job j _ hend
  exact ⟨z, hz, hzy.trans hyx, hphase _ _ rfl⟩

end

/-! ### An exception -/

/-- The state in which core `p` holds a fault record with the given fields and captures (R102). -/
def withFault (s : State) (p fields : Nat) (pc addr : W64) (mask : Mask) : State :=
  updCore (rset s (pgCore p) 0x110 (BitVec.ofNat 32 (0x80000000 + fields))) p
    fun c => { c with fltPc := pc.setWidth 48, fltAddr := addr, fltMask := mask }

section
variable (s : State) (p fields : Nat) (pc addr : W64) (mask : Mask)

theorem rget_withFault : rget (withFault s p fields pc addr mask) (pgCore p) 0x110 = BitVec.ofNat 32 (0x80000000 + fields) :=
  (rget_rset s _ _ _ _ _ (by decide) (by decide)).trans (if_pos ⟨rfl, rfl⟩)

theorem faultCapture_withFault : faultCapture (coreOf (withFault s p fields pc addr mask) p) = (pc.setWidth 48, addr, mask) := by
  rw [withFault, updCore, coreOf_setCore, if_pos rfl]
  rfl

theorem groupOf_withFault (g : Nat) : groupOf (withFault s p fields pc addr mask) p g = groupOf s p g := by
  rw [withFault, updCore, groupOf, coreOf_setCore, if_pos rfl]
  rfl

theorem jobOf_withFault (j : Nat) : jobOf (withFault s p fields pc addr mask) j = jobOf s j := rfl
theorem ctxOf_withFault (ctx : Nat) : ctxOf (withFault s p fields pc addr mask) ctx = ctxOf s ctx := rfl
theorem stageOf_withFault (ctx : Nat) : stageOf (withFault s p fields pc addr mask) ctx = stageOf s ctx := rfl

end

section
variable {s : State} {p : Nat} (g cause : Nat) (pc addr : W64) (mask : Mask)

theorem recordFault_of_free (h : infoHeld s (pgCore p) 0x110 = false) :
    recordFault s p g cause pc addr mask = withFault s p (g * 2 ^ 24 + cause * 2 ^ 16) pc addr mask := by
  unfold recordFault capture withFault
  rw [h, if_neg Bool.false_ne_true, if_neg Bool.false_ne_true]

theorem takeException_eq {gr : Group} (hgr : groupOf s p g = some gr) (hcause : cause ≠ 9) :
    takeException s p g cause pc addr mask = faultJob (recordFault s p g cause pc addr mask) gr.job cause := by
  unfold takeException
  rw [hgr]
  exact if_neg hcause

/-- An exception of a cause that ends its job leaves what R99 to R102 say. -/
theorem excepts_takeException (hp : p < 36) (hcause : cause ≠ 9) :
    Excepts (.next (takeException s p g cause pc addr mask)) s p g cause pc addr mask := by
  intro gr x c hgr hx hrun hc hlive hstage hfree
  have hactive : ∀ a b, x.phase ≠ .ended a b := fun a b => by rw [hrun]; exact JobPhase.noConfusion
  rw [takeException_eq g cause pc addr mask hgr hcause, recordFault_of_free g cause pc addr mask hfree, Nat.add_assoc]
  generalize g * 2 ^ 24 + cause * 2 ^ 16 = fields
  have hxr := (jobOf_withFault s p fields pc addr mask gr.job).trans hx
  have hcr := (ctxOf_withFault s p fields pc addr mask x.ctx).trans hc
  have hsr := (stageOf_withFault s p fields pc addr mask x.ctx).trans hstage
  have hkeep := removesWork_faultJob cause hxr hcr hlive hsr
  have hcapture := (hkeep.core p).capture_eq
  rw [coreOf_lostContext, faultCapture_withFault] at hcapture
  obtain ⟨hpc, haddr, hmask⟩ : _ ∧ _ ∧ _ := by simpa only [faultCapture, Prod.mk.injEq] using hcapture
  refine performs_next ⟨?_, hpc, haddr, hmask, ?_, ?_, jobOf_faultJob cause hxr hactive hcr hlive hsr⟩
  · rw [hkeep.rget_core p hp 0x110 (by decide), rget_lostContext]
    exact rget_withFault s p fields pc addr mask
  · refine Option.eq_none_iff_forall_ne_some.mpr fun y hy => ?_
    obtain ⟨z, hz, hzy⟩ := hkeep.groupOf_some hy
    rw [groupOf_lostContext, groupOf_withFault, hgr] at hz
    cases hz
    exact faultJob_noGroupOf cause hxr hactive hcr hlive hsr hp g y hy hzy.symm
  · rw [hkeep.ctxOf_eq, ctxOf_lostContext]

end

/-! ### The field check of an instruction -/

/-- A word that the field check of its instruction refuses raises cause 0x01 for the whole issue set (R147). -/
theorem issue_illegal {s : State} {p g : Nat} {w : InsnWord} {i : Iss} {cls : Nat} {legal : Group → InsnWord → Bool}
    {body : Iss → State → Eff} (hp : p < 36) (hg : g < 48) (hprep : prepare s p g w = .go i) (hl : legal i.gr w = false) :
    issue p g w cls legal body s = .next (takeException s p g 1 i.pc 0 i.set) := by
  unfold issue issueAt
  simp [hp, hg, hprep, hl]

theorem excepts_illegal {s : State} {p g : Nat} {w : InsnWord} {i : Iss} {cls : Nat} {legal : Group → InsnWord → Bool}
    {body : Iss → State → Eff} (hp : p < 36) (hg : g < 48) (hprep : prepare s p g w = .go i) (hl : legal i.gr w = false) :
    Excepts (issue p g w cls legal body s) s p g 1 i.pc 0 i.set := by
  rw [issue_illegal hp hg hprep hl]
  exact excepts_takeException g 1 i.pc 0 i.set hp (by decide)

theorem pred_neg_refused {w : InsnWord} (h : w.pred ≠ 0 ∨ w.neg = true) : (w.pred == 0 && !w.neg) = false := by
  rcases h with h | h
  · rw [beq_eq_false_iff_ne.mpr h, Bool.false_and]
  · rw [h, Bool.not_true, Bool.and_false]

theorem cvgSetLegal_false {gr : Group} {w : InsnWord} (h : w.pred ≠ 0 ∨ w.neg = true) : cvgSetLegal gr w = false := by
  rw [cvgSetLegal, Bool.and_assoc, pred_neg_refused h, Bool.and_false]

theorem cvgWaitLegal_false {gr : Group} {w : InsnWord} (h : w.pred ≠ 0 ∨ w.neg = true) : cvgWaitLegal gr w = false := by
  rw [cvgWaitLegal, Bool.and_assoc, pred_neg_refused h, Bool.and_false]

theorem exec_cvgSet (p g : Nat) (w : InsnWord) (s : State) : exec (.cvgSet p g w) s = issue p g w 1 cvgSetLegal cvgSetBody s := rfl
theorem exec_cvgWait (p g : Nat) (w : InsnWord) (s : State) : exec (.cvgWait p g w) s = issue p g w 1 cvgWaitLegal cvgWaitBody s := rfl

/-- Settles O12: the field checks of both instructions refuse the word, and a refused word takes the exception of cause 0x01. -/
theorem convergenceFieldCheck : Obligations.ConvergenceFieldCheck := by
  intro s p g w i hp hg hprep hw
  rw [exec_cvgSet, exec_cvgWait]
  exact ⟨excepts_illegal hp hg hprep (cvgSetLegal_false hw), excepts_illegal hp hg hprep (cvgWaitLegal_false hw)⟩

end Sys2Proof.Machine
end

section
/-! PROOFS. The journal: the rings that a record joins, the tokens it takes and the records that DEFER counts (R466-R468). -/
namespace Sys2Proof.Machine

/-! ### Counters that share a register -/

/-- Replacing a field leaves a field that shares no bit with it. -/
theorem bits_putBits_disjoint {n : Nat} (w : BitVec n) {hi lo hi' lo' : Nat} (v : Nat) (h : hi' < lo ∨ hi < lo') :
    bits (putBits w hi lo v) hi' lo' = bits w hi' lo' :=
  bits_eq_iff.mpr fun i hl hh => by rw [getLsbD_putBits, if_neg (by omega)]

theorem rbits_rbump_disjoint (s : State) {page off hi lo hi' lo' : Nat} (n : Nat) (ho : off < 0x1000) (h : hi' < lo ∨ hi < lo') :
    rbits (rbump s page off hi lo n) page off hi' lo' = rbits s page off hi' lo' := by
  rw [rbits, rget_rbump _ _ _ _ _ _ _ _ ho ho, if_pos ⟨rfl, rfl⟩, bits_putBits_disjoint _ _ h]
  rfl

/-- A counter in a field of a register saturates at the field's greatest value. -/
theorem rbits_rbump_one (s : State) {page off hi lo : Nat} (ho : off < 0x1000) (hhi : hi < 32) :
    rbits (rbump s page off hi lo 1) page off hi lo = min (2 ^ (hi + 1 - lo) - 1) (rbits s page off hi lo + 1) := by
  have hpos : 0 < 2 ^ (hi + 1 - lo) := Nat.two_pow_pos _
  rw [rbits, rget_rbump _ _ _ _ _ _ _ _ ho ho, if_pos ⟨rfl, rfl⟩, bits_putBits _ _ hhi, satAdd_one]
  exact Nat.mod_eq_of_lt (by omega)

@[simp] theorem rbump_rel (s : State) (page off hi lo n : Nat) : (rbump s page off hi lo n).rel = s.rel := rfl

theorem rbits_withRel (s : State) (x : Rel) (page off hi lo : Nat) :
    rbits { s with rel := x } page off hi lo = rbits s page off hi lo := rfl

/-! ### The HBM ring and the health store (R466) -/

/-- The HBM ring with a record more, which takes the place of the oldest in a full ring. -/
def ringWith (ring : List Record) (r : Record) : List Record := (if ring.length < 4096 then ring else ring.tail) ++ [r]

theorem journalHbm_rel (s : State) (r : Record) : (journalHbm s r).rel = { s.rel with hbmRing := ringWith s.rel.hbmRing r } := by
  unfold journalHbm ringWith hbmRingSize
  split <;> rfl

/-- A record overwritten in the HBM ring is counted beside DEFER, in bits [31:16]. -/
theorem rbits_journalHbm_defer (s : State) (r : Record) : rbits (journalHbm s r) 4 0x12C 7 0 = rbits s 4 0x12C 7 0 := by
  unfold journalHbm
  split
  · rfl
  · exact rbits_rbump_disjoint _ 1 (by decide) (by decide)

@[simp] theorem journalHs_rel (s : State) (r : Record) :
    (journalHs s r).rel = { s.rel with hsPending := s.rel.hsPending ++ [r] } := rfl

theorem rbits_journalHs (s : State) (r : Record) (page off hi lo : Nat) :
    rbits (journalHs s r) page off hi lo = rbits s page off hi lo := rfl

/-- The state in which a record has been numbered and has joined the HBM ring. -/
def recorded (s : State) (r : Record) : State := journalHbm { s with rel := { s.rel with nextSeq := s.rel.nextSeq + 1 } } r

theorem recorded_rel (s : State) (r : Record) :
    (recorded s r).rel = { s.rel with nextSeq := s.rel.nextSeq + 1, hbmRing := ringWith s.rel.hbmRing r } := journalHbm_rel _ r

theorem rbits_recorded_defer (s : State) (r : Record) : rbits (recorded s r) 4 0x12C 7 0 = rbits s 4 0x12C 7 0 :=
  rbits_journalHbm_defer _ r

/-! ### What a record does by its severity (R468) -/

/-- The record as it is journalled now. -/
def stamped (s : State) (page kind severity : Nat) (info : List Byte) : Record :=
  { time := s.now, page, kind, severity, seq := s.rel.nextSeq % 2 ^ 32, info := info.take 32 }

/-- The state with one token less. -/
def withTokenTaken (s : State) : State := { s with rel := { s.rel with tokens := s.rel.tokens - 1 } }

section
variable (s : State) (page kind : Nat) (info : List Byte)

theorem journalAs_severity_three :
    journalAs s page kind 3 info = journalHs (recorded s (stamped s page kind 3 info)) (stamped s page kind 3 info) := rfl

theorem journalAs_severity_two :
    journalAs s page kind 2 info =
      if 0 < s.rel.tokens then journalHs (withTokenTaken (recorded s (stamped s page kind 2 info))) (stamped s page kind 2 info)
      else rbump (recorded s (stamped s page kind 2 info)) 4 0x12C 7 0 1 := by
  have htokens : (recorded s (stamped s page kind 2 info)).rel.tokens = s.rel.tokens := by rw [recorded_rel]
  rw [← htokens]
  rfl

theorem journalAs_severity_low {severity : Nat} (h : severity < 2) :
    journalAs s page kind severity info = recorded s (stamped s page kind severity info) := by
  unfold journalAs
  dsimp only
  rw [if_neg (by omega), if_neg (by omega)]
  rfl

theorem journalAs_rel {severity : Nat} (h : severity < 4) :
    (journalAs s page kind severity info).rel =
      { s.rel with
        nextSeq := s.rel.nextSeq + 1
        hbmRing := ringWith s.rel.hbmRing (stamped s page kind severity info)
        hsPending := if severity = 3 ∨ (severity = 2 ∧ 0 < s.rel.tokens) then s.rel.hsPending ++ [stamped s page kind severity info]
          else s.rel.hsPending
        tokens := if severity = 2 then s.rel.tokens - 1 else s.rel.tokens } := by
  obtain rfl | rfl | hlow : severity = 3 ∨ severity = 2 ∨ severity < 2 := by omega
  · simp [journalAs_severity_three, recorded_rel]
  · rw [journalAs_severity_two]
    split
    · next htoken => simp [withTokenTaken, recorded_rel, htoken]
    · next hempty => simp [recorded_rel, show s.rel.tokens = 0 by omega]
  · simp [journalAs_severity_low s page kind info hlow, recorded_rel, show severity ≠ 2 by omega, show severity ≠ 3 by omega]

/-- DEFER counts the records of severity 2 that find the bucket empty, and no others. -/
theorem rbits_journalAs_defer {severity : Nat} (h : severity < 4) :
    rbits (journalAs s page kind severity info) 4 0x12C 7 0 =
      if severity = 2 ∧ s.rel.tokens = 0 then min 255 (rbits s 4 0x12C 7 0 + 1) else rbits s 4 0x12C 7 0 := by
  obtain rfl | rfl | hlow : severity = 3 ∨ severity = 2 ∨ severity < 2 := by omega
  · rw [journalAs_severity_three, rbits_journalHs, rbits_recorded_defer, if_neg (by omega)]
  · rw [journalAs_severity_two]
    split
    · next htoken => rw [rbits_journalHs, withTokenTaken, rbits_withRel, rbits_recorded_defer, if_neg (by omega)]
    · next hempty =>
      rw [if_pos ⟨rfl, by omega⟩, ← rbits_recorded_defer s (stamped s page kind 2 info)]
      exact rbits_rbump_one _ (by decide) (by decide)
  · rw [journalAs_severity_low s page kind info hlow, rbits_recorded_defer, if_neg (by omega)]

/-- A STATE record joins both rings and leaves the bucket alone (R467). -/
theorem journalState_rel :
    (journalState s info).rel =
      { s.rel with
        nextSeq := s.rel.nextSeq + 1
        hbmRing := ringWith s.rel.hbmRing (stamped s 4 stateKind 3 info)
        hsPending := s.rel.hsPending ++ [stamped s 4 stateKind 3 info] } := by
  have hstate : journalState s info = journalHs (recorded s (stamped s 4 stateKind 3 info)) (stamped s 4 stateKind 3 info) := rfl
  rw [hstate, journalHs_rel, recorded_rel]

end

/-! ### The events -/

theorem exec_journalRecord {r : JournalInput} (s : State) (hkind : r.kind < 256) (hsev : r.severity < 4) :
    exec (.journalRecord r) s = .next (journalAs s r.page r.kind r.severity r.info) := by
  have h : exec (.journalRecord r) s = execJournalRecord r s := rfl
  simp [h, execJournalRecord, hkind, hsev]

/-- A token comes 8 s after the last one, or later. -/
theorem exec_journalToken (s : State) :
    exec .journalToken s = .next { atLeast s (s.rel.tokenAt + 8000000000) with
      rel := { s.rel with tokens := min 64 (s.rel.tokens + 1), tokenAt := max s.now (s.rel.tokenAt + 8000000000) } } := rfl

/-- Settles O48: the rings, the bucket and DEFER after a record of each severity, after a STATE record and after a token. -/
theorem healthStoreTokens : Obligations.HealthStoreTokens := by
  refine ⟨fun s r hkind hsev => ?_, fun s info => ?_, fun s => ?_⟩
  · rw [exec_journalRecord s hkind hsev]
    refine performs_next ?_
    rw [journalAs_rel s r.page r.kind r.info hsev]
    exact ⟨rfl, rfl, rfl, rfl, rbits_journalAs_defer s r.page r.kind r.info hsev⟩
  · rw [journalState_rel]
    exact ⟨rfl, stamped s 4 stateKind 3 info, rfl, rfl, rfl⟩
  · rw [exec_journalToken]
    exact performs_next ⟨rfl, rfl, Nat.le_max_right _ _⟩

end Sys2Proof.Machine
end
